-- ==== Sys2Proof/Word.lean ====
section
/-! DEFINITION. The word types of the Ewetik model: bytes, the index types of the device's arrays (R11, R465), the
two list-based containers (a map and a byte memory), and nothing that a rule of the spec computes. -/

namespace Sys2Proof

/-- One byte. -/
abbrev Byte := BitVec 8

/-- A 32-bit register or header word. -/
abbrev W32 := BitVec 32

/-- A 64-bit word. -/
abbrev W64 := BitVec 64

/-- A Shed, 0 to 3 (R11). -/
abbrev ShedIx := Fin 4

/-- A unit of an array of 17 in a Shed: 0 to 15 active, 16 the spare (R10, R11). -/
abbrev UnitIx := Fin 17

/-- A device port, 0 to 511 (R406). -/
abbrev PortIx := Fin 512

/-- A mailbox channel, 0 to 159 (R321). -/
abbrev ChanIx := Fin 160

/-- A PCIe function: port A PF0 and VFs are 0 to 63, port B's are 64 to 127, the numbers of their channels (R321). -/
abbrev FnIx := Fin 128

/-- A near-tier stack or a Lantern, 0 to 15 (R11, R404). -/
abbrev StackIx := Fin 16

/-- A clock island, 0 to 24 (R17). -/
abbrev IslandIx := Fin 25

/-- A DMA channel, Shed × 32 + channel (R309). -/
abbrev DmaIx := Fin 128

/-- A fabric node id. -/
abbrev Node := BitVec 16

/-- A finite map as plain data: a key is listed at most once, and an unlisted key has the owner's default. -/
abbrev Assoc (κ α : Type) := List (κ × α)

/-- A byte memory as plain data: cells at strictly rising addresses, none holding the byte zero that an unlisted
address reads as. -/
abbrev Mem := List (Nat × Byte)

end Sys2Proof
end

