-- ==== Sys2Proof/Syntax.lean ====
section
/-! DEFINITION. The commands of the Ewetik block: one constructor for each row of spec/opcode_table.json, in the
table's order, with the operands the row's rule gives it. A row that is a mailbox command carries its request slot
(R325), a row that is a CMX packet its header and payload (R76), a row that is a Yard instruction its Yard and its
fields (R236), a row that is a DMA instruction its channel and its fields (R311); a row that is an event names the
object it happens to and the facts that only the outside world knows. -/

namespace Sys2Proof

/-- The four kinds of unit with a spare in each Shed, coded as SPARE_ENGAGE codes them (R384). -/
inductive UnitKind where
  | yard | reduce | gather | filter
deriving DecidableEq, Repr

/-- What the link layer below CMX tells of an arriving packet (R22 stations 2 and 3, R72 to R75). -/
structure L2 where
  /-- The MACsec check of the frame passes (R365). -/
  macsecOk : Bool := true
  /-- The number of VLAN tags (R72). -/
  vlanTags : Nat := 0
  /-- The packet is an IP fragment (R72). -/
  ipFragment : Bool := false
  /-- The packet is IPv6. -/
  ipv6 : Bool := false
  /-- The packet is IPv4 with options (R72). -/
  ipOptions : Bool := false
  /-- The UDP destination port (R73). -/
  udpPort : BitVec 16 := 26448
  /-- The UDP payload length: 40 plus the CMX payload (R75). -/
  udpLen : Nat
  /-- The UDP checksum is zero or verifies (R74). -/
  udpSumOk : Bool := true
  /-- The packet arrived marked Congestion Experienced (R91). -/
  ce : Bool := false
  /-- The frame's first 256 bytes, and the LNI counter of its port's Shed at its arrival, in ns (R293). -/
  head : List Byte := []
  lni : Nat := 0
deriving DecidableEq, Repr

/-- What the read of one location of the near tier finds (R45, R49, R51). -/
inductive EccResult where
  | clean | corrected | uncorrectable
deriving DecidableEq, Repr

/-- A CMX packet addressed to the device, as it arrives on a port: the header of R76 (its OPCODE is the command's
row) and the payload. `now` is the SHC island counter, in ns, of the Shed that the packet's rule names, at the
packet's arrival. -/
structure Rx where
  port : PortIx
  l2 : L2
  version : BitVec 4 := 1
  htype : BitVec 4 := 0
  flags : BitVec 16 := 0
  pen : BitVec 12 := 0
  cls : BitVec 4 := 0
  src : Node
  seq : W32 := 0
  epoch : BitVec 16 := 0
  length : BitVec 16 := 0
  addr : BitVec 56 := 0
  keyId : BitVec 8 := 0
  group : W32 := 0
  step : W32 := 0
  handle : W32 := 0
  tag : W32 := 0
  payload : List Byte := []
  now : Nat := 0
  /-- Locations of the near tier, by stack and location, that have come to hold an error; their next read reports it (R45). -/
  flaws : List ((StackIx × Nat) × EccResult) := []
deriving DecidableEq, Repr

/-- A mailbox request as the Keeper takes it: the request slot of R325 (its OPCODE is the command's row, PLEN the
payload's length) on a channel. `bufOk` says that the PCIe or CMX accesses to the host buffer complete without
error (R336), and `now` is the counter, in ns, of the island that the command's rule names. -/
structure Req where
  chan : ChanIx
  flags : BitVec 16 := 0
  tag : W32 := 0
  pen : BitVec 16 := 0
  payload : List Byte := []
  blen : W32 := 0
  buf : W64 := 0
  bufOk : Bool := true
  now : Nat := 0
deriving DecidableEq, Repr

/-- A Yard of the device: Shed and index, index 16 the spare (R11). -/
structure YardRef where
  shed : ShedIx
  yard : UnitIx
deriving DecidableEq, Repr

/-- The fields of a Yard instruction other than GRP and OP, which its row fixes (R236). -/
structure YF where
  pred : BitVec 4 := 0
  rd : BitVec 5 := 0
  ra : BitVec 5 := 0
  rb : BitVec 5 := 0
  rc : BitVec 5 := 0
  fmt : BitVec 4 := 0
  rnd : BitVec 2 := 0
  immb : Bool := false
  rsv : BitVec 5 := 0
  aux : BitVec 16 := 0
  imm : W64 := 0
deriving DecidableEq, Repr

/-- The fields of a DMA instruction other than OP, which its row fixes (R311). -/
structure DF where
  sspace : BitVec 2 := 0
  dspace : BitVec 2 := 0
  rsv1 : BitVec 4 := 0
  stop : Bool := false
  pattern : Bool := false
  notify : Bool := false
  clear : Bool := false
  rsv2 : BitVec 4 := 0
  keyId : BitVec 8 := 0
  length : W32 := 0
  src : W64 := 0
  dst : W64 := 0
  sstride : W32 := 0
  dstride : W32 := 0
deriving DecidableEq, Repr

/-- The CMX header fields that the forwarding path of a frame reads (R100, R268, R269). -/
structure FwdCmx where
  pen : BitVec 12
  cls : BitVec 4
  epoch : BitVec 16
  /-- A request: subject to the epoch check of R100. Responses, Acknowledgements and Hellos are exempt (R101). -/
  request : Bool
  src : Node
  tag : W32
  addr : BitVec 56
  keyId : BitVec 8
  group : W32
  handle : W32
  /-- The SEQ and the port facts a NACK to the sender needs are those of the frame. -/
  seq : W32
  op : BitVec 8 := 0x01
  /-- HTYPE: 0 Sequenced, 1 Acknowledgement, 2 Hello (R76). -/
  htype : BitVec 4 := 0
  /-- The IP, UDP and CMX headers pass the checks of station 3 other than that of the opcode (R72 to R76). -/
  headerOk : Bool := true
deriving DecidableEq, Repr

/-- An Ethernet frame that arrives on a port and is not addressed to the device (R269). -/
structure Frame where
  port : PortIx
  dst : BitVec 48
  src : BitVec 48
  /-- 802.1Q tags, as (PCP, DEI, VID) of the outermost; more than one is dropped (R414). -/
  tags : Nat := 0
  vid : BitVec 12 := 0
  pcp : BitVec 3 := 0
  dei : Bool := false
  /-- Bytes from the destination MAC address to the FCS (R281). -/
  len : Nat
  /-- The IP destination address; none for a frame that is not IP (R269). -/
  ipDst : Option (BitVec 128) := none
  /-- TTL or hop limit (R271). -/
  ttl : BitVec 8 := 64
  /-- ECN-capable transport (R290). -/
  ect : Bool := false
  sport : BitVec 16 := 0
  cmx : Option FwdCmx := none
  /-- An IEEE 802.3 PAUSE frame (R289). -/
  pause : Bool := false
  fcsOk : Bool := true
  macsecOk : Bool := true
  /-- The first 256 bytes, and the LNI counter of its port's Shed at its arrival, in ns, for a sampler (R293). -/
  head : List Byte := []
  lni : Nat := 0
  /-- The Match Table rows, by bank and row number, that have lost a bit when the frame is looked up (R218). -/
  corrupt : List (ShedIx × Nat) := []
deriving DecidableEq, Repr

/-- A cache of the coherent device space: 0 to 67 the Yard L1 caches (Shed × 17 + Yard), 68 the Keeper's (R301). -/
abbrev CacheIx := Fin 69

/-- Who makes a register access: a PCIe function, board management, or Keeper firmware (R462, R464). -/
inductive Caller where
  | fn (f : FnIx)
  | board
  | keeper
deriving DecidableEq, Repr

/-- An expander: of a Yard, or of a Gather Unit (R163). -/
inductive ExpRef where
  | yard (y : YardRef)
  | gather (shed : ShedIx) (unit : UnitIx)
deriving DecidableEq, Repr

/-- The holder of a lease: a fabric node or a mailbox channel (R123). -/
inductive Holder where
  | node (n : Node)
  | chan (c : ChanIx)
deriving DecidableEq, Repr

/-- What the boot of R436 and R437 finds outside the die: the levels of the 38 filtered pins, whether the NOR
answers, and whether the security engine passes its self-test. -/
structure BootFacts where
  pins : BitVec 38
  norOk : Bool := true
  secOk : Bool := true
deriving DecidableEq, Repr

/-- What firmware bring-up finds in each Shed (R429, R437 step 6): rails and the two reference inputs present, the
self-tests of the Shed's SHC, YRD and LNI islands, the training of each stack. -/
structure BringupFacts where
  rails : BitVec 4
  refA : BitVec 4
  refB : BitVec 4
  shcOk : BitVec 4
  yrdOk : BitVec 4
  lniOk : BitVec 4
  stacksOk : BitVec 16
deriving DecidableEq, Repr

/-- The calibration measurements of one Lantern in the layout of R452: for each of the 36 slices, whether light
returned and the items measured, then the two laser reference powers. -/
structure CalibFacts where
  /-- Slice items as (ring tuning, bias, transmit taps, receive equalisation) bytes; none where no light returned. -/
  slices : List (Option (List Byte))
  /-- Reference powers of inputs A and B in 0.01 dBm, signed. -/
  laserA : BitVec 16
  laserB : BitVec 16
deriving DecidableEq, Repr

/-- The optical monitors of one Lantern at a 100 ms evaluation (R386). Powers are in 0.01 dBm; heater and eye in
percent; the bit error ratio in units of 10^-9. -/
structure WearFacts where
  laserA : BitVec 16
  laserB : BitVec 16
  /-- For each of the 36 slices: heater share, eye margin share, pre-FEC bit error ratio. -/
  slices : List (Nat × Nat × Nat)
deriving DecidableEq, Repr

/-- One row of a flash tray's erase-block metadata (R65). -/
structure EraseBlock where
  block : Nat
  erases : W32
  reads : W32
  hour : W32
  valid : BitVec 16
  state : BitVec 16
deriving DecidableEq, Repr

/-- One checkpoint slot of a flash tray: its sequence, the (logical unit, slot) pairs of the map, the metadata (R65). -/
structure Checkpoint where
  seq : W32
  map : List (Nat × W32)
  blocks : List EraseBlock
  /-- The powered-on hour (R66). -/
  hour : W32 := 0
deriving DecidableEq, Repr

/-- An erase block of a flash tray whose reads call for a relocation (R65); `hard`: a read of it took more than 75 % of the
tray's correction limit. -/
structure ReadBlock where
  block : Nat
  hard : Bool := false
deriving DecidableEq, Repr

/-- One FTL journal record (R65). -/
structure FtlRecord where
  seq : W32
  unit : W32
  slot : W32
  crc : W32
deriving DecidableEq, Repr

/-- The contents a flash tray presents at its mount (R68): its valid checkpoint slots, and the journal ring from the
oldest record. -/
structure TrayImage where
  checkpoints : List Checkpoint
  journal : List FtlRecord
deriving DecidableEq, Repr

/-- One command of the block. -/
inductive Instr where
  -- Resets, boot, supplies, pins, clocks, temperature
  | powerOnReset (b : BootFacts)
  | firmwareBringup (b : BringupFacts)
  | railWaitExpiry (shed : ShedIx)
  | deviceWarmReset (c : Caller) (b : BootFacts)
  | shedReset (c : Caller) (shed : ShedIx)
  | pciePortReset (portB : Bool)
  | functionLevelReset (fn : FnIx)
  | pcieLinkUp (portB : Bool) (degraded : Bool)
  | pcieLinkDown (portB : Bool)
  | supplySag (aonLow nvLow : Bool)
  | supplyResume
  | inputLevelAccept (input : Fin 38) (level : Bool)
  | chatterWindowEnd (input : Fin 38)
  | chatterQuietExpiry (input : Fin 38)
  | elsStuck (lantern : StackIx)
  | elsStuckExit (lantern : StackIx)
  | refclkLoss (input : Fin 8)
  | refclkAonLoss
  | pwrTjUpdate (degC : BitVec 8)
  | pwrAvgUpdate (milliwatts : Nat)
  -- Islands and units
  | islandFence (island : IslandIx)
  | islandRunning (island : IslandIx) (stacksOk : BitVec 2)
  | homeSlotRebuildDone (slot : Fin 4) (now : Nat)
  | unitFence (shed : ShedIx) (kind : UnitKind) (unit : UnitIx) (cause : BitVec 8)
  -- CMX packets and what follows from them
  | read (p : Rx)
  | write (p : Rx)
  | writeRelease (p : Rx)
  | writeReleaseApply (node : Node) (seq : W32)
  | atomic (p : Rx)
  | storeSettled (node : Node) (seq : W32)
  | invalidate (p : Rx)
  | invalidateApply (node : Node) (seq : W32)
  | invalAck (p : Rx)
  | invalidationSlowThreshold (id : Nat)
  | reduceContrib (p : Rx)
  | reduceResult (p : Rx)
  | gatherReq (p : Rx)
  | filterReq (p : Rx)
  | requestToUnit (shed : ShedIx) (kind : UnitKind)
  | gatherFetchDone (id : Nat)
  | filterFetchDone (id : Nat) (corrupt : List (ShedIx × Nat))
  | leaseRenew (p : Rx)
  | lendOffer (p : Rx)
  | recall (p : Rx)
  | recallDeadlineExpiry (id : Nat)
  | partnerHello (p : Rx)
  | ownerOffer (p : Rx)
  | ownerOfferApply (node : Node) (seq : W32)
  | ownerAccept (p : Rx)
  | ownerQuery (p : Rx)
  | transferTimerExpiry (pen : BitVec 12) (extent : BitVec 35)
  | acknowledgement (p : Rx)
  | ackDelayExpiry (node : Node)
  | retransmitTimerExpiry (node : Node) (seq : W32)
  | nack (p : Rx)
  | readResp (p : Rx)
  | writeAck (p : Rx)
  | routeMapLoad (r : Req)
  | routeMapCommit (r : Req)
  | previousMapQuietExpiry
  | previousMapWindowExpiry
  -- Extents, migration, near tier, windows, flash
  | extentAlloc (r : Req)
  | extentFree (r : Req)
  | extentScrubDone (pen : BitVec 12) (extent : BitVec 35)
  | extentMigrate (r : Req)
  | migrationBlockStart (pen : BitVec 12) (extent : BitVec 35)
  | migrationBlockAck (pen : BitVec 12) (extent : BitVec 35)
  | migrationBlockTimeout (pen : BitVec 12) (extent : BitVec 35)
  | migrationSourceError (pen : BitVec 12) (extent : BitVec 35)
  | patrolRead (stack : StackIx) (location : Nat) (ecc : EccResult) (lastOfPass : Bool)
  | locationRetireCopyDone (stack : StackIx) (location : Nat)
  | forceFail (c : Caller) (stack : StackIx)
  | controlAreaResyncBlock (half : Bool) (block : Nat)
  | controlBlockPlace (half : Bool) (block : Nat)
  | windowCreate (r : Req)
  | windowAdvance (r : Req)
  | stageBlockDone (window : W32) (layer : Nat) (block : Nat)
  | stagedLayerDiscard (window : W32) (layer : Nat)
  | flashPagePadTimeout (tray : Node)
  | flashWriteDurable (tray : Node)
  | ftlCheckpoint (tray : Node)
  | ftlGarbageCollect (tray : Node)
  | ftlWearLevel (tray : Node)
  | ftlReadRelocate (tray : Node) (eraseBlock : ReadBlock)
  | ftlAgeRefresh (tray : Node) (hour : W32)
  | flashTrayMountDone (tray : Node) (image : TrayImage)
  | ftlRefreshScanDone
  -- Regions and leases
  | regionCreate (r : Req)
  | regionPublish (r : Req)
  | draftSeal (pen : BitVec 12) (extent : BitVec 35)
  | regionOpen (r : Req)
  | regionClose (r : Req)
  | regionRetire (r : Req)
  | versionFree (pen : BitVec 12) (region : W32) (version : W32)
  | leaseSet (r : Req)
  | leaseSetRenew (r : Req)
  | leaseRevoke (r : Req)
  | leaseTimerExpiry (holder : Holder) (pen : BitVec 12)
  | leaseGraceExpiry (holder : Holder) (pen : BitVec 12)
  | reclaimExtentScrub (pen : BitVec 12) (extent : BitVec 35)
  -- Tables and expanders
  | tableBuild (r : Req)
  | tableRetire (r : Req)
  | tableRetireDone (pen : BitVec 12) (table : BitVec 3)
  | expanderEnqueue (e : ExpRef) (pen : BitVec 12) (slot : Nat) (desc : W32) (bytes : List Byte)
  | expanderTableLoadDone (e : ExpRef) (slot : Fin 8)
  | expanderBlockDeliver (e : ExpRef)
  -- Groups
  | groupCreate (r : Req)
  | groupEvict (r : Req)
  | groupAdmit (r : Req)
  | groupDestroy (r : Req)
  | groupDestroyDone (group : W32)
  | getHealthGroup (r : Req)
  | scoreWindowEnd (group : W32)
  | reduceUnitFail (shed : ShedIx) (unit : UnitIx)
  | gatherUnitFail (shed : ShedIx) (kind : UnitKind) (unit : UnitIx)
  -- Match Table and sessions
  | matchTableLoad (r : Req)
  | matchHoleRestore (shed : ShedIx) (part : Fin 16) (group : Nat)
  | matchParityScan (shed : ShedIx) (ok : Bool)
  | matchRowRewrite (shed : ShedIx) (row : Nat) (failed : Nat)
  | matchBankLossRewrite (shed : ShedIx)
  | sessionInsert (r : Req)
  | sessionDelete (r : Req)
  | sessionDeleteDone (session : W32)
  -- Yard programs, tasks, self-test, streams
  | yardProgramLoad (r : Req)
  | yardProgramRemove (r : Req)
  | yardTaskSubmit (r : Req)
  | taskDispatch (y : YardRef)
  | taskTimeLimit (y : YardRef)
  | yardFault (y : YardRef) (cause : BitVec 8)
  | yardPipelineStall (y : YardRef)
  | yardSelftestStart (y : YardRef)
  | yardSelftestDone (y : YardRef) (result : BitVec 8) (marginOk : Bool) (now : Nat)
  | streamBlockLanded (y : YardRef) (port : Fin 16)
  -- Yard scalar group
  | sadd (y : YardRef) (f : YF)
  | ssub (y : YardRef) (f : YF)
  | smul (y : YardRef) (f : YF)
  | smulh (y : YardRef) (f : YF)
  | sand (y : YardRef) (f : YF)
  | sor (y : YardRef) (f : YF)
  | sxor (y : YardRef) (f : YF)
  | sshl (y : YardRef) (f : YF)
  | sshr (y : YardRef) (f : YF)
  | ssra (y : YardRef) (f : YF)
  | smin (y : YardRef) (f : YF)
  | smax (y : YardRef) (f : YF)
  | sminu (y : YardRef) (f : YF)
  | smaxu (y : YardRef) (f : YF)
  | scmp (y : YardRef) (f : YF)
  | smov (y : YardRef) (f : YF)
  | sld (y : YardRef) (f : YF)
  | sst (y : YardRef) (f : YF)
  | sbrz (y : YardRef) (f : YF)
  | sbrnz (y : YardRef) (f : YF)
  | sloop (y : YardRef) (f : YF)
  | scall (y : YardRef) (f : YF)
  | sjmp (y : YardRef) (f : YF)
  -- Yard vector group
  | vadd (y : YardRef) (f : YF)
  | vsub (y : YardRef) (f : YF)
  | vmul (y : YardRef) (f : YF)
  | vmin (y : YardRef) (f : YF)
  | vmax (y : YardRef) (f : YF)
  | vand (y : YardRef) (f : YF)
  | vor (y : YardRef) (f : YF)
  | vxor (y : YardRef) (f : YF)
  | vshr (y : YardRef) (f : YF)
  | vld (y : YardRef) (f : YF)
  | vst (y : YardRef) (f : YF)
  | vlds (y : YardRef) (f : YF)
  | vsts (y : YardRef) (f : YF)
  | vbcast (y : YardRef) (f : YF)
  | valign (y : YardRef) (f : YF)
  | vidx (y : YardRef) (f : YF)
  | vcmp (y : YardRef) (f : YF)
  | vsel (y : YardRef) (f : YF)
  | vplog (y : YardRef) (f : YF)
  | vwiden (y : YardRef) (f : YF)
  | vreq (y : YardRef) (f : YF)
  | vtopk (y : YardRef) (f : YF)
  | vreds (y : YardRef) (f : YF)
  -- Yard matrix group
  | mld (y : YardRef) (f : YF)
  | msld (y : YardRef) (f : YF)
  | mzero (y : YardRef) (f : YF)
  | mma (y : YardRef) (f : YF)
  | mmaK16 (y : YardRef) (f : YF)
  | mst (y : YardRef) (f : YF)
  | mrd (y : YardRef) (f : YF)
  -- Yard stream group
  | strmOpen (y : YardRef) (f : YF)
  | strmRead (y : YardRef) (f : YF)
  | strmWrite (y : YardRef) (f : YF)
  | strmClose (y : YardRef) (f : YF)
  | strmStat (y : YardRef) (f : YF)
  -- Yard system group
  | sync (y : YardRef) (f : YF)
  | stepGet (y : YardRef) (f : YF)
  | stepSet (y : YardRef) (f : YF)
  | stepAdd (y : YardRef) (f : YF)
  | seedGet (y : YardRef) (f : YF)
  | seedSet (y : YardRef) (f : YF)
  | taskend (y : YardRef) (f : YF)
  | sgetp (y : YardRef) (f : YF)
  | vsetl (y : YardRef) (f : YF)
  | sflag (y : YardRef) (f : YF)
  -- Switching
  | frameReceive (fr : Frame) (now : Nat)
  | grantOpportunity (port : PortIx) (now : Nat)
  | macLearn (shed : ShedIx)
  | macAgeingExpiry (mac : BitVec 48) (vid : BitVec 12)
  | pfcFrameReceive (port : PortIx) (cls : Fin 8) (quanta : BitVec 16)
  | pfcPauseExpiry (port : PortIx) (cls : Fin 8)
  | pfcXoffRefresh (port : PortIx) (cls : Fin 8)
  | pfcWatchdogTrip (port : PortIx) (cls : Fin 8)
  | pfcWatchdogRecoveryEnd (port : PortIx) (cls : Fin 8)
  | gateIntervalBoundary (port : PortIx) (now : Nat)
  | gateListLoad (r : Req)
  | voqSample (shed : ShedIx) (now : Nat)
  | shaperConfig (r : Req)
  | meterConfig (r : Req)
  | portRegisterWrite (r : Req)
  | vlanMemberSet (r : Req)
  | staticMacLoad (r : Req)
  -- Coherence
  | rdS (cache : CacheIx) (line : BitVec 32)
  | rdU (cache : CacheIx) (line : BitVec 32)
  | upg (cache : CacheIx) (line : BitVec 32)
  | wb (cache : CacheIx) (line : BitVec 32)
  | evc (cache : CacheIx) (line : BitVec 32)
  | rdOnce (ch : DmaIx) (line : BitVec 32)
  | wrFull (ch : DmaIx) (line : BitVec 32) (data : List Byte)
  | wrPart (ch : DmaIx) (addr : BitVec 39) (data : List Byte)
  | snoopResponse (cache : CacheIx) (line : BitVec 32)
  | homeTimeout (line : BitVec 32)
  | homeFilterRebuild (slot : Fin 4)
  -- DMA
  | dmaProgramLoad (r : Req)
  | dmaProgramRemove (r : Req)
  | dmaStart (r : Req)
  | dmaResume (r : Req)
  | dmaAbort (r : Req)
  | dmaBeat (shed : ShedIx)
  | dmaMove (ch : DmaIx) (f : DF)
  | dmaFill (ch : DmaIx) (f : DF)
  | dmaCompare (ch : DmaIx) (f : DF)
  | dmaLoop (ch : DmaIx) (f : DF)
  | dmaWait (ch : DmaIx) (f : DF)
  | dmaWaitTimeout (ch : DmaIx)
  | dmaSignal (ch : DmaIx) (f : DF)
  | dmaEnd (ch : DmaIx) (f : DF)
  | dmaBusError (shed : ShedIx) (cause : BitVec 4) (space : BitVec 2) (addr : W64)
  | dmaEngineRecover (shed : ShedIx)
  -- Mailboxes and the Keeper
  | mailboxDoorbell (c : Caller) (chan : ChanIx) (bits : W32) (now : Nat)
  | throttlePoll (chan : ChanIx)
  | throttleExit (chan : ChanIx)
  | doorbellOutMaskWrite (c : Caller) (chan : ChanIx) (mask : W32)
  | noticePost (chan : ChanIx) (kind : BitVec 16) (body : List Byte)
  | kprBeatTick
  | keeperWatchdogExpiry (now : Nat) (digestOk : Bool)
  | keeperRestartDone
  | echo (r : Req)
  | getInfo (r : Req)
  | getHealthDevice (r : Req)
  | getHealthPartner (r : Req)
  -- Pens, keys, attestation
  | penCreate (r : Req)
  | penDestroy (r : Req)
  | teardownDrainDone (pen : BitVec 12)
  | teardownStep4Timeout (pen : BitVec 12)
  | tagSweepDone (pen : BitVec 12)
  | penRelease (pen : BitVec 12)
  | penSetQuota (r : Req)
  | penKeyInstall (r : Req)
  | penKeyRemove (r : Req)
  | attestQuote (r : Req)
  | identityGet (r : Req)
  | svnRaise
  | sakDistribute (port : PortIx)
  -- Daymark and Input Journal
  | daymarkDefine (r : Req)
  | daymarkClear (r : Req)
  | daymarkRearm (r : Req)
  | daymarkStop (r : Req)
  | daymarkStart (r : Req)
  | daymarkBare (r : Req)
  | daymarkRead (r : Req)
  | daymarkRecordWrite
  | inputReplayRecord (r : Req)
  | inputReplayStop (r : Req)
  | inputReplayRead (r : Req)
  | inputReplayReplay (r : Req)
  | inputReplayFeed (r : Req)
  | inputReplayStatus (r : Req)
  -- Calibration, firmware, configuration, spares, wear
  | calibRun (r : Req)
  | calibRunAbort (r : Req)
  | calibLanternDone (lantern : StackIx) (m : CalibFacts)
  | calibGet (r : Req)
  | calibSet (r : Req)
  | calibSetClear (r : Req)
  | fwStage (r : Req)
  | fwActivate (r : Req)
  | configGet (r : Req)
  | configSet (r : Req)
  | spareStatus (r : Req)
  | spareEngage (r : Req)
  | spareEngageNow (r : Req)
  | spareEngageComplete (shed : ShedIx) (kind : UnitKind) (unit : UnitIx)
  | wearMonitorEval (lantern : StackIx) (m : WearFacts)
  | loftRowError (shed : ShedIx) (row : Nat) (uncorrectable : Bool) (now : Nat)
  | partnerHealthWindow (node : Node)
  -- Lanterns, links, discovery
  | sliceMove (lantern : StackIx) (lane : Fin 32)
  | sliceRetuneDone (lantern : StackIx) (slice : Fin 36)
  | laserInputChangeover (lantern : StackIx)
  | laserInputForce (c : Caller) (lantern : StackIx)
  | llrReplay (port : PortIx) (codewords : Nat) (lost : Nat)
  | lldpTransmit (port : PortIx)
  | lldpReceive (port : PortIx) (chassis : List Byte) (portId : List Byte) (molup : Option (List Byte)) (ttl : BitVec 16)
  | lldpTtlExpiry (port : PortIx)
  | fabricLinkUp (port : PortIx) (peerLlr : Bool)
  | fabricLinkDown (port : PortIx) (now : Nat)
  | flapSuppressEnd (port : PortIx) (now : Nat)
  | detachHoldExpiry (node : Node)
  -- Host accesses
  | apertureRead (fn : FnIx) (offset : BitVec 34) (length : Nat)
  | apertureWrite (fn : FnIx) (offset : BitVec 34) (data : List Byte)
  | aprHiWrite (c : Caller) (w : Fin 8192) (value : W32)
  | registerWrite (c : Caller) (offset : BitVec 26) (size : Nat) (value : W64)
  | registerRcRead (c : Caller) (offset : BitVec 26) (size : Nat)
  | mkpduReceive (port : PortIx) (ckn : List Byte) (mi : BitVec 96) (prio : BitVec 8) (sak : Option (List Byte))
  | avsbusRetry (shed : ShedIx) (ok : Bool)
  | loRegisterRead (c : Caller) (offset : BitVec 26) (size : Nat)
deriving DecidableEq, Repr

end Sys2Proof
end

