-- ==== Sys2Proof/Decode.lean ====
section
/-! DEFINITION. How words spell commands. The opcode table gives no row any bits: a command is an event or a message with
operands, so no word of the table spells one. Two of the block's engines run programs whose instructions the spec does
encode: the Yards' 16 B instructions (R236) and the DMA channels' 32 B instructions (R311). Their rows are encoded and
decoded here. -/

namespace Sys2Proof

/-- The command that a word spells by the table's bits: none, for every word. -/
def decodeTableWord (_nbits _w : Nat) : Option Instr := none

/-! ## Yard instructions (R236 to R255) -/

/-- The 16 B word of an instruction: GRP, OP and the fields (R236). -/
def yardWord (grp : BitVec 4) (op : BitVec 8) (f : YF) : BitVec 128 :=
  f.imm ++ f.aux ++ f.rsv ++ BitVec.ofBool f.immb ++ f.rnd ++ f.fmt ++ f.rc ++ f.rb ++ f.ra ++ f.rd ++ f.pred ++ op ++ grp

/-- GRP and OP of a word. -/
def yardGrp (w : BitVec 128) : BitVec 4 := w.extractLsb' 0 4
/-- OP of a word. -/
def yardOp (w : BitVec 128) : BitVec 8 := w.extractLsb' 4 8

/-- The other fields of a word (R236). -/
def yardFields (w : BitVec 128) : YF where
  pred := w.extractLsb' 12 4
  rd := w.extractLsb' 16 5
  ra := w.extractLsb' 21 5
  rb := w.extractLsb' 26 5
  rc := w.extractLsb' 31 5
  fmt := w.extractLsb' 36 4
  rnd := w.extractLsb' 40 2
  immb := w.getLsbD 42
  rsv := w.extractLsb' 43 5
  aux := w.extractLsb' 48 16
  imm := w.extractLsb' 64 64

/-- The form that AUX gives: bits [1:0] of STEP, bit [0] of SEED (R254). -/
def stepForm (f : YF) : BitVec 2 := f.aux.extractLsb' 0 2
/-- The form of SEED. -/
def seedForm (f : YF) : Bool := f.aux.getLsbD 0

/-- A Yard instruction as its Yard, GRP, OP and fields; none for another command, and for a form of STEP or SEED whose AUX
names another form. -/
def yardRow : Instr → Option (YardRef × BitVec 4 × BitVec 8 × YF)
  | .sadd y f => some (y, 0, 0x01, f)
  | .ssub y f => some (y, 0, 0x02, f)
  | .smul y f => some (y, 0, 0x03, f)
  | .smulh y f => some (y, 0, 0x04, f)
  | .sand y f => some (y, 0, 0x08, f)
  | .sor y f => some (y, 0, 0x09, f)
  | .sxor y f => some (y, 0, 0x0A, f)
  | .sshl y f => some (y, 0, 0x0C, f)
  | .sshr y f => some (y, 0, 0x0D, f)
  | .ssra y f => some (y, 0, 0x0E, f)
  | .smin y f => some (y, 0, 0x10, f)
  | .smax y f => some (y, 0, 0x11, f)
  | .sminu y f => some (y, 0, 0x12, f)
  | .smaxu y f => some (y, 0, 0x13, f)
  | .scmp y f => some (y, 0, 0x14, f)
  | .smov y f => some (y, 0, 0x18, f)
  | .sld y f => some (y, 0, 0x20, f)
  | .sst y f => some (y, 0, 0x21, f)
  | .sbrz y f => some (y, 0, 0x28, f)
  | .sbrnz y f => some (y, 0, 0x29, f)
  | .sloop y f => some (y, 0, 0x2A, f)
  | .scall y f => some (y, 0, 0x2E, f)
  | .sjmp y f => some (y, 0, 0x2F, f)
  | .vadd y f => some (y, 1, 0x01, f)
  | .vsub y f => some (y, 1, 0x02, f)
  | .vmul y f => some (y, 1, 0x03, f)
  | .vmin y f => some (y, 1, 0x04, f)
  | .vmax y f => some (y, 1, 0x05, f)
  | .vand y f => some (y, 1, 0x06, f)
  | .vor y f => some (y, 1, 0x07, f)
  | .vxor y f => some (y, 1, 0x08, f)
  | .vshr y f => some (y, 1, 0x09, f)
  | .vld y f => some (y, 1, 0x10, f)
  | .vst y f => some (y, 1, 0x11, f)
  | .vlds y f => some (y, 1, 0x12, f)
  | .vsts y f => some (y, 1, 0x13, f)
  | .vbcast y f => some (y, 1, 0x18, f)
  | .valign y f => some (y, 1, 0x19, f)
  | .vidx y f => some (y, 1, 0x1A, f)
  | .vcmp y f => some (y, 1, 0x20, f)
  | .vsel y f => some (y, 1, 0x21, f)
  | .vplog y f => some (y, 1, 0x22, f)
  | .vwiden y f => some (y, 1, 0x28, f)
  | .vreq y f => some (y, 1, 0x29, f)
  | .vtopk y f => some (y, 1, 0x30, f)
  | .vreds y f => some (y, 1, 0x38, f)
  | .mld y f => some (y, 2, 0x01, f)
  | .msld y f => some (y, 2, 0x02, f)
  | .mzero y f => some (y, 2, 0x04, f)
  | .mma y f => some (y, 2, 0x08, f)
  | .mmaK16 y f => some (y, 2, 0x09, f)
  | .mst y f => some (y, 2, 0x10, f)
  | .mrd y f => some (y, 2, 0x18, f)
  | .strmOpen y f => some (y, 3, 0x01, f)
  | .strmRead y f => some (y, 3, 0x02, f)
  | .strmWrite y f => some (y, 3, 0x03, f)
  | .strmClose y f => some (y, 3, 0x04, f)
  | .strmStat y f => some (y, 3, 0x05, f)
  | .sync y f => some (y, 4, 0x01, f)
  | .stepGet y f => if stepForm f = 0 then some (y, 4, 0x02, f) else none
  | .stepSet y f => if stepForm f = 1 then some (y, 4, 0x02, f) else none
  | .stepAdd y f => if stepForm f = 2 then some (y, 4, 0x02, f) else none
  | .seedGet y f => if seedForm f = false then some (y, 4, 0x03, f) else none
  | .seedSet y f => if seedForm f then some (y, 4, 0x03, f) else none
  | .taskend y f => some (y, 4, 0x04, f)
  | .sgetp y f => some (y, 4, 0x05, f)
  | .vsetl y f => some (y, 4, 0x06, f)
  | .sflag y f => some (y, 4, 0x07, f)
  | _ => none

/-- The word of a Yard instruction. -/
def yardEncode (i : Instr) : Option (BitVec 128) := (yardRow i).map fun r => yardWord r.2.1 r.2.2.1 r.2.2.2

/-- The scalar group: the command of an OP; none where the group does not list it (R237). -/
def scalarOp (op : BitVec 8) (y : YardRef) (f : YF) : Option Instr :=
  match op.toNat with
  | 0x01 => some (.sadd y f)
  | 0x02 => some (.ssub y f)
  | 0x03 => some (.smul y f)
  | 0x04 => some (.smulh y f)
  | 0x08 => some (.sand y f)
  | 0x09 => some (.sor y f)
  | 0x0A => some (.sxor y f)
  | 0x0C => some (.sshl y f)
  | 0x0D => some (.sshr y f)
  | 0x0E => some (.ssra y f)
  | 0x10 => some (.smin y f)
  | 0x11 => some (.smax y f)
  | 0x12 => some (.sminu y f)
  | 0x13 => some (.smaxu y f)
  | 0x14 => some (.scmp y f)
  | 0x18 => some (.smov y f)
  | 0x20 => some (.sld y f)
  | 0x21 => some (.sst y f)
  | 0x28 => some (.sbrz y f)
  | 0x29 => some (.sbrnz y f)
  | 0x2A => some (.sloop y f)
  | 0x2E => some (.scall y f)
  | 0x2F => some (.sjmp y f)
  | _ => none

/-- The vector group: the command of an OP; none where the group does not list it (R237). -/
def vectorOp (op : BitVec 8) (y : YardRef) (f : YF) : Option Instr :=
  match op.toNat with
  | 0x01 => some (.vadd y f)
  | 0x02 => some (.vsub y f)
  | 0x03 => some (.vmul y f)
  | 0x04 => some (.vmin y f)
  | 0x05 => some (.vmax y f)
  | 0x06 => some (.vand y f)
  | 0x07 => some (.vor y f)
  | 0x08 => some (.vxor y f)
  | 0x09 => some (.vshr y f)
  | 0x10 => some (.vld y f)
  | 0x11 => some (.vst y f)
  | 0x12 => some (.vlds y f)
  | 0x13 => some (.vsts y f)
  | 0x18 => some (.vbcast y f)
  | 0x19 => some (.valign y f)
  | 0x1A => some (.vidx y f)
  | 0x20 => some (.vcmp y f)
  | 0x21 => some (.vsel y f)
  | 0x22 => some (.vplog y f)
  | 0x28 => some (.vwiden y f)
  | 0x29 => some (.vreq y f)
  | 0x30 => some (.vtopk y f)
  | 0x38 => some (.vreds y f)
  | _ => none

/-- The matrix group: the command of an OP; none where the group does not list it (R237). -/
def matrixOp (op : BitVec 8) (y : YardRef) (f : YF) : Option Instr :=
  match op.toNat with
  | 0x01 => some (.mld y f)
  | 0x02 => some (.msld y f)
  | 0x04 => some (.mzero y f)
  | 0x08 => some (.mma y f)
  | 0x09 => some (.mmaK16 y f)
  | 0x10 => some (.mst y f)
  | 0x18 => some (.mrd y f)
  | _ => none

/-- The stream group: the command of an OP; none where the group does not list it (R237). -/
def streamOp (op : BitVec 8) (y : YardRef) (f : YF) : Option Instr :=
  match op.toNat with
  | 0x01 => some (.strmOpen y f)
  | 0x02 => some (.strmRead y f)
  | 0x03 => some (.strmWrite y f)
  | 0x04 => some (.strmClose y f)
  | 0x05 => some (.strmStat y f)
  | _ => none

/-- The system group: the command of an OP; none where the group does not list it (R237). -/
def systemOp (op : BitVec 8) (y : YardRef) (f : YF) : Option Instr :=
  match op.toNat with
  | 0x01 => some (.sync y f)
  | 0x02 =>
    if stepForm f = 0 then some (.stepGet y f) else if stepForm f = 1 then some (.stepSet y f)
    else if stepForm f = 2 then some (.stepAdd y f) else none
  | 0x03 => if seedForm f then some (.seedSet y f) else some (.seedGet y f)
  | 0x04 => some (.taskend y f)
  | 0x05 => some (.sgetp y f)
  | 0x06 => some (.vsetl y f)
  | 0x07 => some (.sflag y f)
  | _ => none

/-- The command that a word of a Yard's program is: none for a reserved GRP, for an OP that its group does not list and for
the reserved form of STEP (R236, R237). -/
def yardDecode (y : YardRef) (w : BitVec 128) : Option Instr :=
  match (yardGrp w).toNat with
  | 0 => scalarOp (yardOp w) y (yardFields w)
  | 1 => vectorOp (yardOp w) y (yardFields w)
  | 2 => matrixOp (yardOp w) y (yardFields w)
  | 3 => streamOp (yardOp w) y (yardFields w)
  | 4 => systemOp (yardOp w) y (yardFields w)
  | _ => none

/-! ## DMA instructions (R311) -/

/-- Byte 2 of a DMA instruction from its least significant bit: STOP, PATTERN, NOTIFY, CLEAR, and the reserved bits. -/
def dmaFlags (f : DF) : BitVec 8 :=
  f.rsv2 ++ BitVec.ofBool f.clear ++ BitVec.ofBool f.notify ++ BitVec.ofBool f.pattern ++ BitVec.ofBool f.stop

/-- The 32 B word of a DMA instruction. -/
def dmaWord (op : BitVec 8) (f : DF) : BitVec 256 :=
  f.dstride ++ f.sstride ++ f.dst ++ f.src ++ f.length ++ f.keyId ++ dmaFlags f ++ f.rsv1 ++ f.dspace ++ f.sspace ++ op

/-- The fields of a DMA word. -/
def dmaFields (w : BitVec 256) : DF where
  sspace := w.extractLsb' 8 2
  dspace := w.extractLsb' 10 2
  rsv1 := w.extractLsb' 12 4
  stop := w.getLsbD 16
  pattern := w.getLsbD 17
  notify := w.getLsbD 18
  clear := w.getLsbD 19
  rsv2 := w.extractLsb' 20 4
  keyId := w.extractLsb' 24 8
  length := w.extractLsb' 32 32
  src := w.extractLsb' 64 64
  dst := w.extractLsb' 128 64
  sstride := w.extractLsb' 192 32
  dstride := w.extractLsb' 224 32

/-- A DMA instruction as its channel, OP and fields; none for another command. -/
def dmaRow : Instr → Option (DmaIx × BitVec 8 × DF)
  | .dmaMove c f => some (c, 0x01, f)
  | .dmaFill c f => some (c, 0x02, f)
  | .dmaCompare c f => some (c, 0x03, f)
  | .dmaLoop c f => some (c, 0x04, f)
  | .dmaWait c f => some (c, 0x05, f)
  | .dmaSignal c f => some (c, 0x06, f)
  | .dmaEnd c f => some (c, 0x07, f)
  | _ => none

/-- The word of a DMA instruction. -/
def dmaEncode (i : Instr) : Option (BitVec 256) := (dmaRow i).map fun r => dmaWord r.2.1 r.2.2

/-- The command that a word of a DMA program is; none for an OP that R311 does not list. -/
def dmaDecode (c : DmaIx) (w : BitVec 256) : Option Instr :=
  match (w.extractLsb' 0 8).toNat with
  | 0x01 => some (.dmaMove c (dmaFields w))
  | 0x02 => some (.dmaFill c (dmaFields w))
  | 0x03 => some (.dmaCompare c (dmaFields w))
  | 0x04 => some (.dmaLoop c (dmaFields w))
  | 0x05 => some (.dmaWait c (dmaFields w))
  | 0x06 => some (.dmaSignal c (dmaFields w))
  | 0x07 => some (.dmaEnd c (dmaFields w))
  | _ => none

end Sys2Proof
end

