-- ==== Sys2Proof/Machine/Map.lean ====
section
/-! DEFINITION. The two containers of the state: maps as lists of pairs, and byte memories in canonical form. -/

namespace Sys2Proof.Machine

variable {κ α : Type}

/-- The value listed for a key. -/
def aGet [DecidableEq κ] : Assoc κ α → κ → Option α
  | [], _ => none
  | (k', v) :: m, k => if k' = k then some v else aGet m k

/-- The value of a key, the default where it is not listed. -/
def aGetD [DecidableEq κ] (m : Assoc κ α) (k : κ) (d : α) : α := (aGet m k).getD d

/-- The map with a key's value replaced, or listed last where the key was not listed. -/
def aSet [DecidableEq κ] : Assoc κ α → κ → α → Assoc κ α
  | [], k, v => [(k, v)]
  | (k', v') :: m, k, v => if k' = k then (k, v) :: m else (k', v') :: aSet m k v

/-- The map without a key. -/
def aErase [DecidableEq κ] (m : Assoc κ α) (k : κ) : Assoc κ α := m.filter fun p => ¬ p.1 = k

/-- The map with a key's value, or its default, changed by a function. -/
def aMod [DecidableEq κ] (m : Assoc κ α) (k : κ) (d : α) (f : α → α) : Assoc κ α := aSet m k (f (aGetD m k d))

/-- The map with a listed key's value changed by a function; an unlisted key stays unlisted. -/
def aAdjust [DecidableEq κ] (m : Assoc κ α) (k : κ) (f : α → α) : Assoc κ α :=
  m.map fun p => if p.1 = k then (p.1, f p.2) else p

/-- The byte at an address; 0 where nothing is listed. -/
def readByte : Mem → Nat → Byte
  | [], _ => 0
  | (a', b) :: m, a => if a' = a then b else readByte m a

/-- The `n` bytes from an address on. -/
def readBytes (m : Mem) (a : Nat) : Nat → List Byte
  | 0 => []
  | n + 1 => readByte m a :: readBytes m (a + 1) n

/-- The cells of a run of bytes, the zero bytes left out. -/
def cellsFrom : Nat → List Byte → Mem
  | _, [] => []
  | a, b :: bs => if b = 0 then cellsFrom (a + 1) bs else (a, b) :: cellsFrom (a + 1) bs

/-- The memory with a run of bytes written from an address on. -/
def writeBytes (m : Mem) (a : Nat) (bs : List Byte) : Mem :=
  (m.filter fun c => c.1 < a) ++ cellsFrom a bs ++ (m.filter fun c => a + bs.length ≤ c.1)

/-- The memory with `n` bytes from an address on zero. -/
def zeroRange (m : Mem) (a n : Nat) : Mem := m.filter fun c => c.1 < a ∨ a + n ≤ c.1

/-- Every cell's address lies above `lo`, the addresses rise strictly, and no cell holds zero. -/
def memAbove : Nat → Mem → Bool
  | _, [] => true
  | lo, (a, b) :: m => decide (lo ≤ a) && decide (b ≠ 0) && memAbove (a + 1) m

/-- The canonical form of a memory: strictly rising addresses and no zero byte. -/
def memWf (m : Mem) : Bool := memAbove 0 m

end Sys2Proof.Machine
end

