-- ==== Sys2Proof/Machine/Operands.lean ====
section
/-! DEFINITION. How bytes spell numbers: byte order (R5), fields of a payload, saturating and serial counters, and the
CRC-32C that the journal, the FTL and the Input Journal use. -/

namespace Sys2Proof.Machine

/-- The number that bytes spell, least significant byte first. -/
def leNat : List Byte → Nat
  | [] => 0
  | b :: bs => b.toNat + 256 * leNat bs

/-- The number that bytes spell, most significant byte first. -/
def beNat (bs : List Byte) : Nat := leNat bs.reverse

/-- The `n` low bytes of a number, least significant first. -/
def toLe : Nat → Nat → List Byte
  | 0, _ => []
  | n + 1, v => BitVec.ofNat 8 v :: toLe n (v / 256)

/-- The `n` low bytes of a number, most significant first. -/
def toBe (n v : Nat) : List Byte := (toLe n v).reverse

/-- The little-endian number of `n` bytes at an offset; bytes beyond the end count as 0. -/
def leAt (bs : List Byte) (off n : Nat) : Nat := leNat ((bs.drop off).take n)

/-- The big-endian number of `n` bytes at an offset. -/
def beAt (bs : List Byte) (off n : Nat) : Nat :=
  let w := (bs.drop off).take n
  beNat (w ++ List.replicate (n - w.length) 0)

/-- A little-endian field as a bit vector. -/
def fieldLe (w : Nat) (bs : List Byte) (off n : Nat) : BitVec w := BitVec.ofNat w (leAt bs off n)

/-- Bytes padded with zeros, or cut, to a length. -/
def padTo (n : Nat) (bs : List Byte) : List Byte := bs.take n ++ List.replicate (n - bs.length) 0

/-- The bytes of a bit vector, first byte most significant. -/
def bytesOf {w : Nat} (v : BitVec w) : List Byte := toBe (w / 8) v.toNat

/-- Whether every byte of a list is zero. -/
def allZero (bs : List Byte) : Bool := bs.all (· == 0)

/-- A counter of 32 bits that saturates at 0xFFFF_FFFF, raised by a number. -/
def satAdd (c : W32) (n : Nat) : W32 := if c.toNat + n < 2 ^ 32 then BitVec.ofNat 32 (c.toNat + n) else 0xFFFFFFFF

/-- A saturating counter raised by one. -/
def satInc (c : W32) : W32 := satAdd c 1

/-- Serial arithmetic modulo 2^32 (R84): `a` lies at or before `b`. -/
def seqLe (a b : W32) : Bool := (b - a).toNat < 2 ^ 31

/-- Serial arithmetic modulo 2^32: `a` lies before `b`. -/
def seqLt (a b : W32) : Bool := a ≠ b && seqLe a b

/-- One bit of the reflected CRC-32C shift register. -/
def crcBit (c : W32) : W32 := if c.getLsbD 0 then (c >>> 1) ^^^ 0x82F63B78 else c >>> 1

/-- One byte of the CRC-32C. -/
def crcByte (c : W32) (b : Byte) : W32 :=
  let c := c ^^^ b.setWidth 32
  crcBit (crcBit (crcBit (crcBit (crcBit (crcBit (crcBit (crcBit c)))))))

/-- CRC-32C (Castagnoli) of bytes. -/
def crc32c (bs : List Byte) : W32 := ~~~ (bs.foldl crcByte 0xFFFFFFFF)

/-- A number from a bit: 1 or 0. -/
def bitNat (b : Bool) : Nat := if b then 1 else 0

/-- A register word from fields: each field's value shifted to its place. -/
def pack (fields : List (Nat × Nat)) : W32 := BitVec.ofNat 32 (fields.foldl (fun acc p => acc + p.2 * 2 ^ p.1) 0)

/-- Bits `hi` down to `lo` of a number. -/
def bitsOf (v hi lo : Nat) : Nat := v / 2 ^ lo % 2 ^ (hi + 1 - lo)

end Sys2Proof.Machine
end

