-- ==== Sys2Proof/Machine/Coding.lean ====
section
/-! DEFINITION. Block compression (R154 to R157, R161): side descriptors, the header and the 24 substreams of a coded block,
the code lengths that TABLE_BUILD computes, and the decoder with the checks of R165. A table is its list of 256 code
lengths. -/

namespace Sys2Proof.Machine

/-! ## Side descriptors (R154) -/

def descClen (d : W32) : Nat := bitsOf d.toNat 12 0
def descTable (d : W32) : BitVec 3 := BitVec.ofNat 3 (bitsOf d.toNat 15 13)
def descRaw (d : W32) : Bool := d.getLsbD 16
def descScale (d : W32) : Bool := d.getLsbD 17
/-- The side descriptor of a coded block. -/
def codedDesc (clen : Nat) (table : BitVec 3) (scale : Bool) : W32 :=
  BitVec.ofNat 32 (clen + table.toNat * 2 ^ 13 + bitNat scale * 2 ^ 17)

/-! ## Code lengths (R161) -/

/-- A node of the tree: its weight, its place among equal weights (a leaf's symbol, or 256 and the order of creation), and
the symbols below it. -/
structure HNode where
  weight : Nat
  place : Nat
  syms : List Nat
deriving DecidableEq, Repr

/-- The order in which nodes are merged. -/
def hBefore (a b : HNode) : Bool := decide (a.weight < b.weight) || (a.weight == b.weight && decide (a.place < b.place))

/-- A node put into an ordered list. -/
def hInsert (x : HNode) : List HNode → List HNode
  | [] => [x]
  | y :: ys => if hBefore x y then x :: y :: ys else y :: hInsert x ys

/-- Lengths with one more bit for some symbols. -/
def deepen (lens : List Nat) (syms : List Nat) : List Nat :=
  (List.range lens.length).map fun i => lens.getD i 0 + (if syms.contains i then 1 else 0)

/-- Merges, at most `n`: the nodes in order, the lengths so far, the number of nodes created. -/
def hMerge : Nat → List HNode → List Nat → Nat → List Nat
  | 0, _, lens, _ => lens
  | n + 1, a :: b :: ns, lens, made =>
    let x : HNode := { weight := a.weight + b.weight, place := 256 + made, syms := a.syms ++ b.syms }
    hMerge n (hInsert x ns) (deepen lens x.syms) (made + 1)
  | _ + 1, _, lens, _ => lens

/-- A symbol's weight: its count plus 1, saturating. -/
def hWeight (c : Nat) : Nat := min (c + 1) (2 ^ 32 - 1)

/-- The lengths of the Huffman tree. -/
def hLens (counts : List Nat) : List Nat :=
  let leaves := (List.range 256).map fun i : Nat => ({ weight := hWeight (counts.getD i 0), place := i, syms := [i] } : HNode)
  hMerge 255 (leaves.foldl (fun l x => hInsert x l) []) (List.replicate 256 0) 0

/-- The symbol that the limit lengthens next: the greatest length below 15, then the lowest count, then the lowest
symbol. -/
def limitPick (counts lens : List Nat) : Nat :=
  (List.range 256).foldl (fun b i =>
    let l := lens.getD i 0
    let bl := lens.getD b 0
    if 15 ≤ l then b
    else if 15 ≤ bl ∨ bl < l ∨ (bl = l ∧ counts.getD i 0 < counts.getD b 0) then i else b) 0

/-- The limit's loop: the sum k, at most `n` turns. -/
def limitLoop (counts : List Nat) : Nat → Nat → List Nat → List Nat
  | 0, _, lens => lens
  | n + 1, k, lens =>
    if k ≤ 2 ^ 15 then lens
    else
      let s := limitPick counts lens
      limitLoop counts n (k - 2 ^ (14 - lens.getD s 0)) (deepen lens [s])

/-- The 256 code lengths for 256 counts. -/
def buildLens (counts : List Nat) : List Nat :=
  let lens := (hLens counts).map fun l => min l 15
  limitLoop counts 4096 ((lens.map fun l => 2 ^ (15 - l)).sum) lens

/-- The 128 B form of a table (R160). -/
def lensBytes (lens : List Nat) : List Byte :=
  (List.range 128).map fun i => BitVec.ofNat 8 (lens.getD (2 * i) 0 + 16 * lens.getD (2 * i + 1) 0)

/-! ## Canonical codes -/

/-- Symbols with their lengths in order of (length, symbol). -/
def codeOrder (lens : List Nat) : List (Nat × Nat) :=
  (List.range 16).flatMap fun l => ((List.range 256).filter fun i => lens.getD i 0 == l).map fun i => (i, l)

/-- The codes that follow a code and its length: (symbol, length, code). -/
def codesFrom (code len : Nat) : List (Nat × Nat) → List (Nat × Nat × Nat)
  | [] => []
  | (s, l) :: r =>
    let c := (code + 1) * 2 ^ (l - len)
    (s, l, c) :: codesFrom c l r

/-- Every symbol's length and code. -/
def codesOf (lens : List Nat) : List (Nat × Nat × Nat) :=
  match codeOrder lens with
  | [] => []
  | (s, l) :: r => (s, l, 0) :: codesFrom 0 l r

/-! ## Substreams (R156) -/

/-- n_k, and where run k starts. -/
def runLen (k : Nat) : Nat := if k < 16 then 171 else 170
def runStart (k : Nat) : Nat := if k < 16 then 171 * k else 2736 + 170 * (k - 16)

/-- A code's bits, the most significant first. -/
def codeBits (len code : Nat) : List Bool := ((List.range len).reverse).map fun i => code.testBit i

/-- Bits packed into bytes, bit b of the stream in bit b mod 8, zeros at the end. -/
def packBits (fuel : Nat) (bits : List Bool) : List Byte :=
  match fuel with
  | 0 => []
  | n + 1 =>
    if bits.isEmpty then []
    else BitVec.ofNat 8 ((List.range 8).map fun i => bitNat (bits.getD i false) * 2 ^ i).sum :: packBits n (bits.drop 8)

/-- The bits of bytes. -/
def bitsOfBytes (bs : List Byte) : List Bool := bs.flatMap fun b => (List.range 8).map fun i => b.getLsbD i

/-- One substream of a block. -/
def encodeRun (codes : List (Nat × Nat × Nat)) (block : List Byte) (k : Nat) : List Byte :=
  let syms := (block.drop (runStart k)).take (runLen k)
  let bits := syms.flatMap fun b =>
    match codes.find? fun c => c.1 == b.toNat with
    | some (_, l, c) => codeBits l c
    | none => []
  packBits 400 bits

/-- The END values of substreams that start at byte 64. -/
def endsFrom : Nat → List (List Byte) → List Nat
  | _, [] => []
  | a, r :: rs => (a + r.length) :: endsFrom (a + r.length) rs

/-- R155 and R157: the coded form of a 4 KiB block; none where it would be 3,584 B or longer. -/
def encodeBlock (lens : List Nat) (gen : BitVec 16) (table : BitVec 3) (block : List Byte) : Option (List Byte) :=
  let codes := codesOf lens
  let runs := (List.range 24).map (encodeRun codes block)
  let ends := endsFrom 64 runs
  let clen := ends.getLastD 64
  if 3584 ≤ clen then none
  else some ([0x01, BitVec.ofNat 8 table.toNat] ++ toLe 2 gen.toNat ++ toLe 2 clen ++ [0, 0]
    ++ (ends.map (toLe 2)).flatten ++ toLe 4 (crc32c block).toNat ++ [0, 0, 0, 0] ++ runs.flatten)

/-- One symbol from bits, reading at most `n` bits more: the symbol and the bits after it. -/
def decodeSym (codes : List (Nat × Nat × Nat)) : Nat → Nat → Nat → List Bool → Option (Nat × List Bool)
  | 0, _, _, _ => none
  | _ + 1, _, _, [] => none
  | n + 1, len, code, b :: bs =>
    let code := 2 * code + bitNat b
    match codes.find? fun c => c.2.1 == len + 1 && c.2.2 == code with
    | some c => some (c.1, bs)
    | none => decodeSym codes n (len + 1) code bs

/-- `n` symbols from bits, and the bits left. -/
def decodeSyms (codes : List (Nat × Nat × Nat)) : Nat → List Bool → Option (List Byte × List Bool)
  | 0, bits => some ([], bits)
  | n + 1, bits =>
    match decodeSym codes 15 0 0 bits with
    | none => none
    | some (s, rest) =>
      match decodeSyms codes n rest with
      | none => none
      | some (r, left) => some (BitVec.ofNat 8 s :: r, left)

/-- A substream's bytes: exactly n_k symbols, the last in the last byte. -/
def decodeRun (codes : List (Nat × Nat × Nat)) (bytes : List Byte) (k : Nat) : Option (List Byte) :=
  match decodeSyms codes (runLen k) (bitsOfBytes bytes) with
  | some (r, left) => if left.length < 8 then some r else none
  | none => none

/-- The substreams from number k on. -/
def decodeRuns (codes : List (Nat × Nat × Nat)) (block : List Byte) : Nat → Nat → Nat → List Nat → Option (List Byte)
  | 0, _, _, _ => some []
  | _ + 1, _, _, [] => some []
  | n + 1, k, a, e :: es =>
    match decodeRun codes ((block.drop a).take (e - a)) k, decodeRuns codes block n (k + 1) e es with
    | some r, some rs => some (r ++ rs)
    | _, _ => none

/-- The END values rise. -/
def rising : Nat → List Nat → Bool
  | _, [] => true
  | a, e :: es => decide (a < e) && rising e es

/-- R165: every check of a coded block, with the table to which it is bound; its 4,096 bytes, or none. -/
def decodeBlock (lens : List Nat) (gen : BitVec 16) (d : W32) (block : List Byte) : Option (List Byte) :=
  let ends := (List.range 24).map fun k => leAt block (8 + 2 * k) 2
  if leAt block 0 1 ≠ 1 ∨ bitsOf (leAt block 1 1) 2 0 ≠ (descTable d).toNat ∨ leAt block 4 2 ≠ descClen d
      ∨ leAt block 2 2 ≠ gen.toNat ∨ rising 64 ends = false ∨ ends.getLastD 0 ≠ descClen d then none
  else
    match decodeRuns (codesOf lens) block 24 0 64 ends with
    | none => none
    | some out => if (crc32c out).toNat = leAt block 56 4 then some out else none

end Sys2Proof.Machine
end

