-- ==== Sys2Proof/Config.lean ====
section
/-! DEFINITION. What the spec leaves open and what it takes from outside the device: free values, which no proof can
see, and the cryptographic functions, keys and fuse values that one device has. Nothing here has a body that a
statement could rest on, but for the two constants that R490 states. -/

namespace Sys2Proof.Config

/-- FREE VALUE. The n-th value that the spec leaves open, w bits wide; State.fresh is the n of the next one. -/
opaque free (w n : Nat) : BitVec w

/-- FREE VALUE. Which of a finite number of choices that the spec leaves open is taken: the n-th choice. -/
opaque pick (n : Nat) : Nat

/-- FREE VALUE. The bytes, then the scale words, that VALIGN takes from beyond its pair of registers, by its operands: IMM, VL in
bytes, the registers' bytes and scale words. -/
opaque alignBeyond (imm vl : Nat) (bytes : List Byte) (scales : List (BitVec 16)) : BitVec 2176

/-- FREE VALUE. What VREDS answers for a minimum or a maximum over no lanes, by its operation and format. -/
opaque noLanes (op fmt : Nat) : BitVec 64

/-- The digest of R368: the first 64 B of SHAKE256 over the bytes. -/
opaque digest (bytes : List Byte) : BitVec 512

/-- The first 32 B of SHAKE256 (R362, R364). -/
opaque shake32 (bytes : List Byte) : BitVec 256

/-- Falcon-1024 verification of a signature of a digest under a public key (R368). -/
opaque falconVerify (pubkey : List Byte) (digest : BitVec 512) (sig : List Byte) : Bool

/-- The device's Falcon-1024 signature, 1,280 B, with its identity key (R370). -/
opaque falconSign (digest : BitVec 512) : BitVec 10240

/-- ML-KEM-1024 decapsulation with the device's key pair (R362, R364). -/
opaque kemDecap (ct : List Byte) : BitVec 256

/-- AES key unwrap under a key-encryption key; none when its integrity check fails (R363, R364). -/
opaque keyUnwrap (kek : BitVec 256) (wrapped : List Byte) : Option (List Byte)

/-- AES-256-XTS of one block under a key, with its tweak (R358), and its inverse. -/
opaque xtsEnc (key : List Byte) (tweak : Nat) (block : List Byte) : List Byte
/-- The inverse of `xtsEnc` (R358). -/
opaque xtsDec (key : List Byte) (tweak : Nat) (block : List Byte) : List Byte

/-- The near block number at which a reserved area begins: 0 the control area, 1 the session records, 2 the Input Journal. R42
places no area. -/
opaque areaStart (area : Nat) : Nat

/-- The 14-bit hash of a Pen and an extent number, or of a Pen and a group id, in the UDP source port (R73). -/
opaque portHash (pen : BitVec 12) (extentOrGroup : Nat) : BitVec 14

/-- The device id in fuses (R370). -/
opaque deviceId : BitVec 128

/-- The vendor key digest in fuses (R369). -/
opaque vendorKeyDigest : BitVec 512

/-- The device's identity public key, its KEM encapsulation key, the issuer of its identity record and the
manufacturing signature over it (R370). -/
opaque identityKey : BitVec 14344
/-- The ML-KEM-1024 encapsulation key, 1,568 B (R362). -/
opaque kemKey : BitVec 12544
/-- The first 32 B of the digest of Molup's manufacturing key (R370). -/
opaque issuer : BitVec 256
/-- The manufacturing key's signature over the identity record (R370). -/
opaque identitySig : BitVec 10240

/-- Molup's design value for the reference power of a laser input without a calibration record, in 0.01 dBm (R416). -/
opaque designLaser : Int

/-- The bytes of each control-area copy that the device's own structures take, but for the device-space area (R492). -/
opaque ctlOwn : Nat

/-- A port's own MAC address, which no rule gives (R271). -/
opaque portMac (port : Nat) : BitVec 48

/-- The first address beyond what a PCIe function of the starting channel may name for a DMA operand: R313 speaks of the
function's address limits, and no rule gives them. -/
opaque hostLimit (channel : Nat) : Nat

/-- The control block that holds an extent's leaf entry: no rule gives the layout of the tables in the control area. -/
opaque leafBlock (pen : BitVec 12) (ext : BitVec 35) : Nat

/-- A DRAM tray's frames of 2 MiB, which no rule states. -/
opaque trayFrames (node : BitVec 16) : Nat

/-- A flash tray's 4 KiB slots, the slots of one of its erase blocks and the slots of one of its pages. -/
opaque flashSlots (node : BitVec 16) : Nat
/-- The slots of an erase block, one at least. -/
opaque eraseSlots (node : BitVec 16) : Nat
/-- The slots of a flash page. -/
opaque pageSlots (node : BitVec 16) : Nat

/-- FREE VALUE. Which of a tray's free erase blocks with the lowest erase count is opened, the n-th time. -/
opaque eraseChoice (node : BitVec 16) (n : Nat) : Nat

/-- The version that a firmware image sets (R490). -/
opaque fwVersion (image : List Byte) : W32

/-- The digest of the boot ROM, for the measurement log (R371). -/
opaque romDigest : BitVec 512

/-- Stepping B0's boot ROM version, 1.0 build 0 (R490). -/
def romVersion : W32 := 0x01000000

/-- Stepping B0's GLB_ID: METAL 0, BASE 1, DESIGN 468, FAMILY 1, VENDOR 0x4D (R467, R490). -/
def glbId : W32 := 0x4D11D410

end Sys2Proof.Config
end

