-- ==== Sys2Proof/Machine/Ebi.lean ====
section
/-! DEFINITION. Block integer arithmetic (R140 to R151): element formats, scale words, requantisation, the rounding modes,
the step mixer, and the two accumulators of a Reduce Unit. -/

namespace Sys2Proof.Machine

/-! ## Formats (R140, R141) -/

/-- The element formats. -/
inductive Fmt where
  | ebi8 | ebi4 | ebi16 | i32 | i64
deriving DecidableEq, Repr

/-- The format codes of R140; 5 to 7 are reserved. -/
def fmtOf (n : Nat) : Option Fmt :=
  match n with
  | 0 => some .ebi8 | 1 => some .ebi4 | 2 => some .ebi16 | 3 => some .i32 | 4 => some .i64 | _ => none

/-- A format whose blocks have a scale word. -/
def isEbi (f : Fmt) : Bool := match f with | .ebi8 => true | .ebi4 => true | .ebi16 => true | .i32 => false | .i64 => false

/-- The bits of an element. -/
def fmtBits (f : Fmt) : Nat := match f with | .ebi8 => 8 | .ebi4 => 4 | .ebi16 => 16 | .i32 => 32 | .i64 => 64

/-- Qmax (R141); for an integer format, the largest value. -/
def qmax (f : Fmt) : Nat :=
  match f with | .ebi8 => 127 | .ebi4 => 7 | .ebi16 => 32767 | .i32 => 2 ^ 31 - 1 | .i64 => 2 ^ 63 - 1

/-- The bytes of 32 elements. -/
def blockBytes (f : Fmt) : Nat := 4 * fmtBits f

/-- The least significant `w` bits of a number, as a two's-complement value. -/
def signedOf (w n : Nat) : Int := (BitVec.ofNat w n).toInt

/-- A value as it reads: the most negative value of an EBI element reads one greater (R141). -/
def readElem (f : Fmt) (v : Int) : Int := if isEbi f ∧ v < -(qmax f : Int) then v + 1 else v

/-- Element i of packed elements. -/
def elemAt (f : Fmt) (bytes : List Byte) (i : Nat) : Int :=
  match f with
  | .ebi4 => readElem f (signedOf 4 (leAt bytes (i / 2) 1 / 16 ^ (i % 2)))
  | _ => readElem f (signedOf (fmtBits f) (leAt bytes (i * (fmtBits f / 8)) (fmtBits f / 8)))

/-- The first `n` of packed elements. -/
def elemsOf (f : Fmt) (bytes : List Byte) (n : Nat) : List Int := (List.range n).map (elemAt f bytes)

/-- A value's `w` low bits as a number. -/
def rawOf (w : Nat) (v : Int) : Nat := (BitVec.ofInt w v).toNat

/-- EBI4 elements, two to a byte, the even one low. -/
def packNibbles : List Int → List Byte
  | a :: b :: r => BitVec.ofNat 8 (rawOf 4 a + 16 * rawOf 4 b) :: packNibbles r
  | [a] => [BitVec.ofNat 8 (rawOf 4 a)]
  | [] => []

/-- Elements packed in ascending order, little-endian. -/
def packElems (f : Fmt) (q : List Int) : List Byte :=
  match f with
  | .ebi4 => packNibbles q
  | _ => (q.map fun v => toLe (fmtBits f / 8) (rawOf (fmtBits f) v)).flatten

/-! ## Scale words (R142) -/

/-- E of a scale word, signed. -/
def scaleE (w : BitVec 16) : Int := (BitVec.ofNat 8 (w.toNat / 256)).toInt
/-- M of a scale word. -/
def scaleM (w : BitVec 16) : Nat := w.toNat % 256
/-- A scale word. -/
def mkScale (e : Int) (m : Nat) : BitVec 16 := BitVec.ofNat 16 (rawOf 8 e * 256 + m % 256)

/-! ## Rational numbers num / den, den > 0 (R145) -/

/-- Round to nearest, ties to even. -/
def rne (n : Int) (d : Nat) : Int :=
  let f := n.fdiv d
  let r := n - f * d
  if 2 * r < d then f else if 2 * r > d then f + 1 else if f % 2 = 0 then f else f + 1

/-- The rounding modes; `r` is the 16-bit value of R147. -/
def roundMode (mode : Nat) (n : Int) (d : Nat) (r : Nat) : Int :=
  if mode = 0 then rne n d
  else if mode = 1 then n.tdiv d
  else (n * 65536 + (r * d : Nat)).fdiv (d * 65536 : Nat)

/-- shr_rne(x, k). -/
def shrRne (x : Int) (k : Nat) : Int := rne x (2 ^ k)

/-- A value x × 2^k, as numerator and denominator. -/
def scaled (x : Int) (k : Int) : Int × Nat := if 0 ≤ k then (x * 2 ^ k.toNat, 1) else (x, 2 ^ (-k).toNat)

/-! ## The step mixer (R146, R147) -/

/-- A round: a, b, c, d and k0. -/
def mixRound (p : W32 × W32 × W32 × W32 × W32) : W32 × W32 × W32 × W32 × W32 :=
  let (a, b, c, d, k0) := p
  let k1 : W32 := 0xA3E10F96
  let a := a + b
  let d := (d ^^^ a).rotateLeft 13
  let c := c + d
  let b := (b ^^^ c).rotateLeft 9
  let a := a + (b ^^^ k0)
  let d := (d ^^^ a).rotateLeft 11
  let c := c + (d ^^^ k1)
  let b := (b ^^^ c).rotateLeft 5
  (a, b, c, d, k0 + 0x3C91E6B5)

/-- step_mix(seed, step, stream, index). -/
def stepMix (seed : W64) (step : W32) (stream : BitVec 16) (index : W32) : W64 :=
  let p := mixRound (mixRound (mixRound (mixRound (mixRound (mixRound
    (BitVec.ofNat 32 seed.toNat, BitVec.ofNat 32 (seed.toNat / 2 ^ 32), step, index,
      0x5B4D2C71 ^^^ stream.setWidth 32))))))
  let (a, b, c, d, _) := p
  (b ^^^ d) ++ (a ^^^ c)

/-- The 16-bit value of R147 for element ordinal j. -/
def rand16 (seed : W64) (step : W32) (stream : BitVec 16) (j : Nat) : Nat :=
  bitsOf (stepMix seed step stream (BitVec.ofNat 32 (j / 4))).toNat (16 * (j % 4) + 15) (16 * (j % 4))

/-! ## Requantisation (R144) -/

/-- The smallest exponent at or above `e` with a × 2^f ≤ q × 255 × 2^e, sought upward, at most `n` steps. -/
def seekExp (a : Nat) (f : Int) (q : Nat) : Nat → Int → Int
  | 0, e => e
  | n + 1, e =>
    let (x, d) := scaled a (f - e)
    if x ≤ (q * 255 * d : Nat) then e else seekExp a f q n (e + 1)

/-- The smallest e with a × 2^f ≤ q × 255 × 2^e: no lower than the difference of the lengths less one. -/
def fitExp (a : Nat) (f : Int) (q : Nat) : Int := seekExp a f q 4 (f + Nat.log2 a - Nat.log2 (q * 255) - 1)

/-- The ceiling of a quotient. -/
def ceilDiv (n : Int) (d : Nat) : Int := -((-n).fdiv d)

/-- What a requantisation gives: the scale word, the elements, the saturation flag. -/
structure Quant where
  e : Int
  m : Nat
  q : List Int
  sat : Bool
deriving DecidableEq, Repr

/-- A value held to ±lim. -/
def clampTo (lim : Nat) (v : Int) : Int := if v < -(lim : Int) then -(lim : Int) else if (lim : Int) < v then lim else v

/-- The elements of a requantised block under an exponent and a scale. -/
def quantElems (xs : List Int) (f e : Int) (m q mode : Nat) (r : Nat → Nat) : List Int :=
  (List.range xs.length).map fun i =>
    let (n, d) := scaled (xs.getD i 0) (f - e)
    clampTo q (roundMode mode n (d * m) (r i))

/-- Exponent, scale and saturation for the largest magnitude of a block that is not zero. -/
def quantScale (a : Nat) (f : Int) (q : Nat) : Int × Nat × Bool :=
  let e := fitExp a f q
  if 127 < e then (127, 255, true)
  else if e < -128 then (-128, 128, false)
  else
    let (n, d) := scaled a (f - e)
    (e, (ceilDiv n (d * q)).toNat, false)

/-- R144, with the rounding mode and the 16-bit value of each element. -/
def requant (xs : List Int) (f : Int) (q mode : Nat) (r : Nat → Nat) : Quant :=
  let a := xs.foldl (fun m x => max m x.natAbs) 0
  if a = 0 then { e := 0, m := 0, q := xs.map fun _ => 0, sat := false }
  else
    let (e, m, sat) := quantScale a f q
    let qs := quantElems xs f e m q mode r
    if qs.all (· == 0) then { e := 0, m := 0, q := qs, sat } else { e, m, q := qs, sat }

/-! ## Accumulation (R149, R150) -/

/-- A Fast accumulator block: empty, the running exponent, the lanes. -/
structure Fast where
  empty : Bool := true
  g : Int := 0
  a : List Int := []
deriving DecidableEq, Repr

/-- Lanes added one by one. -/
def addLanes (a b : List Int) : List Int := List.zipWith (· + ·) a b

/-- A contribution block in Fast mode (R149); one with M 0 changes nothing. -/
def fastAdd (x : Fast) (c : List Int) (e : Int) (m : Nat) : Fast :=
  if m = 0 then x
  else if x.empty then { empty := false, g := e, a := c }
  else
    let y : Fast :=
      if x.g < e then { x with g := e, a := addLanes (x.a.map fun v => shrRne v (e - x.g).toNat) c }
      else { x with a := addLanes x.a (c.map fun v => shrRne v (x.g - e).toNat) }
    if y.a.any fun v => decide (2 ^ 38 ≤ v.natAbs) then { y with a := y.a.map fun v => shrRne v 1, g := y.g + 1 } else y

/-- The bound of an Exact lane. -/
def exactMax : Nat := 2 ^ 95 - 1

/-- A contribution converted in Exact mode (R150), before its clamp. -/
def exactConv (c : Int) (e : Int) : Int := if 0 ≤ e + 48 then c * 2 ^ (e + 48).toNat else shrRne c (-(e + 48)).toNat

/-- An Exact accumulator block: its lanes and the saturation flag. -/
structure Exact where
  a : List Int := []
  sat : Bool := false
deriving DecidableEq, Repr

/-- A contribution block in Exact mode. -/
def exactAdd (x : Exact) (c : List Int) (e : Int) (m : Nat) : Exact :=
  if m = 0 then x
  else
    let v := c.map fun y => exactConv y e
    let sat := v.any fun y => decide (exactMax < y.natAbs)
    { a := addLanes x.a (v.map (clampTo exactMax)), sat := x.sat || sat }

/-- The total of an Exact block, clamped. -/
def exactTotal (x : Exact) : Exact :=
  { a := x.a.map (clampTo exactMax), sat := x.sat || x.a.any fun y => decide (exactMax < y.natAbs) }

end Sys2Proof.Machine
end

