-- ==== Sys2Proof/Machine/State.lean ====
section
/-! DEFINITION. What the Ewetik block holds: every register, queue, table and mode that the spec names, as plain data
grouped by the block that owns it. Every default is the reset value; State.reset is the machine right after reset.
A sparse map lists only the entries that differ from the reset value of its kind, which its field's docstring names. -/

namespace Sys2Proof.Machine

/-! ## Why a step can stop -/

/-- The faults of the block. No rule of the spec ends a command with one: an outcome the spec calls an error is a
status, a NACK, a counter or a fenced unit, which are all state. -/
inductive Fault where
  /-- Raised by nothing; kept so that the type has a member. Safe. -/
  | unreachable
deriving DecidableEq, Repr

/-- The refusals of the block. -/
inductive Refusal where
  /-- Raised by an arm of exec whose command has no meaning yet. Safe: no next state is claimed. -/
  | notModelled (mnemonic : String)
deriving DecidableEq, Repr

/-! ## Islands, resets, supplies and pins (chapters 1, 15, 16, 17) -/

/-- The state of a clock island (R18), coded in ISL_STAT as R470 gives. -/
inductive IslState where
  | off | starting | running | fenced
deriving DecidableEq, Repr

/-- One clock island: ISL_STAT (R470). -/
structure Island where
  state : IslState := .off
  pll : Bool := false
  refAlt : Bool := false
  railOk : Bool := false
deriving DecidableEq, Repr

/-- Where the boot of R437 stands. -/
inductive BootPhase where
  /-- Held in reset, step 1 not passed. -/
  | held
  /-- In the boot ROM below L0 (R29): step 2 failed, or no PCIe link is up yet. -/
  | rom
  /-- In recovery (R438). -/
  | recovery
  /-- The firmware runs, and R429's bring-up has not been done. -/
  | firmware
  /-- The firmware has brought the Sheds up (R437 step 6). -/
  | up
deriving DecidableEq, Repr

/-- The global block (R467) and the Keeper's home map (R15). -/
structure Glb where
  svc : BitVec 3 := 7
  bootSrc : BitVec 2 := 0
  hostPrimary : Bool := false
  cause : BitVec 5 := 0
  warm : Bool := false
  shedRst : Bool := false
  shedSel : ShedIx := 0
  refused : Bool := false
  homeMap : BitVec 8 := 0xE4
  /-- The home slots being rebuilt (R15); GLB_HOME_MAP.MOVING is 1 while the list is not empty. -/
  moving : List (Fin 4) := []
  boot : BootPhase := .held
  /-- The Shed whose reset runs (R433). -/
  shedResetOn : Option ShedIx := none
  /-- The Sheds whose wait for rails and reference clocks has run out before the bring-up (R429). -/
  railAbsent : List ShedIx := []
deriving DecidableEq, Repr

/-- The control block of a Shed (R471): DISPATCH_EN and QUEUE_FULL. -/
structure ShedCtl where
  dispatch : Bool := true
  queueFull : Bool := false
deriving DecidableEq, Repr

/-- The brownout monitor and the power registers (R453, R470, R478, R479). -/
structure Power where
  aonLow : Bool := false
  nvLow : Bool := false
  holdoff : Bool := false
  brnCnt : W32 := 0
  brnEvt : BitVec 2 := 0
  islEvt : BitVec 2 := 0
  tj : BitVec 8 := 0
  avg : BitVec 12 := 0
  /-- R478's warning has been given and the temperature has not fallen to its hysteresis point since. -/
  thermOn : Bool := false
  /-- THERM_TRIP_N is driven low and latched (R479). -/
  thermTrip : Bool := false
  /-- Sheds whose VDD_SHC set point waits for a retry over AVSBus (R474). -/
  avsRetry : List ShedIx := []
  /-- Sheds whose VDD_SHC set point firmware has written (R474). -/
  avsSet : List ShedIx := []
  /-- REFCLK_LNT inputs that have been declared lost since the Sheds took their references (R381). -/
  refLost : List (Fin 8) := []
deriving DecidableEq, Repr

/-- The state of an input filter, coded in INF_STAT (R455, R456). -/
inductive FilterState where
  | normal | chatter | stuck
deriving DecidableEq, Repr

/-- One filtered input (R455). `pin` is the level accepted last, `level` the level presented. -/
structure Input where
  pin : Bool := false
  level : Bool := false
  state : FilterState := .normal
  edges : BitVec 11 := 0
  /-- The presented level at the start of the current window. -/
  atStart : Bool := false
deriving DecidableEq, Repr

/-! ## The configuration journal and the firmware image (R435 to R447) -/

/-- One journal record (R444), with its COMMIT word. -/
structure JRec where
  key : W32
  value : List Byte
  seq : W32
  crc : W32
  commit : W32
deriving DecidableEq, Repr

/-- One journal half (R443). A half that is erased has no header and no record. -/
structure JHalf where
  erased : Bool := true
  magic : W32 := 0xFFFFFFFF
  gen : W32 := 0xFFFFFFFF
  crc : W32 := 0xFFFFFFFF
  complete : W32 := 0xFFFFFFFF
  recs : List JRec := []
deriving DecidableEq, Repr

/-- An append that Keeper firmware makes of its own and retries on resumption (R454). -/
structure OwnAppend where
  key : W32
  value : List Byte
deriving DecidableEq, Repr

/-- The external NOR: its journal halves and its image partition (R435), which every reset keeps. -/
structure Nor where
  half0 : JHalf := {}
  half1 : JHalf := {}
  /-- The image partition's programmed bytes, from offset 0. -/
  image : List Byte := []
deriving DecidableEq, Repr

/-- The journal block (JNL_*, FWI_*) and the firmware (R439 to R447, R369). -/
structure Jnl where
  mounted : Bool := false
  active : Bool := false
  nvLock : Bool := false
  compacting : Bool := false
  repair : Bool := false
  /-- The configuration generation, JNL_GEN (R447). -/
  gen : W32 := 0
  evt : BitVec 5 := 0
  appendCnt : W32 := 0
  /-- The records apply (they do not when BOOT_SRC is 2, R436). -/
  applied : Bool := false
  own : List OwnAppend := []
  fwiImage : BitVec 2 := 0
  fwiOwner : Bool := false
  staged : Nat := 0
  total : Nat := 0
  /-- The KPR counter, in ns, at the owner's last FW_STAGE (R440). -/
  stageTime : Nat := 0
  /-- The running image's SVN, RAISE, version and digest (R369, R490, R347). -/
  runSvn : BitVec 8 := 0
  runRaise : Bool := false
  fwVersion : W32 := 0
  fwDigest : List Byte := []
  /-- FW_ACTIVATE waits for the restart of the Keeper with the new image (R441). -/
  activating : Bool := false
  /-- The boot ROM has verified the image and waits for L0 before it starts it (R29, R437). -/
  imageReady : Bool := false
deriving DecidableEq, Repr

/-- The fuses (R369, R370). The vendor key digest, the device id and the KEM secret never change and stand in
Config. -/
structure Fuses where
  minSvn : Nat := 0
  jtagLock : Bool := false
deriving DecidableEq, Repr

/-! ## The Keeper and the mailboxes (chapter 11) -/

/-- The Keeper's state in KPR_BEAT (R335). -/
inductive KprState where
  | bootRom | running | restarting | halted
deriving DecidableEq, Repr

/-- A notice on its way: its kind and body, and the LOST mark of R338. -/
structure Notice where
  kind : BitVec 16
  seq : W32 := 0
  body : List Byte
deriving DecidableEq, Repr

/-- A notice a Shed holds while the Keeper is away (R349), with its channel. -/
structure ShedNotice where
  chan : ChanIx
  kind : BitVec 16
  body : List Byte
deriving DecidableEq, Repr

/-- The command a later response answers: the channel, its reset generation, and the copied fields of R326. -/
structure Reply where
  chan : ChanIx
  gen : Nat
  op : BitVec 16
  tag : W32
  /-- The command is a replayed one (R394): its response is not posted. -/
  replayed : Bool := false
deriving DecidableEq, Repr

/-- A request slot that the Keeper has taken from a channel's ring: the channel's number of resets then, and the 256 B. -/
structure Asked where
  gen : Nat
  slot : List Byte
deriving DecidableEq, Repr

/-- One mailbox channel: its window (R324), its channel-local keys (R337) and its held notices (R338). -/
structure Channel where
  pen : BitVec 12 := 0
  bound : Bool := false
  ringErr : Bool := false
  throttled : Bool := false
  dbIn : W32 := 0
  dbInMask : W32 := 0
  dbOut : W32 := 0
  dbOutMask : W32 := 0
  reqProd : BitVec 16 := 0
  reqCons : BitVec 16 := 0
  rspProd : BitVec 16 := 0
  rspCons : BitVec 16 := 0
  ntcProd : W32 := 0
  ntcCons : W32 := 0
  ntcDrop : W32 := 0
  peerNode : BitVec 16 := 0
  evt : BitVec 3 := 0
  reqRing : Mem := []
  rspRing : Mem := []
  /-- Requests taken and not answered: OPCODE and TAG (R328). -/
  taken : List (BitVec 16 × W32) := []
  /-- Requests taken from the ring and not started yet, in ring order (R325, R328). -/
  asked : List Asked := []
  held : List Notice := []
  /-- The number of the next notice (R338). -/
  ntcSeq : W32 := 0
  /-- A notice has been lost since the last one written. -/
  ntcLost : Bool := false
  ringBase : W64 := 0
  ringEntries : W32 := 0
  ntcKinds : W32 := 0xFFFFFFFF
  peerDb : W64 := 0
  /-- The KPR times, in ns, of the rises of inbound bit 0 within the last 10 ms (R332). -/
  rises : List Nat := []
  /-- The number of resets of R334 that the channel has had, and of Keeper restarts that ended its commands (R348); a Reply
  of an earlier one is discarded. -/
  gen : Nat := 0
deriving DecidableEq, Repr

/-- The Keeper (R335, R347 to R350). -/
structure Keeper where
  state : KprState := .bootRom
  count : BitVec 24 := 0
  restarts : BitVec 32 := 0
  /-- The AON times, in ns, of the watchdog expiries within the last 600 s (R350). -/
  expiries : List Nat := []
  /-- The cause of the restart in progress: 0 watchdog, 1 FW_ACTIVATE (R339). -/
  restartCause : BitVec 32 := 0
  /-- A restart has led into recovery, and R348's actions are still owed. -/
  resume : Bool := false
  /-- The FW_ACTIVATE that the new image answers (R345). -/
  activateReply : Option Reply := none
  /-- Shed notice queues (R349), 4,096 entries each, and whether one was lost. -/
  shedQ : Assoc ShedIx (List ShedNotice) := []
  shedLost : List ShedIx := []
  /-- Samples to the Keeper that were dropped while it was away (R349). -/
  sampleDrop : W32 := 0
deriving DecidableEq, Repr

/-! ## Security and Pens (chapter 12) -/

/-- The state of a tenant Pen (R351). -/
inductive PenState where
  | free | active | closing | quarantine
deriving DecidableEq, Repr

/-- A Pen record: seed (R148), quotas (R355), teardown (R375) and the tag counter of its tables (R162). -/
structure Pen where
  state : PenState := .free
  seed : W64 := 0
  channels : List ChanIx := []
  qNear : W32 := 0
  qLent : W32 := 0
  qTray : W32 := 0
  qFlash : W32 := 0
  qMatch : W32 := 0
  qSessions : W32 := 0
  qTasks : BitVec 16 := 0
  qDma : BitVec 8 := 0
  dsFirst : W32 := 0
  dsPages : W32 := 0
  /-- The PEN_DESTROY to be answered at Quarantine. -/
  destroy : Option Reply := none
  /-- The tag sweep of R354 has ended. -/
  swept : Bool := false
  /-- The next generation tag of the Pen's tables (R162). -/
  tagNext : BitVec 16 := 1
  /-- The address of its level-1 table in the control area, 0 while it has none (R32). -/
  l1 : W64 := 0
deriving DecidableEq, Repr

/-- An installed connectivity association key (R363). -/
structure Cak where
  keyId : BitVec 8
  ckn : List Byte
  key : List Byte
deriving DecidableEq, Repr

/-- The security block (SEC_*), its key slots and the measurement log (R360 to R371). -/
structure Sec where
  verified : Bool := false
  recovery : Bool := false
  authFail : W32 := 0
  penDrop : W32 := 0
  discard : W32 := 0
  evt : BitVec 3 := 0
  /-- Memory keys by Pen and key id: the 64 B XTS key pair. -/
  keys : Assoc (BitVec 12 × BitVec 8) (List Byte) := []
  /-- The device key of R359, drawn at every boot: a pair of 256-bit keys. -/
  devKey : Option (BitVec 512) := none
  caks : List Cak := []
  /-- The IDE keys of port A and of port B, and the stream enables of their IDE capabilities. -/
  ideA : Option (List Byte) := none
  ideB : Option (List Byte) := none
  ideEnA : Bool := false
  ideEnB : Bool := false
  /-- The measurement log, entries of 80 B (R371). -/
  log : List (List Byte) := []
  /-- The Pens whose tag sweep each fenced island owes (R354). -/
  sweepOwed : Assoc IslandIx (List (BitVec 12)) := []
deriving DecidableEq, Repr

/-! ## The Daymark and the Input Journal (chapter 13) -/

/-- An event in the Daymark's queue (R401), with the DETAIL of its record. -/
structure DmkEvent where
  source : W32
  code : BitVec 16
  island : BitVec 8
  pen : BitVec 16 := 0
  node : BitVec 16 := 0
  obj : W32 := 0
  addr : W64 := 0
deriving DecidableEq, Repr

/-- A trigger (R399). -/
structure Trigger where
  oneshot : Bool
  freeze : Bool
  source : W32
  code : BitVec 16
  count : BitVec 16
  offsets : List W32
  armed : Bool := true
  hits : Nat := 0
deriving DecidableEq, Repr

/-- The Daymark (R397 to R403). -/
structure Daymark where
  en : Bool := true
  bare : Bool := true
  /-- State Full and state Frozen of DMK_STAT; Stopped is EN 0. -/
  full : Bool := false
  frozen : Bool := false
  gen : BitVec 16 := 0
  writeSeq : W32 := 0
  writePtr : Nat := 0
  lost : W32 := 0
  /-- Events dropped since the previous record: the LOST of the next one. -/
  lostSince : W32 := 0
  fired : W32 := 0
  pageA : BitVec 4 := 0
  pageB : BitVec 4 := 0
  buf : Mem := []
  triggers : Assoc (Fin 32) Trigger := []
  queue : List DmkEvent := []
deriving DecidableEq, Repr

/-- A digest that a replay waits to compare: response (KIND 4) or notice (KIND 5), its key and its CRC (R394). -/
structure Digest where
  kind : BitVec 8
  chan : BitVec 16
  key : W32
  crc : W32
  seq : W32 := 0
deriving DecidableEq, Repr

/-- The state of the Input Journal (R393). -/
inductive IjnState where
  | idle | recording | full | replaying | diverged | done
deriving DecidableEq, Repr

/-- The Input Journal (R391 to R395). -/
structure InputJournal where
  state : IjnState := .idle
  /-- The size of the journal area in bytes, fixed at boot (R42). -/
  area : Nat := 0
  records : W32 := 0
  bytes : List Byte := []
  total : Nat := 0
  fed : List Byte := []
  replayed : W32 := 0
  divSeq : W32 := 0
  divExp : W32 := 0
  divObs : W32 := 0
  expected : List Digest := []
  observed : List Digest := []
  /-- A fed record is being injected; the channels that fed records have named (R394). -/
  inject : Bool := false
  chansFed : List ChanIx := []
deriving DecidableEq, Repr

/-! ## Units with spares (R10 to R12, R382 to R386) -/

/-- The state of a unit, coded as SPARE_STATUS codes it (R385). -/
inductive UnitSt where
  | off | active | fenced | spareFree | spareEngaged
deriving DecidableEq, Repr

/-- A Yard, Reduce, Gather or Filter Unit as R382 to R386 see it, with its control bits, its event register and its
RC counters (the Unit's own chapter names them). -/
structure Unit where
  st : UnitSt := .off
  en : Bool := true
  fence : Bool := false
  /-- For an engaged spare the index it replaces; for a fenced unit that the spare replaces, 16. -/
  link : Option UnitIx := none
  /-- A spare that has been engaged: its registers are seen from then on (R10), also once it is fenced. -/
  engaged : Bool := false
  wear : BitVec 3 := 0
  cause : BitVec 8 := 0
  /-- Corrected errors in the last 24 hours (R385). -/
  ce24 : W32 := 0
  /-- The SPARE_ENGAGE that waits for the unit's work to finish (R384). -/
  drain : Option Reply := none
  /-- The unit drains before its retirement; the reply is absent when the retirement is a wear action (R386). -/
  draining : Bool := false
  evt : BitVec 8 := 0
  cnt0 : W32 := 0
  cnt1 : W32 := 0
  cnt2 : W32 := 0
  cnt3 : W32 := 0
deriving DecidableEq, Repr

/-! ## Lanterns, ports, partners and PCIe functions (chapter 14) -/

/-- One transceiver slice: LNT_SLICE_STAT, and its WEAR and CAUSE bytes of R385. -/
structure Slice where
  state : BitVec 3 := 0
  lambda : BitVec 2 := 0
  heater : BitVec 7 := 0
  eye : BitVec 7 := 0
  wear : BitVec 3 := 0
  cause : BitVec 8 := 0
  /-- For an engaged spare the slice it replaces; for a fenced slice the spare that replaces it (R385). -/
  link : Option (Fin 36) := none
deriving DecidableEq, Repr

/-- One Lantern (R404 to R410). An unlisted lane uses its own slice; an unlisted slice is at reset, tuned to its
index modulo 4. -/
structure Lantern where
  input : Bool := false
  elsIgnored : Bool := false
  laserA : BitVec 16 := 0
  laserB : BitVec 16 := 0
  /-- An input whose light is lost (R380). -/
  lostA : Bool := false
  lostB : Bool := false
  evt : BitVec 3 := 0
  map : Assoc (Fin 32) (Fin 36) := []
  slices : Assoc (Fin 36) Slice := []
  /-- Lanes that wait for the retuning of a spare slice (R407, R408), with the cause of their move. -/
  retuning : List (Fin 36 × Fin 32 × BitVec 8) := []
  /-- The SPARE_ENGAGE requests that wait for a retuned spare (R384). -/
  moveReplies : Assoc (Fin 32) Reply := []
  /-- The lanes that are down for want of a spare (R408). -/
  down : List (Fin 32) := []
  /-- WARN and ACT of the laser inputs (R386): bits 0 and 1 of input A, 2 and 3 of input B. -/
  laserWear : BitVec 4 := 0
  calibrating : Bool := false
deriving DecidableEq, Repr

/-- A CALIB_RUN in progress (R451): the Lanterns not yet done, and the counts of its response. -/
structure CalibRunning where
  reply : Reply
  todo : List StackIx
  written : W32 := 0
  failed : W32 := 0
deriving DecidableEq, Repr

/-- What a port keeps of its partner's LLDP frames (R417). -/
structure Lldp where
  chassis : List Byte
  portId : List Byte
  molup : Option (List Byte)
  ttl : BitVec 16
deriving DecidableEq, Repr

/-- The MACsec secure channel of a port (R365, R366). -/
structure Secy where
  ckn : List Byte
  sak : List Byte
  /-- The device is key server. -/
  server : Bool
  /-- The frames sent under the SAK. -/
  pn : Nat := 0
deriving DecidableEq, Repr

/-- One port block (PRT_*), its queuing registers (SCH_P*) and its drop counters. -/
structure Port where
  width : BitVec 2 := 0
  auth : BitVec 2 := 1
  macsec : Bool := false
  xpn : Bool := false
  llrOff : Bool := false
  link : BitVec 2 := 0
  llr : Bool := false
  suppressed : Bool := false
  partner : BitVec 2 := 0
  node : BitVec 16 := 0
  role : BitVec 3 := 0
  penalty : BitVec 14 := 0
  /-- The LNI time, in ns, at which the penalty was computed last (R422). -/
  penaltyAt : Nat := 0
  retryCnt : W32 := 0
  lostCw : W32 := 0
  fecSym : W32 := 0
  evt : BitVec 4 := 0
  mka : BitVec 8 := 16
  replayWin : BitVec 31 := 0
  lldp : Option Lldp := none
  secy : Option Secy := none
  /-- Silent drops at stations 2 and 3 of R22. -/
  dropMacsec : W32 := 0
  dropHeader : W32 := 0
  /-- The priority its partner announces in MKA, when one has (R366). -/
  peerMka : Option (BitVec 8) := none
deriving DecidableEq, Repr

/-- The state of a partner (R388). -/
inductive PartnerState where
  | admitted | holding | absent
deriving DecidableEq, Repr

/-- A partner record (R387, R388, R418 to R421). -/
structure Partner where
  state : PartnerState := .admitted
  role : BitVec 3
  deviceId : BitVec 128
  /-- The last nonce received from the partner. -/
  nonce : BitVec 128
  /-- The device's latest nonce, sent to the partner in its Hello; 0 before one was sent (R418, R419). -/
  sent : BitVec 128 := 0
  caps : W32
  ports : List PortIx
  score : BitVec 8 := 255
  last : BitVec 8 := 255
  retries : W32 := 0
  expiries : W32 := 0
  pairFails : W32 := 0
  linkDowns : W32 := 0
  /-- The counts of the current window (R387): retries, expiries, pair failures, link-downs, lanes at ACT. -/
  wRetries : Nat := 0
  wExpiries : Nat := 0
  wFails : Nat := 0
  wDowns : Nat := 0
  wActs : Nat := 0
deriving DecidableEq, Repr

/-- One aperture entry as it takes effect (R425, R427). -/
structure AprEntry where
  v : Bool := false
  write : Bool := false
  keyId : BitVec 8 := 0
  pen : BitVec 12 := 0
  ext : BitVec 35 := 0
deriving DecidableEq, Repr

/-- One MSI-X table entry: address, data and the mask bit of its vector control. -/
structure Msix where
  addr : W64 := 0
  data : W32 := 0
  masked : Bool := true
  pending : Bool := false
deriving DecidableEq, Repr

/-- A PCIe function: its aperture (R424 to R427), its MSI-X structures, its _HI captures (R461). -/
structure Fn where
  apr : Assoc (Fin 8192) AprEntry := []
  /-- APR_LO halves written and not yet applied (R427). -/
  aprLo : Assoc (Fin 8192) W32 := []
  errCnt : W32 := 0
  aprEvt : Bool := false
  msix : Assoc (Fin 64) Msix := []
  /-- Captured _HI halves by their BAR0 offset (R461). -/
  hi : Assoc Nat W32 := []
deriving DecidableEq, Repr

/-- A PCIe port: its link and PERST (R423, R431). -/
structure PciePort where
  up : Bool := false
  degraded : Bool := false
  perst : Bool := false
deriving DecidableEq, Repr

/-! ## CMX transport (chapter 3) -/

/-- A CMX packet that the device sends: its header (R76) but for VERSION, SRC_NODE and SEQ, and its payload. -/
structure Pkt where
  htype : BitVec 4 := 0
  op : BitVec 8
  flags : BitVec 16 := 0
  pen : BitVec 12 := 0
  cls : BitVec 4 := 0
  epoch : BitVec 16 := 0
  length : BitVec 16 := 0
  addr : BitVec 56 := 0
  keyId : BitVec 8 := 0
  group : W32 := 0
  step : W32 := 0
  handle : W32 := 0
  tag : W32 := 0
  payload : List Byte := []
deriving DecidableEq, Repr

/-- For whom the device sends a packet that waits for its pair's limit: a gather or a filter, a stream port of a Yard. -/
inductive PktFor where
  | req (id : Nat)
  | port (y : YardRef) (p : Fin 16)
deriving DecidableEq, Repr

/-- A packet that waits for its pair's limit (R84): whether it ends a request of its epoch (R102), the Shed of the unit that
sends it (R24), and for whom. -/
structure Kept where
  pkt : Pkt
  fin : Bool := false
  own : Option ShedIx := none
  whose : Option PktFor := none
deriving DecidableEq, Repr

/-- A packet the device has sent on a pair and that is not acknowledged (R89), with the Shed of the unit that sent it
(R24). -/
structure Sent where
  seq : W32
  pkt : Pkt
  own : Option ShedIx := none
  expiries : Nat := 0
  /-- The fast retransmission of R89 has been made. -/
  fast : Bool := false
deriving DecidableEq, Repr

/-- A request that its pair holds until the settled-through value reaches it: its opcode and its packet (R94, R128,
R134). -/
structure HeldOrdered where
  op : BitVec 8
  rx : Rx
deriving DecidableEq, Repr

/-- The pair state for one peer node (R84 to R96). -/
structure Pair where
  /-- Cumulative acknowledgement S: every packet up to it has arrived (R87). -/
  rxCum : W32
  /-- Packets that arrived beyond a gap. -/
  rxSel : List W32 := []
  /-- The settled-through value T (R93). -/
  settled : W32
  /-- Packets above T that have settled. -/
  settledSel : List W32 := []
  /-- Stores that have been applied or NACKed and whose settling STORE_SETTLED has not yet counted. -/
  ended : List W32 := []
  /-- The next sequence number the device sends. -/
  txNext : W32
  unacked : List Sent := []
  /-- Packets that wait for the outstanding limit of R84. -/
  backlog : List Kept := []
  maxOut : Nat := 2048
  /-- The permitted outstanding count of R91, and the acknowledged packets since its last rise. -/
  window : Nat := 2048
  acked : Nat := 0
  /-- Arrivals since the last Acknowledgement; the Acknowledgement delay runs while it is not zero (R87). -/
  arrivals : Nat := 0
  ceEcho : Bool := false
  held : List HeldOrdered := []
  beyond : W32 := 0
  duplicates : W32 := 0
deriving DecidableEq, Repr

/-- One node table entry (R270). -/
structure NodeEntry where
  node : Node
  v : Bool
  isLocal : Bool
  ipv6 : Bool
  tagged : Bool
  ports : List PortIx
  vid : BitVec 12
  mac : BitVec 48
  ip : BitVec 128
deriving DecidableEq, Repr

/-- A route map: its epoch, its node table and its group tree entries (R99, R344). -/
structure RouteMap where
  epoch : BitVec 16 := 0
  nodes : List NodeEntry := []
  tree : List (W32 × Node) := []
deriving DecidableEq, Repr

/-- The device's CMX forwarding state (R99 to R103), with the counters that the rules name. -/
structure Routes where
  current : RouteMap := {}
  previous : Option RouteMap := none
  staged : Option RouteMap := none
  /-- Packets admitted under the current and under the previous map and not finished (R102). -/
  inflight : Nat := 0
  inflightPrev : Nat := 0
  epochForced : W32 := 0
  noRoute : W32 := 0
  linkDown : W32 := 0
  ttlDrop : W32 := 0
  pauseDrop : W32 := 0
deriving DecidableEq, Repr

/-! ## Switching, queuing and traffic control (chapter 9) -/

/-- What the device puts around the payload of a datagram of its own: VERSION and SRC_NODE of the CMX header (R76), the
Ethernet addresses and the tag with its priority code point (R87, R270, R271), IP with the Don't Fragment bit (R72), and UDP
with its ports and checksum (R73, R74). -/
structure Wrap where
  version : BitVec 4 := 1
  src : Node
  dstMac : BitVec 48
  srcMac : BitVec 48
  tag : Option (BitVec 3 × BitVec 12) := none
  ipv6 : Bool := false
  dontFragment : Bool := true
  ipSrc : BitVec 128 := 0
  ipDst : BitVec 128 := 0
  sport : BitVec 16
  dport : BitVec 16
  sum : BitVec 16 := 0
deriving DecidableEq, Repr

/-- What a queued frame is: a packet the device sends to a node, a frame it forwards or bridges, or a datagram that
carries a sample (R293). -/
inductive FrameBody where
  /-- The device's own packet; SEQ is its sequence number (a Hello's first sequence number, an Acknowledgement's S). -/
  | own (dst : Node) (seq : W32) (p : Pkt) (w : Wrap)
  | forward (f : Frame)
  | sample (dst : Node) (bytes : List Byte) (w : Wrap)
  | lldp
deriving DecidableEq, Repr

/-- A frame in a VOQ (R274). -/
structure QFrame where
  body : FrameBody
  len : Nat
  /-- The ingress port; none for the device's own packets. -/
  ingress : Option PortIx
  ect : Bool := false
  dei : Bool := false
  /-- The epoch whose in-flight count the frame's transmission lowers (R102). -/
  fin : Option (BitVec 16) := none
  /-- It was admitted into the HEADROOM of its ingress port and class (R288). -/
  headroom : Bool := false
  /-- Its FCS or its MACsec check has failed after its transmission began (R279). -/
  bad : Bool := false
  /-- The SHC time, in ns, of its admission, where the command that queued it gives one. -/
  time : Option Nat := none
deriving DecidableEq, Repr

/-- One VOQ with its registers (R274, R291). -/
structure Voq where
  frames : List QFrame := []
  depthMax : W32 := 0
  delayMax : W32 := 0
  drop : W32 := 0
deriving DecidableEq, Repr

/-- The Loft and scheduler registers of a Shed (LFT_*, SCH_*). -/
structure Sched where
  voqMib : BitVec 7 := 48
  alpha : BitVec 2 := 1
  voqMax : BitVec 12 := 64
  /-- In KiB; a setting of 64 MiB takes the bit above the register's field. -/
  ecnThr : BitVec 17 := 128
  xoff : BitVec 17 := 256
  xon : BitVec 16 := 192
  headroom : BitVec 17 := 128
  watchdog : BitVec 16 := 100
  evt : BitVec 5 := 0
  bufDrop : W32 := 0
  red : W32 := 0
  stomp : W32 := 0
  sampleDrop : W32 := 0
  /-- The second in which the last sample was passed, and the samples passed in it (R293). -/
  sampleSec : Nat := 0
  sampleN : Nat := 0
  /-- The VOQ buffer that was sized at boot, in MiB (R273). -/
  bootMib : Nat := 48
deriving DecidableEq, Repr

/-- A port sampler (R292): N, DEST, its countdown (none before its first frame) and its sample count. -/
structure Sampler where
  n : BitVec 24 := 0
  dest : BitVec 2 := 0
  countdown : Option Nat := none
  count : W32 := 0
deriving DecidableEq, Repr

/-- The queuing registers of a port (SCH_P*, SCH_QUANT) and its scheduler's state (R277 to R281, R288, R289). -/
structure PortQ where
  ctMask : BitVec 8 := 0xFF
  pfcMask : BitVec 8 := 0
  strict : BitVec 8 := 0
  defClass : BitVec 3 := 0
  bridge : Bool := true
  maxFrame : BitVec 14 := 9216
  rx : Sampler := {}
  tx : Sampler := {}
  paused : BitVec 8 := 0
  xoff : BitVec 8 := 0
  wdTrip : BitVec 8 := 0
  quant : Assoc (Fin 8) (BitVec 17) := []
  deficit : Assoc (Fin 8) Nat := []
  /-- The class at the head of the round, and whether it has had its quantum. -/
  round : Fin 8 := 0
  served : Bool := false
  /-- The last ingress Shed served, per class (R277). -/
  rr : Assoc (Fin 8) ShedIx := []
  /-- The frames being transmitted and granted: class, and the LNI times, in ns, of the first and the last bit. -/
  sending : List (Fin 8 × Nat × Nat) := []
deriving DecidableEq, Repr

/-- A credit-based shaper (R282). The credit is in thousandths of a bit, computed at LNI time `time`. -/
structure Shaper where
  idle : BitVec 21 := 0
  en : Bool := false
  credit : Int := 0
  time : Nat := 0
  /-- A frame was waiting at that time. -/
  waiting : Bool := false
  /-- Keeper firmware has written the settings since that time, at a moment that its write does not name. -/
  written : Bool := false
deriving DecidableEq, Repr

/-- The time gates of a port (R285 to R287). A bank's entry is a mask and an interval in ns. -/
structure Gate where
  en : Bool := false
  active : Bool := false
  pending : Bool := false
  len0 : BitVec 7 := 0
  len1 : BitVec 7 := 0
  base : W64 := 0
  off : W64 := 0
  bank0 : List (BitVec 8 × BitVec 24) := []
  bank1 : List (BitVec 8 × BitVec 24) := []
  /-- The entry that applies now, and the port time, in ns, at which it began. -/
  idx : Nat := 0
  start : Nat := 0
  /-- The MAX_FRAME of the guard band now (R295). -/
  guard : BitVec 14 := 9216
  /-- A list has become active. -/
  running : Bool := false
deriving DecidableEq, Repr

/-- A three-colour meter (R283). Bucket levels are in thousandths of a bit, computed at SHC time `time`. -/
structure Meter where
  port : BitVec 7 := 0
  cls : BitVec 3 := 0
  pen : BitVec 12 := 0
  anyPen : Bool := false
  en : Bool := false
  aware : Bool := false
  redPass : Bool := false
  cir : BitVec 21 := 0
  cbs : BitVec 24 := 0
  pir : BitVec 21 := 0
  pbs : BitVec 24 := 0
  yel : W32 := 0
  redCnt : W32 := 0
  cTok : Nat := 0
  pTok : Nat := 0
  time : Nat := 0
deriving DecidableEq, Repr

/-- A learn event (R272). -/
structure Learn where
  mac : BitVec 48
  vid : BitVec 12
  port : PortIx
deriving DecidableEq, Repr

/-- The switching state of the device. Unlisted Sheds, VOQs, ports, shapers, gates and meters are at reset. -/
structure Switch where
  sched : Assoc ShedIx Sched := []
  voqs : Assoc (ShedIx × Fin 4096) Voq := []
  ports : Assoc PortIx PortQ := []
  shapers : Assoc (PortIx × Fin 8) Shaper := []
  gates : Assoc PortIx Gate := []
  meters : Assoc (ShedIx × Fin 16384) Meter := []
  /-- VLAN member sets (R343). -/
  vlans : Assoc (BitVec 12) (BitVec 512) := []
  /-- Learn events queued to the Keeper, per ingress Shed. -/
  learns : Assoc ShedIx (List Learn) := []
  /-- The second in which the last learn event was queued, those queued in it, and those dropped (R272). -/
  learnSec : Nat := 0
  learnN : Nat := 0
  learnDrop : W32 := 0
  /-- Frames that wait in their ingress Loft, with their times, while a lost bank is rewritten (R220). -/
  lofted : List (Frame × Nat) := []
deriving DecidableEq, Repr

/-! ## What the device sends -/

/-- An output of the block, as the world beyond its pins sees it. -/
inductive Out where
  /-- A frame leaves a port, with its CE mark. -/
  | frame (port : PortIx) (body : FrameBody) (ce : Bool)
  /-- A frame that was begun leaves with an inverted FCS (R279). -/
  | stomped (port : PortIx) (f : Frame)
  /-- A PFC frame (R288): class and quanta. -/
  | pfc (port : PortIx) (cls : Fin 8) (quanta : BitVec 16)
  /-- An MSI-X message of a function. -/
  | msix (fn : FnIx) (vector : Fin 64)
  /-- A completion of a PCIe read: data, or none for Unsupported Request and Completer Abort. -/
  | completion (fn : FnIx) (status : BitVec 3) (data : List Byte)
  /-- The answer to a register read by a caller. -/
  | regRead (value : W64)
  /-- A clear command to a DRAM tray, for a 2 MiB frame (R57). -/
  | trayClear (tray : Node) (frame : Nat)
  /-- LLDP and MKA frames. -/
  | lldp (port : PortIx) (capability : W32)
  | mka (port : PortIx) (sak : List Byte)
deriving DecidableEq, Repr
/-! ## The near tier (R37 to R51) -/

/-- One near-tier stack: the NTS_* registers, and what R45 to R50 keep of its locations. -/
structure Stack where
  /-- NTS_STAT.STATE: 0 Off, 1 Training, 2 Online, 3 Failed. -/
  state : BitVec 2 := 0
  retireEn : Bool := true
  patrolEn : Bool := true
  forceFail : Bool := false
  ce : W32 := 0
  ue : W32 := 0
  retired : Nat := 0
  ceThr : BitVec 16 := 4
  evt : BitVec 5 := 0
  /-- Uncorrectable errors in the current patrol pass, and corrected errors by location. -/
  passUe : Nat := 0
  passCe : Assoc Nat Nat := []
  /-- The retirement table: a location and the reserve location that replaces it (R49). -/
  remap : Assoc Nat Nat := []
  /-- Reserve locations that are not free. -/
  taken : List Nat := []
  /-- Locations missing from their rows (R50), and locations whose retirement copy runs: the location, its reserve
  location, and whether it reported an uncorrectable error. -/
  missing : List Nat := []
  copying : List (Nat × Nat × Bool) := []
deriving DecidableEq, Repr

/-- The near tier. NEAR homes are kept as plaintext by near block address; parity follows from the data of a row and
is not stored twice. -/
structure Near where
  stks : Assoc StackIx Stack := []
  mem : Mem := []
  /-- Stacks whose control-area blocks are in the resynchronisation map (R38), each with the blocks that have left it. -/
  resync : Assoc StackIx (List Nat) := []
  /-- Control blocks placed in a reserve location of another stack: half (true is copy B) and block. -/
  placed : Assoc (Bool × Nat) (StackIx × Nat) := []
  /-- Blocks in the map whose reserve location on another stack cannot be written. -/
  unplaced : List (Bool × Nat) := []
  /-- Locations that will report an error when they are next read (R45). -/
  flaws : Assoc (StackIx × Nat) EccResult := []
  /-- The areas of R42 as sized at boot, in bytes: control area copy, stage pool, FLASH map limit. -/
  ctl : Nat := 4 * 2 ^ 30
  stagePool : Nat := 32 * 2 ^ 30
  flashMap : Nat := 64 * 2 ^ 30
  /-- DS_SIZE, the device-space area of each copy (R297). -/
  dsSize : Nat := 2 ^ 30
  /-- The bytes of a copy that table levels, maps, planes, tables and programs take (R492). -/
  ctlUsed : Nat := 0
deriving DecidableEq, Repr

/-! ## Extents (R30 to R41, R131) -/

/-- A tier (R39). -/
inductive Tier where
  | near | lent | tray | flash
deriving DecidableEq, Repr

/-- A leaf entry's STATE (R34). -/
inductive ExtState where
  | resident | migrating | lost | draining | scrubbing
deriving DecidableEq, Repr

/-- A leaf entry's CLASS (R40). -/
inductive Cls where
  | ordinary | rebuildable | sealed
deriving DecidableEq, Repr

/-- An owner record (R131): an even epoch is Owned, an odd one in transfer. -/
structure OwnerRec where
  owner : Node
  target : Node := 0
  epoch : W32 := 0
  /-- The TAG and the class of the OWNER_OFFER that began the transfer (R132). -/
  tag : W32 := 0
  cls : BitVec 4 := 0
deriving DecidableEq, Repr

/-- A leaf entry (R34) with the home state of its extent: the owner record, the lease hold, the reader set. -/
structure Extent where
  v : Bool := false
  tier : Tier := .near
  st : ExtState := .resident
  cls : Cls := .ordinary
  comp : Bool := false
  node : Node := 0
  frame : W32 := 0
  migr : BitVec 16 := 0
  keyId : BitVec 8 := 0
  gen : W32 := 0
  owner : Option OwnerRec := none
  hold : Option ChanIx := none
  readers : List Node := []
  broadcast : Bool := false
  /-- The holder whose revoked lease reclaims the extent (R126). -/
  reclaim : Option Holder := none
deriving DecidableEq, Repr

/-- A directory entry (R33) of level 1 (key: the L1 index) or 2 (key: the L1 and L2 indexes). -/
structure DirEntry where
  v : Bool := false
  ptr : BitVec 49 := 0
  count : W32 := 0
  gen : W32 := 0
deriving DecidableEq, Repr

/-- A key of an extent: its Pen and its extent number. -/
abbrev ExtKey := BitVec 12 × BitVec 35

/-- A frame of a tier: the tier, the node and the frame number. -/
structure Frm where
  tier : Tier
  node : Node
  frame : Nat
deriving DecidableEq, Repr

/-- A freed frame whose scrub has not ended (R57, R377). -/
structure Scrub where
  key : ExtKey
  frm : Frm
deriving DecidableEq, Repr

/-- A migration record (R52 to R56). A set bit is a block At target. -/
structure Migration where
  key : ExtKey
  target : Tier
  node : Node
  /-- The target frame; none while the target tier has none free. -/
  frame : Option Nat
  /-- The frame that the extent comes from, and its key id. -/
  src : Frm
  keyId : BitVec 8
  bits : List Nat := []
  moving : Option Nat := none
  /-- The Moving block's bytes, once read from the source. -/
  data : Option (List Byte) := none
  /-- The write of the Moving block to the target is complete. -/
  written : Bool := false
  stalled : Bool := false
  /-- It moves the blocks At target back to the source tier (R55). -/
  back : Bool := false
  /-- It turns back once the Moving block has resolved (R56). -/
  turnBack : Bool := false
  /-- The extent's migration ends once the Moving block has resolved (R56). -/
  ending : Bool := false
  /-- The recall that it serves (R62). -/
  recId : Option Nat := none
deriving DecidableEq, Repr

/-- An EXTENT_MIGRATE whose response waits (R55). -/
structure MigCmd where
  reply : Reply
  todo : List ExtKey
  moved : W32 := 0
  stalled : W32 := 0
  status : Nat := 0
deriving DecidableEq, Repr

/-- An EXTENT_ALLOC whose zero fill of a frame on a tray or a lender runs (R41). -/
structure AllocCmd where
  reply : Reply
  pen : BitVec 12
  ext : BitVec 35
  left : Nat
  made : W32 := 0
  tier : Tier
  cls : Cls
  node : Node
  owner : Node
  keyId : BitVec 8
  hold : Bool
  comp : Bool
  /-- The frame being filled, and the WRITEs of its fill that are not answered. -/
  frm : Option Frm := none
  acks : Nat := 0
deriving DecidableEq, Repr

/-- Who waits for a pool access to end. -/
inductive Orig where
  | cmx (op : BitVec 8) (rx : Rx)
  | apr (fn : FnIx)
  | fetch (id : Nat)
  | out (id : Nat)
  | yardIn (y : YardRef) (port : Fin 16)
  | yardOut (y : YardRef) (port : Fin 16)
  | dma (ch : DmaIx)
  | table (pen : BitVec 12) (id : BitVec 3)
  /-- Nobody: a write of a task that has ended since. -/
  | gone
deriving DecidableEq, Repr

/-- How a pool access ended: its bytes, a NACK's reason and detail, or a discard at an encryption point (R361). -/
inductive PoolRes where
  | ok (bytes : List Byte)
  | err (reason : BitVec 8) (detail : W32)
  /-- A NACK of an earlier station than 9: that of an access whose home slot was being rebuilt when it began. -/
  | refused (reason : BitVec 8) (station : Nat) (detail : W32)
  | discarded
deriving DecidableEq, Repr

/-- What a pool access does at its block now. -/
inductive Phase where
  /-- It waits: for a Moving block, a retirement's copy, or an earlier store to the block. -/
  | waiting
  /-- A tray's or lender's READ_RESP. -/
  | reading
  /-- A tray's or lender's WRITE_ACK, or durability on a flash tray. -/
  | writing
deriving DecidableEq, Repr

/-- A pool access that has passed station 8 and not ended (R22 station 9): one extent's bytes from `off`, at most two
blocks, read or stored block by block. -/
structure Job where
  id : Nat
  orig : Orig
  /-- The Pen for which it acts, and the extent, in its Pen's table. -/
  pen : BitVec 12
  key : ExtKey
  off : Nat
  len : Nat
  store : Bool := false
  /-- An ATOMIC: AOP and ASIGNED. -/
  atomic : Option (BitVec 2 × Bool) := none
  data : List Byte := []
  /-- The side descriptor that the store writes (R80, R153). -/
  desc : Option W32 := none
  handle : W32 := 0
  /-- Blocks done, and the bytes read so far. -/
  done : Nat := 0
  acc : List Byte := []
  /-- The side descriptor that stood with the block read last. -/
  got : W32 := 0x00011000
  phase : Phase := .waiting
  /-- Its home slot was being rebuilt when it began (R15): what its home checks of it is still to be checked. -/
  held : Bool := false
  result : Option PoolRes := none
deriving DecidableEq, Repr

/-- For whom the device made a TRAY_ADDR request of its own (R79). -/
inductive DevFor where
  | job (id : Nat)
  | migRead (key : ExtKey)
  | migWrite (key : ExtKey)
  | stage (window : W32) (layer block : Nat)
  | fill (chan : ChanIx) (tag : W32)
  | scrub (key : ExtKey)
  | page (tray : Node)
deriving DecidableEq, Repr

/-- An outstanding request of the device's own, by node and TAG. -/
structure DevReq where
  node : Node
  tag : W32
  write : Bool
  addr : Nat
  owner : DevFor
deriving DecidableEq, Repr

/-! ## Lenders, recalls, windows, flash trays (R58 to R69) -/

/-- A RECALL in progress (R62). -/
structure Recall where
  id : Nat
  rx : Rx
  first : Nat
  count : Nat
  /-- The extents that have not left the range. -/
  todo : List ExtKey
  lost : W32 := 0
deriving DecidableEq, Repr

/-- A Stream Window (R59, R60). -/
structure Window where
  pen : BitVec 12
  handle : W32
  /-- The extent number of layer 0, in the region Pen's table. -/
  ext : ExtKey
  stride : Nat
  layers : Nat
  depth : Nat
  wrap : Bool
  front : Nat := 0
  /-- Layers being staged or staged, and layers marked for discard. -/
  staged : List Nat := []
  marked : List Nat := []
deriving DecidableEq, Repr

/-- A block of a staged image: its stored bytes and its side descriptor. -/
structure Staged where
  window : W32
  layer : Nat
  block : Nat
  bytes : List Byte
deriving DecidableEq, Repr

/-- A write gathered for a flash page (R67): the unit, its stored bytes, and the access that waits for durability. -/
structure UnitWrite where
  unit : Nat
  bytes : List Byte
  cipher : List Byte
  job : Option Nat
deriving DecidableEq, Repr

/-- A page being programmed: its writes with the slots they take, and the WRITEs not answered. -/
structure Page where
  writes : List (UnitWrite × W32)
  unacked : List W32
deriving DecidableEq, Repr

/-- A flash tray's translation layer as the device keeps it (R65 to R69). -/
structure Tray where
  mounted : Bool := false
  /-- It has been mounted since the last boot (R442). -/
  seen : Bool := false
  shed : ShedIx := 0
  /-- The map: unit and slot; an unlisted unit is unmapped, 0xFFFF_FFFE is poisoned. -/
  map : Assoc Nat W32 := []
  blocks : List EraseBlock := []
  /-- The erase block that takes new data, and its next slot. -/
  openBlk : Option Nat := none
  slotNo : Nat := 0
  /-- The model's own count of erase blocks opened. -/
  opens : Nat := 0
  seq : W32 := 0
  journal : List FtlRecord := []
  checkpoints : List Checkpoint := []
  /-- Writes gathered in the Loft, and pages being programmed. -/
  gather : List UnitWrite := []
  pages : List Page := []
  /-- The AON hour that the tray was last refreshed for (R66). -/
  hour : W32 := 0
  /-- The refresh scan of R450 has covered the tray. -/
  scanned : Bool := false
deriving DecidableEq, Repr

/-- The pool's state. Unlisted extents are unallocated. -/
structure Pool where
  exts : Assoc ExtKey Extent := []
  dir1 : Assoc (BitVec 12 × BitVec 12) DirEntry := []
  dir2 : Assoc (BitVec 12 × BitVec 24) DirEntry := []
  /-- The Extent Translation Caches: their leaf entries, least recently used last (R36). -/
  etc : Assoc ShedIx (List ExtKey) := []
  /-- Descriptor planes, by Pen and block number; an unlisted block of a COMP extent is RAW with CLEN 4,096. -/
  desc : Assoc (BitVec 12 × Nat) W32 := []
  scrubs : List Scrub := []
  migs : List Migration := []
  migCmds : List MigCmd := []
  allocs : List AllocCmd := []
  jobs : List Job := []
  nextJob : Nat := 0
  devReqs : List DevReq := []
  /-- Frames that lenders have offered (R61), by their number in the lender's memory. -/
  lent : Assoc Node (List Nat) := []
  recalls : List Recall := []
  nextRecall : Nat := 0
  windows : Assoc W32 Window := []
  images : List Staged := []
  trays : Assoc Node Tray := []
deriving DecidableEq, Repr

/-! ## Regions, leases, invalidations (chapter 4) -/

/-- A region (R110 to R114). A version's map lists logical blocks with the block they name; an unlisted one is zero. -/
structure Region where
  size : Nat
  latest : W32 := 0
  retired : Bool := false
  creator : ChanIx
  versions : Assoc W32 (Assoc Nat Nat) := []
  readers : List Node := []
  broadcast : Bool := false
deriving DecidableEq, Repr

/-- A publication, a creation or a retirement at its region home Shed, in the order of arrival (R114, R115). -/
structure Pub where
  reply : Reply
  pen : BitVec 12
  region : W32
  retire : Bool := false
  create : Bool := false
  base : W32 := 0
  drafts : List (BitVec 35) := []
  /-- A draft's address lies outside the address space. -/
  beyond : Bool := false
  changes : List (Nat × Nat) := []
  /-- Drafts not yet sealed, once the publication has passed its checks. -/
  todo : List (BitVec 35) := []
  started : Bool := false
deriving DecidableEq, Repr

/-- A handle (R119, R122): the Pen it belongs to, and the region's Pen, the same unless it is granted. -/
structure Handle where
  pen : BitVec 12
  rpen : BitVec 12
  region : W32
  version : W32
  holder : ChanIx
  /-- Open for new requests. -/
  isOpen : Bool := true
  /-- A Stream Window holds it (R59). -/
  window : Bool := false
  /-- Its granting Pen has been closed (R122). -/
  void : Bool := false
deriving DecidableEq, Repr

/-- A lease's state (R125). -/
inductive LeaseSt where
  | active | grace | revoked
deriving DecidableEq, Repr

/-- A lease record (R123). Its duration is in ms. -/
structure Lease where
  st : LeaseSt := .active
  dur : Nat
  /-- Late renewals (R125). -/
  late : W32 := 0
deriving DecidableEq, Repr

/-- An invalidation in progress (R129): the writer's packet and the readers that have not answered, each with the TAG
of the INVALIDATE sent to it. -/
structure Inval where
  id : Nat
  rx : Rx
  waiting : List Node
  slow : Bool := false
deriving DecidableEq, Repr

/-- What waits for a home slot's rebuild or for the control area (R15, R38). -/
inductive Waiting where
  | cmx (op : BitVec 8) (rx : Rx)
  | cmd (i : Instr) (reply : Reply)
  /-- An aperture access, translated by its entry (R425); a write carries its bytes. -/
  | apr (fn : FnIx) (pen : BitVec 12) (keyId : BitVec 8) (addr : BitVec 56) (len : Nat) (data : Option (List Byte))
deriving DecidableEq, Repr

/-- The sharing state: regions, handles, leases, invalidations. -/
structure Share where
  regions : Assoc (BitVec 12 × W32) Region := []
  pubs : List Pub := []
  handles : Assoc W32 Handle := []
  leases : Assoc (BitVec 12 × Holder) Lease := []
  /-- Durations set for a holder that has no lease record now. -/
  durations : Assoc (BitVec 12 × Holder) Nat := []
  invals : List Inval := []
  slowCnt : W32 := 0
  /-- What waits: the slot whose rebuild it waits for, none where it waits for a control block. -/
  waiting : List (Option (Fin 4) × Waiting) := []
deriving DecidableEq, Repr

/-! ## Tables and expanders (chapter 5) -/

/-- A Pen table (R160, R162): 256 code lengths and its generation tag; Bound unless it is Retiring. -/
structure Table where
  lens : List Nat
  tag : BitVec 16
  retiring : Bool := false
  /-- The TABLE_RETIRE that waits. -/
  retire : Option Reply := none
deriving DecidableEq, Repr

/-- A TABLE_BUILD that counts the bytes of extents (R161): the extents to come, the block to be counted next of the first
of them, and the counts so far. -/
structure Build where
  reply : Reply
  pen : BitVec 12
  id : BitVec 3
  todo : List ExtKey
  blk : Nat := 0
  counts : List Nat
  /-- The pool access that reads the block. -/
  job : Option Nat := none
deriving DecidableEq, Repr

/-- A table slot of an expander (R164): the table it holds, the queued blocks bound to it, and a load that runs. -/
structure ExpSlot where
  pen : BitVec 12
  id : BitVec 3
  gen : BitVec 16
  lens : List Nat
  count : Nat := 0
  loading : Bool := false
deriving DecidableEq, Repr

/-- A block queued to an expander: the scratch slot of a Yard or the request of a Gather Unit, its side descriptor, its
stored bytes, and the table slot to which it is bound; a coded block without one waits for a slot. -/
structure ExpBlock where
  slot : Nat
  pen : BitVec 12
  desc : W32
  bytes : List Byte
  bound : Option (Fin 8) := none
deriving DecidableEq, Repr

/-- An expander. `order` lists its table slots, the least recently used first. -/
structure Expander where
  slots : Assoc (Fin 8) ExpSlot := []
  order : List (Fin 8) := [0, 1, 2, 3, 4, 5, 6, 7]
  queue : List ExpBlock := []
deriving DecidableEq, Repr

/-! ## Gather and Filter Units (chapter 7) -/

/-- Who asked for a gather or a filter: a CMX request, or a stream port of a Yard. -/
inductive ReqSrc where
  | cmx (op : BitVec 8) (rx : Rx)
  | port (y : YardRef) (p : Fin 16)
deriving DecidableEq, Repr

/-- What a fetch brings: the element block or the scale block of an index entry, or a block of the index vector. -/
inductive FetchPart where
  | elem | scale | index
deriving DecidableEq, Repr

/-- A fetch: its pool access, its entry, and its block with the side descriptor once it has arrived. -/
structure Fetch where
  job : Nat
  entry : Nat
  part : FetchPart
  data : Option (List Byte × W32) := none
  /-- The tag of the Loft cells that hold the block: a Pen with OWNED set, or OWNED clear (R352). -/
  cell : Option (BitVec 12) := none
deriving DecidableEq, Repr

/-- A TOPK candidate: its value (for EBI the element), its scale word and its index. -/
structure Cand where
  value : Int
  scale : BitVec 16 := 0
  index : Nat
deriving DecidableEq, Repr

/-- A gather or filter (R194 to R210). -/
structure UnitReq where
  id : Nat
  src : ReqSrc
  filter : Bool
  pen : BitVec 12
  cls : BitVec 4
  handle : W32
  step : W32
  session : W32
  desc : List Byte
  /-- The payload after the descriptor. -/
  tail : List Byte
  /-- The Shed whose units may run it; the unit that holds it, none while it waits in the Loft. -/
  shed : ShedIx
  unit : Option UnitIx := none
  /-- It runs; else it is queued in its unit. -/
  running : Bool := false
  /-- It has passed the session check with this session record's slot (R224, R225). -/
  sess : Option Nat := none
  /-- The window front read when it passed station 8 (R198): the address that replaces ELEM_BASE; none: out of range. -/
  front : Option Nat := none
  /-- Entry i is block i: a READ_SEQ port (R250). -/
  seq : Bool := false
  /-- The index entries known, and how many of the vector's blocks have been asked for. -/
  index : List Nat := []
  idxBlocks : Nat := 0
  /-- The next entry to fetch, the next to enter the expander or the filter, and the entries done. -/
  next : Nat := 0
  enq : Nat := 0
  done : Nat := 0
  fetches : List Fetch := []
  /-- Expanded pieces of the entry being put out. -/
  pieces : List (List Byte) := []
  /-- Output not yet packed into a block: element bytes and scale words. -/
  elems : List Byte := []
  scales : List (BitVec 16) := []
  /-- Output elements so far (R147), data packets or blocks put out, and bytes or result entries. -/
  pos : Nat := 0
  packets : Nat := 0
  count : Nat := 0
  sat : Bool := false
  /-- Blocks put out that the stream port has not landed (DEST 3). -/
  port : List (List Byte × W32) := []
  /-- The accesses that write its output to the pool, not ended. -/
  writes : List Nat := []
  /-- Filter: records read, TOPK candidates kept. -/
  records : Nat := 0
  best : List Cand := []
  /-- The status with which it ends once what precedes has been put out. -/
  ending : Option Nat := none
deriving DecidableEq, Repr

/-! ## The Match Table and sessions (chapter 7) -/

/-- A valid row (R212). -/
structure MRow where
  key : BitVec 160
  mask : BitVec 160
  prio : BitVec 16
  pen : BitVec 12
  part : Fin 16
  result : W64
  hits : W32 := 0
  /-- CHECK: the even-parity bits of bytes 0 to 55. -/
  check : BitVec 32 := 0
deriving DecidableEq, Repr

/-- A partition's definition (R211): kind 0 unused, 1 exact, 2 ternary; rows per bank in units of 16. Its first row
follows those of the lower partitions. -/
structure MPart where
  kind : BitVec 2 := 0
  rows16 : Nat := 0
deriving DecidableEq, Repr

/-- A Match Table bank (R211 to R220): its valid rows, and the entries that the Keeper owes it from its shadow copy. A
row is listed by its index within its partition. -/
structure Bank where
  mode : Bool := false
  gap : BitVec 13 := 64
  rows : Assoc (Fin 16 × Nat) MRow := []
  /-- Rows invalidated by a failed check, with the entries to rewrite (R219). -/
  owed : Assoc (Fin 16 × Nat) MRow := []
  /-- The entries of the bank when its island was fenced, not yet rewritten (R220). -/
  lost : List MRow := []
  /-- When a row last failed its check, on the SHC counter in ns (R219). -/
  failedAt : Assoc (Fin 16 × Nat) Nat := []
  /-- Rows mapped onto spare rows, and rows taken out of use. -/
  spared : List (Fin 16 × Nat) := []
  dead : List (Fin 16 × Nat) := []
  /-- The row that the parity scan checks next. -/
  scan : Nat := 0
  srch : W32 := 0
  hit : W32 := 0
  chk : W32 := 0
  evt : BitVec 3 := 0
deriving DecidableEq, Repr

/-- A session record in use (R222); its slot and generation make its id. -/
structure Session where
  gen : Nat
  pen : BitVec 12
  deleting : Bool := false
  /-- The SESSION_DELETE that waits. -/
  reply : Option Reply := none
  /-- The record image: the fields that the device stores and never interprets, with FLAGS and KEY. -/
  image : List Byte
  gatherBytes : W64 := 0
  filterRecords : W64 := 0
  requests : W32 := 0
  lastStep : W32 := 0
deriving DecidableEq, Repr

/-! ## Yards (chapter 8) -/

/-- An accumulator (R229): 64 × 64 elements, row by row, and the exponent F. An empty list is all zero. -/
structure Acc where
  f : Int := 0
  a : List Int := []
deriving DecidableEq, Repr

/-- A task (R259 to R262): its id, the submitting channel, its Pen, its descriptor and its attempt. -/
structure Task where
  id : W32
  chan : ChanIx
  pen : BitVec 12
  desc : List Byte
  attempt : Nat := 1
deriving DecidableEq, Repr

/-- How the stream of a read port ended: the fields of R203 (the status, SAT, the blocks delivered and the bytes or entries
that hold data), or a NACK's FLAGS. -/
inductive StreamEnd where
  | status (code : Nat) (sat : Bool) (packets bytes : Nat)
  | nack (flags : BitVec 16)
deriving DecidableEq, Repr

/-- An open stream port (R248 to R253). -/
structure StrmPort where
  /-- A write port. -/
  out : Bool
  /-- A write port that has been closed: it is kept for its error. -/
  closed : Bool := false
  desc : List Byte
  /-- Read ports: the unit request, the landed slots not yet returned with their blocks and side descriptors, which the task
  does not see yet (R233), the held ones, oldest first, the ring slot that the next block takes, and how the stream
  ended. -/
  req : Option Nat := none
  landed : List (Nat × List Byte × W32) := []
  held : List Nat := []
  ring : Nat := 0
  ended : Option StreamEnd := none
  /-- Write ports: the bytes of the block being filled, the blocks sent, and the FLAGS of the first NACK. -/
  buf : List Byte := []
  /-- The last full block, with its side descriptor, not sent until it is known whether it is the last. -/
  hold : Option (List Byte × W32) := none
  sent : Nat := 0
  err : Option (BitVec 16) := none
deriving DecidableEq, Repr

/-- An MLD or MSLD that waits for the expander (R247): the tile, the scratch slot, and for MSLD the place of its first
scale word in the slot and how many it takes. -/
structure MLoad where
  tile : Fin 4
  slot : Nat
  scale : Option (Nat × Nat) := none
deriving DecidableEq, Repr

/-- A Yard (R229 to R267). An unlisted register is zero; a vector register's 256 bytes, a scale lane's 8 words, a
predicate's 256 bits, a tile's 4,096 bytes and its scale store's 256 words are listed whole. -/
structure Yard where
  s : Assoc (Fin 32) W64 := []
  v : Assoc (Fin 32) (List Byte) := []
  vs : Assoc (Fin 32) (List (BitVec 16)) := []
  p : Assoc (Fin 8) (BitVec 256) := []
  t : Assoc (Fin 4) (List Byte) := []
  ts : Assoc (Fin 4) (List (BitVec 16)) := []
  acc : Assoc (Fin 2) Acc := []
  pc : W64 := 0
  step : W32 := 0
  seed : W64 := 0
  vl : BitVec 12 := 0
  flags : BitVec 8 := 0
  /-- VLMAX of the running task's image. -/
  vlmax : Nat := 0
  /-- Scratch, the side descriptors of its slots, and the Pen of each owned 256 B line (R232, R352). -/
  scratch : Mem := []
  sdesc : Assoc Nat W32 := []
  /-- The Pen whose tables code a slot's block, where it is not the task's: the granting Pen of a granted handle (R122). -/
  sgrant : Assoc Nat (BitVec 12) := []
  tags : Assoc Nat (BitVec 12) := []
  task : Option Task := none
  ports : Assoc (Fin 16) StrmPort := []
  /-- The matrix load that waits for the expander, and whether the instruction at the pc has done the part that precedes
  its wait. -/
  mload : Option MLoad := none
  begun : Bool := false
  testing : Bool := false
  testResult : BitVec 8 := 0
  testRuns : BitVec 16 := 0
  faultStatus : BitVec 16 := 0
  faultCause : BitVec 8 := 0
  faultPc : W64 := 0
deriving DecidableEq, Repr

/-- The tasks that wait in a Shed (R260): those to be re-executed, those submitted, and the Pens in their turns. -/
structure TaskQ where
  redo : List Task := []
  queue : List Task := []
  turn : List (BitVec 12) := []
deriving DecidableEq, Repr

/-- A task stopped by a fault (R265) that waits for its writes to end: its Yard, and the status if it is not run again. -/
structure Stopped where
  task : Task
  yard : YardRef
  status : Nat
  flags : BitVec 8
  pc : W64
deriving DecidableEq, Repr

/-- The units' work: tables, expanders, gathers and filters, the Match Table, sessions, Yards, tasks and programs. -/
structure Work where
  tables : Assoc (BitVec 12 × BitVec 3) Table := []
  builds : List Build := []
  expanders : Assoc ExpRef Expander := []
  reqs : List UnitReq := []
  nextReq : Nat := 0
  parts : Assoc (Fin 16) MPart := []
  banks : Assoc ShedIx Bank := []
  sessions : Assoc Nat Session := []
  /-- The generation that each slot had last (R221). -/
  sessGen : Assoc Nat Nat := []
  yards : Assoc YardRef Yard := []
  /-- Loaded program images, by Pen and program id (R258). -/
  programs : Assoc (BitVec 12 × W32) (List Byte) := []
  taskQs : Assoc ShedIx TaskQ := []
  stopped : List Stopped := []
deriving DecidableEq, Repr

/-! ## Coherent device space (R297 to R308) -/

/-- The state of a line that a cache holds; a line it does not list is I (R300). -/
inductive LineSt where
  | s | e | m
deriving DecidableEq, Repr

/-- A line in a cache: its 128 bytes, the Pen of its tag while OWNED is set, and its poison mark. -/
structure CLine where
  st : LineSt
  data : List Byte
  tag : Option (BitVec 12) := none
  poison : Bool := false
deriving DecidableEq, Repr

/-- A request to a home (R302). -/
inductive CohReq where
  | rdS (c : CacheIx)
  | rdU (c : CacheIx)
  | upg (c : CacheIx)
  | wb (c : CacheIx)
  | evc (c : CacheIx)
  | once (ch : DmaIx)
  | full (ch : DmaIx) (data : List Byte)
  | part (ch : DmaIx) (off : Nat) (data : List Byte)
deriving DecidableEq, Repr

/-- The transaction that runs for a line: the request, the caches that have not answered their snoop, and the line that an
owner has forwarded. -/
structure Txn where
  req : CohReq
  waiting : List CacheIx
  fwd : Option CLine := none
deriving DecidableEq, Repr

/-- A home: the lines of its home cache, the most recently used first, and its registers. -/
structure Home where
  lines : List (BitVec 32) := []
  timeoutUs : BitVec 10 := 10
  reqCnt : W32 := 0
  snoopCnt : W32 := 0
  fwdCnt : W32 := 0
  timeoutCnt : W32 := 0
  poisonCnt : W32 := 0
  tagCnt : W32 := 0
  poisonAddr : W64 := 0
  evt : BitVec 3 := 0
deriving DecidableEq, Repr

/-- Device space. The snoop filter is what the caches hold; a home cache is write-through, so `mem` is both. -/
structure Coh where
  caches : Assoc (CacheIx × BitVec 32) CLine := []
  mem : Mem := []
  tags : Assoc (BitVec 32) (BitVec 12) := []
  poisoned : List (BitVec 32) := []
  busy : Assoc (BitVec 32) Txn := []
  /-- Requests that wait for a busy line, or for a slot's rebuild, in their order of arrival. -/
  queue : List (BitVec 32 × CohReq) := []
  homes : Assoc ShedIx Home := []
  /-- Home slots whose filter is being rebuilt, each with the device-space windows, in pages from a first page, of the
  tasks that ran on the lost Yards (R308). -/
  rebuild : Assoc (Fin 4) (List (Nat × Nat)) := []
deriving DecidableEq, Repr

/-! ## DMA channels (R309 to R320) -/

/-- A channel's state, coded in DMA_CH_STAT. -/
inductive DState where
  | idle | running | waiting | stopped | aborting
deriving DecidableEq, Repr

/-- Where an access of a channel is: in the pool, or at a line of device space. -/
inductive DAcc where
  | pool
  | line (l : BitVec 32)
deriving DecidableEq, Repr

/-- An access of a channel under way: whether it is COMPARE's read of DST, its first byte in a line, and its bytes. -/
structure DAccess where
  place : DAcc
  second : Bool := false
  off : Nat := 0
  len : Nat
deriving DecidableEq, Repr

/-- The instruction in progress: its operation, its fields, its working addresses, the bytes read, the bytes written or
compared, the bytes held in staging, and the read and the write under way. -/
structure DXfer where
  op : Nat
  f : DF
  src : W64
  dst : W64
  read : Nat := 0
  written : Nat := 0
  staging : List Byte := []
  staging2 : List Byte := []
  acc : Option DAccess := none
  wr : Option DAccess := none
deriving DecidableEq, Repr

/-- A DMA channel. -/
structure DCh where
  st : DState := .idle
  prio : BitVec 2 := 0
  pen : BitVec 12 := 0
  chan : ChanIx := 0
  prog : W32 := 0
  mask : W64 := 0
  pc : Nat := 0
  cmpMiss : Bool := false
  cmpOff : Nat := 0
  endStatus : BitVec 16 := 0
  doneBytes : Nat := 0
  byteCnt : W32 := 0
  /-- The working copies of SRC and DST by instruction index, and the remaining counts of the active loops, the outermost
  first. -/
  src : Assoc Nat W64 := []
  dst : Assoc Nat W64 := []
  loops : List (Nat × Nat) := []
  xfer : Option DXfer := none
  /-- The line that a home has given back (RD_ONCE), with its poison mark; whether it has applied the write. -/
  got : Option (List Byte × Bool) := none
  wrote : Bool := false
  /-- The DMA_ABORT that waits. -/
  abort : Option Reply := none
deriving DecidableEq, Repr

/-- A DMA engine. STATE is 0 Ready, 1 Stopping, 2 Stopped. -/
structure DEng where
  st : BitVec 2 := 0
  busErr : Bool := false
  en : Bool := true
  cause : BitVec 4 := 0
  space : BitVec 2 := 0
  addr : W64 := 0
  evt : BitVec 3 := 0
  flags : W64 := 0
  beats : W32 := 0
  /-- For each priority the channel served last, from 0 to 31, and the bytes of its turn (R314). -/
  turns : Assoc (BitVec 2) (Nat × Nat) := []
  /-- The bus error not yet recorded by the Keeper (R316). -/
  pend : Option (BitVec 4 × BitVec 2 × W64) := none
deriving DecidableEq, Repr

/-- The DMA engines, their channels and the loaded programs. -/
structure Dma where
  chs : Assoc DmaIx DCh := []
  engs : Assoc ShedIx DEng := []
  programs : Assoc (BitVec 12 × W32) (List Byte) := []
deriving DecidableEq, Repr

/-! ## Collective groups (chapter 6) -/

/-- A member's state, coded in the group report (R179). -/
inductive MemberSt where
  | admitting | active | evicting | evicted
deriving DecidableEq, Repr

/-- A member of a group with its evidence (R179 to R181). -/
structure Member where
  node : Node
  child : Bool
  st : MemberSt := .active
  score : BitVec 8 := 255
  low : BitVec 8 := 0
  join : W32
  leave : Option W32 := none
  /-- It was evicted with ABANDON (R188). -/
  abandon : Bool := false
  bins : List W32 := []
  /-- Contributions owed and on time in the current score window. -/
  owed : Nat := 0
  ontime : Nat := 0
  /-- Lateness bins of the current window, kept by the reducing Sheds until its end. -/
  fresh : List Nat := []
deriving DecidableEq, Repr

/-- The lanes of an accumulator slot (R176): Fast or Exact blocks of an EBI SUM, the chosen values of an EBI MIN or MAX as
(value, exponent), or integers. -/
inductive Lanes where
  | empty
  | fast (b : List Fast)
  | exact (b : List Exact)
  | chosen (x : List (Int × Int))
  | ints (x : List Int)
deriving DecidableEq, Repr

/-- An open chunk: its reducing Shed and unit, its step and index, its contributions in order of arrival, each the header
of its packet and its lateness in ns, and its accumulator. -/
structure Chunk where
  shed : ShedIx
  unit : UnitIx
  step : W32
  index : Nat
  arrived : List (Rx × Nat) := []
  opened : Nat
  lanes : Lanes := .empty
  sat : Bool := false
  /-- The tag of the Loft cells that hold the lanes: a Pen with OWNED set, or OWNED clear (R352). -/
  cell : Option (BitVec 12) := none
deriving DecidableEq, Repr

/-- A group's state (R189). -/
inductive GroupSt where
  | active | faulted | destroying
deriving DecidableEq, Repr

/-- A collective group (R167, R192): its descriptor with defaults taken, its members, its chunks. -/
structure Group where
  pen : BitVec 12
  chan : ChanIx
  op : Nat
  fmt : Nat
  exact : Bool
  rmode : Nat
  cls : BitVec 4
  chunks : Nat
  start : W32
  window : Nat
  minMembers : Nat
  parent : Node
  lateThr : Nat
  scoreWin : Nat
  evictThr : Nat
  lowWindows : Nat
  evictN : Nat
  keyId : BitVec 8
  evictInt : Nat
  members : List Member
  st : GroupSt := .active
  front : W32
  /-- Reserved slots by Shed and unit (R175). -/
  slots : Assoc (ShedIx × UnitIx) Nat
  opened : List Chunk := []
  /-- Chunks of an inner stage whose partial has gone to the parent: step, index, the parent, and what its
  result answers. -/
  upward : List (W32 × Nat × Node × List Rx) := []
  /-- Completed chunks whose partial waits for an earlier one of its reducing Shed (R174): step, index, the parent, the partial,
  and what its result answers; and the chunk of each slot that goes up next. -/
  waiting : List (W32 × Nat × Node × List Byte × List Rx) := []
  nextUp : Assoc (Fin 4) (W32 × Nat) := []
  /-- Chunks that have completed. -/
  completed : List (W32 × Nat) := []
  /-- The eight counters of the report header. -/
  cnt : List W32 := [0, 0, 0, 0, 0, 0, 0, 0]
  /-- The times, in ns, of the accepted evictions. -/
  evicted : List Nat := []
  /-- The kinds of discard, and saturation (3), seen in this score window. -/
  seen : List Nat := []
  /-- The GROUP_DESTROY that waits. -/
  reply : Option Reply := none
deriving DecidableEq, Repr

/-! ## The block -/

/-- Memory outside the device that the Keeper and the DMA engines reach: through a PCIe function, or at a node. -/
inductive HostKey where
  | fn (f : FnIx)
  | node (n : Node)
deriving DecidableEq, Repr

/-- The state of the block. Unlisted islands, inputs, channels, Pens, units, Lanterns, ports, functions are at
reset. -/
structure State where
  /-- The commands that wait, first in first out. -/
  pending : List Instr := []
  /-- The model's own counter of free values taken so far; no rule of the spec. -/
  fresh : Nat := 0
  /-- Everything the device has sent, oldest first. -/
  out : List Out := []
  /-- KW fields that show what the Keeper's own tables hold and that Keeper firmware has written (R6), by BAR0 offset: the word
  written, and the word that the tables showed then. The written one is read until the tables show another. -/
  kw : Assoc Nat (W32 × W32) := []
  glb : Glb := {}
  isl : Assoc IslandIx Island := []
  power : Power := {}
  shd : Assoc ShedIx ShedCtl := []
  inputs : Assoc (Fin 38) Input := []
  nor : Nor := {}
  jnl : Jnl := {}
  /-- INF_EVT: the input filters' events. -/
  infEvt : BitVec 3 := 0
  fuses : Fuses := {}
  kpr : Keeper := {}
  chans : Assoc ChanIx Channel := []
  pens : Assoc (BitVec 12) Pen := []
  sec : Sec := {}
  dmk : Daymark := {}
  ijn : InputJournal := {}
  units : Assoc (ShedIx × UnitKind × UnitIx) Unit := []
  /-- Loft rows' error times within 24 h, in ns, and the rows mapped to spare rows (R386). -/
  loftErr : Assoc (ShedIx × Nat) (List Nat) := []
  loftMapped : List (ShedIx × Nat) := []
  /-- The times, in ns of the YRD counter, of a Yard's self-test failures at the margin within 24 h (R386). -/
  marginFails : Assoc YardRef (List Nat) := []
  lanterns : Assoc StackIx Lantern := []
  calib : Option CalibRunning := none
  ports : Assoc PortIx Port := []
  partners : Assoc Node Partner := []
  fns : Assoc FnIx Fn := []
  pcieA : PciePort := {}
  pcieB : PciePort := {}
  /-- The size of a VF's BAR2, applied at boot (R424). -/
  vfSize : Nat := 2 ^ 34
  host : Assoc HostKey Mem := []
  pairs : Assoc Node Pair := []
  /-- Nodes without pair state that R86's event has named in the current second of their counter. -/
  strangers : Assoc Node Nat := []
  routes : Routes := {}
  sw : Switch := {}
  /-- The UDP port of CMX, taken from the journal at boot (R73, R109). -/
  udpPort : BitVec 16 := 26448
  near : Near := {}
  pool : Pool := {}
  share : Share := {}
  work : Work := {}
  coh : Coh := {}
  dma : Dma := {}
  groups : Assoc W32 Group := []
deriving DecidableEq, Repr

/-- The machine right after reset: every register at its reset value, nothing pending. -/
def State.reset : State := {}

/-- What a step of the block answers. -/
abbrev Res := Host.Outcome State Fault Refusal

end Sys2Proof.Machine
end

