-- ==== Sys2Proof/Machine/Ops.lean ====
section
/-! DEFINITION. The named operations over the block's registers that many commands share: reading and changing one
entry of an array, islands and homes (R13 to R17), Daymark events (R397, R401), GLB_CAUSE and ALERT_N (R468), free
values, and the configuration journal (R443 to R449). -/

namespace Sys2Proof.Machine

/-! ## One entry of an array -/

/-- A Shed from a number. -/
def shedOf (n : Nat) : ShedIx := Fin.ofNat 4 n

/-- An island from a number. -/
def islNo (n : Nat) : IslandIx := Fin.ofNat 25 n

/-- SHC, YRD and LNI of a Shed, and the NTM island of a stack (R17). -/
def shcOf (sh : ShedIx) : IslandIx := islNo (5 + sh.val)
/-- The YRD island of a Shed. -/
def yrdOf (sh : ShedIx) : IslandIx := islNo (9 + sh.val)
/-- The LNI island of a Shed. -/
def lniOf (sh : ShedIx) : IslandIx := islNo (13 + sh.val)
/-- The NTM island of a stack: stack k of Shed s is in NTM (4s + k) div 2. -/
def ntmOf (st : StackIx) : IslandIx := islNo (17 + st.val / 2)

/-- The Shed that owns an island; none for the device-wide islands (R17). -/
def shedOfIsland (i : IslandIx) : Option ShedIx :=
  if i.val < 5 then none
  else if i.val < 9 then some (shedOf (i.val - 5))
  else if i.val < 13 then some (shedOf (i.val - 9))
  else if i.val < 17 then some (shedOf (i.val - 13))
  else some (shedOf ((i.val - 17) / 2))

/-- The Shed of a port, of a Lantern or of a stack (R406, R404). -/
def portShed (p : PortIx) : ShedIx := shedOf (p.val / 128)
/-- The Shed of a Lantern or of a stack. -/
def stackShed (l : StackIx) : ShedIx := shedOf (l.val / 4)
/-- The Lantern of a port's lane, and the lane (R406). -/
def portLantern (p : PortIx) : StackIx := Fin.ofNat 16 (p.val / 32)
/-- The active lane of a port block. -/
def portLane (p : PortIx) : Fin 32 := Fin.ofNat 32 p.val
/-- The port of a Lantern's lane. -/
def lanePort (l : StackIx) (a : Fin 32) : PortIx := Fin.ofNat 512 (l.val * 32 + a.val)

/-- All Sheds in ascending order. -/
def allSheds : List ShedIx := [0, 1, 2, 3]

def island (s : State) (i : IslandIx) : Island := aGetD s.isl i {}
def modIsland (i : IslandIx) (f : Island → Island) (s : State) : State := { s with isl := aMod s.isl i {} f }
def islRunning (s : State) (i : IslandIx) : Bool := (island s i).state == .running
def islFenced (s : State) (i : IslandIx) : Bool := (island s i).state == .fenced

def input (s : State) (i : Fin 38) : Input := aGetD s.inputs i {}
def modInput (i : Fin 38) (f : Input → Input) (s : State) : State := { s with inputs := aMod s.inputs i {} f }

def chan (s : State) (c : ChanIx) : Channel := aGetD s.chans c {}
def modChan (c : ChanIx) (f : Channel → Channel) (s : State) : State := { s with chans := aMod s.chans c {} f }

def pen (s : State) (p : BitVec 12) : Pen := aGetD s.pens p {}
def modPen (p : BitVec 12) (f : Pen → Pen) (s : State) : State := { s with pens := aMod s.pens p {} f }

def unit (s : State) (sh : ShedIx) (k : UnitKind) (u : UnitIx) : Unit := aGetD s.units (sh, k, u) {}
def modUnit (sh : ShedIx) (k : UnitKind) (u : UnitIx) (f : Unit → Unit) (s : State) : State :=
  { s with units := aMod s.units (sh, k, u) {} f }

def lantern (s : State) (l : StackIx) : Lantern := aGetD s.lanterns l {}
def modLantern (l : StackIx) (f : Lantern → Lantern) (s : State) : State :=
  { s with lanterns := aMod s.lanterns l {} f }

/-- A slice as it is after reset: tuned to its index modulo 4 for an active lane's slice, and spare 32 + k to k. -/
def slice0 (i : Fin 36) : Slice := { lambda := BitVec.ofNat 2 i.val }
def slice (l : Lantern) (i : Fin 36) : Slice := aGetD l.slices i (slice0 i)
def modSlice (i : Fin 36) (f : Slice → Slice) (l : Lantern) : Lantern :=
  { l with slices := aMod l.slices i (slice0 i) f }
/-- The slice that drives an active lane; after reset lane a uses slice a (R405). -/
def laneSlice (l : Lantern) (a : Fin 32) : Fin 36 := aGetD l.map a (Fin.ofNat 36 a.val)

def port (s : State) (p : PortIx) : Port := aGetD s.ports p {}
def modPort (p : PortIx) (f : Port → Port) (s : State) : State := { s with ports := aMod s.ports p {} f }

def shd (s : State) (sh : ShedIx) : ShedCtl := aGetD s.shd sh {}
def modShd (sh : ShedIx) (f : ShedCtl → ShedCtl) (s : State) : State := { s with shd := aMod s.shd sh {} f }

def fnSt (s : State) (f : FnIx) : Fn := aGetD s.fns f {}
def modFn (f : FnIx) (g : Fn → Fn) (s : State) : State := { s with fns := aMod s.fns f {} g }

def sched (s : State) (sh : ShedIx) : Sched := aGetD s.sw.sched sh {}
def modSched (sh : ShedIx) (f : Sched → Sched) (s : State) : State :=
  { s with sw := { s.sw with sched := aMod s.sw.sched sh {} f } }

def portQ (s : State) (p : PortIx) : PortQ := aGetD s.sw.ports p {}
def modPortQ (p : PortIx) (f : PortQ → PortQ) (s : State) : State :=
  { s with sw := { s.sw with ports := aMod s.sw.ports p {} f } }

/-- VOQ v = egress port × 8 + class of a Shed (R274). -/
def voqNo (p : PortIx) (c : Fin 8) : Fin 4096 := Fin.ofNat 4096 (p.val * 8 + c.val)
def voq (s : State) (sh : ShedIx) (v : Fin 4096) : Voq := aGetD s.sw.voqs (sh, v) {}
def modVoq (sh : ShedIx) (v : Fin 4096) (f : Voq → Voq) (s : State) : State :=
  { s with sw := { s.sw with voqs := aMod s.sw.voqs (sh, v) {} f } }

def hostMem (s : State) (k : HostKey) : Mem := aGetD s.host k []
def modHost (k : HostKey) (f : Mem → Mem) (s : State) : State := { s with host := aMod s.host k [] f }

/-- The device sends an output. -/
def emit (o : Out) (s : State) : State := { s with out := s.out ++ [o] }

/-- The next value that the spec leaves open, w bits wide, and the state that has taken it. -/
def takeFree (w : Nat) (s : State) : BitVec w × State := (Config.free w s.fresh, { s with fresh := s.fresh + 1 })

/-- The next choice that the spec leaves open. -/
def takePick (s : State) : Nat × State := (Config.pick s.fresh, { s with fresh := s.fresh + 1 })

/-- One of a list: a free choice where there are several. -/
def takeOne {α : Type} (l : List α) (s : State) : Option α × State :=
  match l with
  | [] => (none, s)
  | [a] => (some a, s)
  | _ => ((l.drop (Config.pick s.fresh % l.length)).head?, { s with fresh := s.fresh + 1 })

/-- A number that is not in use: any such. -/
def freshId (used : List W32) (s : State) : W32 × State :=
  let (c, s) := takeFree 32 s
  if used.contains c then
    ((((List.range (used.length + 1)).map fun i => BitVec.ofNat 32 i).find? fun c => !used.contains c).getD 0, s)
  else (c, s)

/-- The elements of a list at which a measure is least, and those at which it is greatest. -/
def leastBy {α : Type} (f : α → Nat) (l : List α) : List α := l.filter fun a => l.all fun b => decide (f a ≤ f b)
def mostBy {α : Type} (f : α → Nat) (l : List α) : List α := l.filter fun a => l.all fun b => decide (f b ≤ f a)

/-! ## Homes (R13 to R16) -/

/-- home_map[n] (R15). -/
def homeMap (s : State) (n : Fin 4) : ShedIx := shedOf (bitsOf s.glb.homeMap.toNat (2 * n.val + 1) (2 * n.val))

/-- home_map with entry n naming a Shed. -/
def setHomeMap (n : Fin 4) (sh : ShedIx) (s : State) : State :=
  let old := bitsOf s.glb.homeMap.toNat (2 * n.val + 1) (2 * n.val)
  let m : BitVec 8 := BitVec.ofNat 8 (s.glb.homeMap.toNat - old * 4 ^ n.val + sh.val * 4 ^ n.val)
  { s with glb := { s.glb with homeMap := m } }

/-- The fold of R13: `n` times, h xor the two low bits of e, and e shifted right by 2. -/
def foldHome : Nat → Nat → Nat → Nat
  | 0, _, h => h
  | n + 1, e, h => foldHome n (e / 4) (Nat.xor h (e % 4))

/-- The home slot of an extent of a Pen (R13). -/
def extentSlot (p : BitVec 12) (ext : BitVec 35) : Fin 4 := Fin.ofNat 4 (foldHome 18 ext.toNat (p.toNat % 4))

/-- The home slot of a line of the coherent device space (R14). -/
def lineSlot (line : BitVec 32) : Fin 4 := Fin.ofNat 4 (foldHome 18 line.toNat 0)

/-- The home Shed of an extent. -/
def extentHome (s : State) (p : BitVec 12) (ext : BitVec 35) : ShedIx := homeMap s (extentSlot p ext)

/-- A home slot is being rebuilt (R15); a timer homed there is stopped (R16). -/
def slotMoving (s : State) (n : Fin 4) : Bool := s.glb.moving.contains n

/-- The transport slot of a node (R86), and the slot of a lease's holder. -/
def nodeSlot (n : Node) : Fin 4 := Fin.ofNat 4 n.toNat

/-! ## Daymark events (R397, R401) and GLB_CAUSE (R468) -/

/-- An event for the Daymark: queued while DMK_CTL.EN is 1; once the Daymark is Full it counts only in DMK_LOST, and
an event that finds the queue of 1,024 full is dropped and counted (R401). A Frozen Daymark records nothing. -/
def dmkTake (e : DmkEvent) (d : Daymark) : Daymark :=
  if d.en = false ∨ d.frozen then d
  else if d.full then { d with lost := satInc d.lost }
  else if 1024 ≤ d.queue.length then { d with lost := satInc d.lost, lostSince := satInc d.lostSince }
  else { d with queue := d.queue ++ [e] }

/-- An event of the device, offered to its Daymark. -/
def dmkEvent (e : DmkEvent) (s : State) : State := { s with dmk := dmkTake e s.dmk }

/-- A coded event of R398, R458 or chapter 14: its code and the island in which it arose. -/
def coded (code : Nat) (isl : IslandIx) (s : State) : State :=
  dmkEvent { source := 0xFFFFFFFF, code := BitVec.ofNat 16 code, island := BitVec.ofNat 8 isl.val } s

/-- A coded event whose DETAIL names a Pen, a node, a number and an address. -/
def codedD (code : Nat) (isl : IslandIx) (pen node obj addr : Nat) (s : State) : State :=
  dmkEvent { source := 0xFFFFFFFF, code := BitVec.ofNat 16 code, island := BitVec.ofNat 8 isl.val,
             pen := BitVec.ofNat 16 pen, node := BitVec.ofNat 16 node, obj := BitVec.ofNat 32 obj,
             addr := BitVec.ofNat 64 addr } s

/-- The event of a bit of an *_EVT register: its SOURCE is the register's BAR0 offset, its CODE the bit. -/
def evtBit (off bit : Nat) (isl : IslandIx) (s : State) : State :=
  dmkEvent { source := BitVec.ofNat 32 off, code := BitVec.ofNat 16 bit, island := BitVec.ofNat 8 isl.val } s

/-- The event of such a bit whose DETAIL names a Pen, a node, a number and an address. -/
def evtBitD (off bit : Nat) (isl : IslandIx) (pen node obj addr : Nat) (s : State) : State :=
  dmkEvent { source := BitVec.ofNat 32 off, code := BitVec.ofNat 16 bit, island := BitVec.ofNat 8 isl.val,
             pen := BitVec.ofNat 16 pen, node := BitVec.ofNat 16 node, obj := BitVec.ofNat 32 obj,
             addr := BitVec.ofNat 64 addr } s

/-- Shed s's registers begin at BAR0 0x0100_0000 + s × 0x0080_0000 (R459). -/
def shedBase (sh : ShedIx) : Nat := 0x01000000 + sh.val * 0x00800000

/-- A bit vector with a bit set. -/
def orBit {w : Nat} (v : BitVec w) (bit : Nat) : BitVec w := v ||| BitVec.twoPow w bit

/-- A bit of GLB_CAUSE is set, with its Daymark event (R467, R471). -/
def setCause (bit : Nat) (s : State) : State :=
  evtBit 0x8 bit 0 { s with glb := { s.glb with cause := orBit s.glb.cause bit } }

/-- The device drives ALERT_N low: a bit of GLB_CAUSE is 1 (R468), or the boot ROM waits below L0 (R29, R482). -/
def alertLow (s : State) : Bool := s.glb.cause ≠ 0 || s.glb.boot == .rom

def setIslEvt (bit : Nat) (isl : IslandIx) (s : State) : State :=
  evtBit 0x10020 bit isl { s with power := { s.power with islEvt := orBit s.power.islEvt bit } }
def setBrnEvt (bit : Nat) (s : State) : State :=
  evtBit 0x10018 bit 0 { s with power := { s.power with brnEvt := orBit s.power.brnEvt bit } }
def setJnlEvt (bit : Nat) (s : State) : State :=
  evtBit 0x30010 bit 0 { s with jnl := { s.jnl with evt := orBit s.jnl.evt bit } }
def setSecEvt (bit pen : Nat) (s : State) : State :=
  evtBitD 0x2001C bit 2 pen 0 0 0 { s with sec := { s.sec with evt := orBit s.sec.evt bit } }
def setPrtEvt (bit node : Nat) (p : PortIx) (s : State) : State :=
  evtBitD (shedBase (portShed p) + 0x10000 + p.val % 128 * 0x1000 + 0x1C) bit (lniOf (portShed p)) 0 node 0 0
    (modPort p (fun q => { q with evt := orBit q.evt bit }) s)
def setLntEvt (bit : Nat) (l : StackIx) (s : State) : State :=
  evtBit (shedBase (stackShed l) + 0x280000 + l.val % 4 * 0x10000 + 0x10) bit (lniOf (stackShed l))
    (modLantern l (fun q => { q with evt := orBit q.evt bit }) s)
def setShdEvt (sh : ShedIx) (pen obj : Nat) (s : State) : State :=
  evtBitD (shedBase sh + 0xC) 0 (shcOf sh) pen 0 obj 0 (modShd sh (fun q => { q with queueFull := true }) s)
def setSchEvt (bit : Nat) (sh : ShedIx) (s : State) : State :=
  evtBit (shedBase sh + 0x400014) bit (shcOf sh) (modSched sh (fun q => { q with evt := orBit q.evt bit }) s)
def setMbxEvt (bit : Nat) (c : ChanIx) (s : State) : State :=
  evtBitD (0x400000 + c.val * 0x4000 + 0x3C) bit 1 0 0 c.val 0 (modChan c (fun q => { q with evt := orBit q.evt bit }) s)

/-! ## The configuration journal (R443 to R449) -/

/-- The bytes of a record before its CRC, and its value: what the CRC covers (R444). -/
def recCrcBytes (key : W32) (value : List Byte) (seq : W32) : List Byte :=
  toLe 4 key.toNat ++ toLe 2 value.length ++ [0, 0] ++ toLe 4 seq.toNat ++ value

/-- The COMMIT word of a committed record, and COMPLETE and MAGIC of a half (R443, R444). -/
def commitWord : W32 := 0x434D4954
def completeWord : W32 := 0x434F4D50
def halfMagic : W32 := 0x4D4C4A48

/-- A committed record (R444). -/
def mkRec (key : W32) (value : List Byte) (seq : W32) : JRec :=
  { key, value, seq, crc := crc32c (recCrcBytes key value seq), commit := commitWord }

/-- A record applies: its CRC matches and its COMMIT holds its value (R444). -/
def recOk (r : JRec) : Bool := r.crc == crc32c (recCrcBytes r.key r.value r.seq) && r.commit == commitWord

/-- A record's size in the NOR: 32 B and its value padded to a multiple of 16 B. -/
def recSize (r : JRec) : Nat := 32 + (r.value.length + 15) / 16 * 16

/-- A half is valid: MAGIC, CRC and COMPLETE hold their values (R443). -/
def halfValid (h : JHalf) : Bool :=
  !h.erased && h.magic == halfMagic && h.crc == crc32c (toLe 4 h.magic.toNat ++ toLe 4 h.gen.toNat)
    && h.complete == completeWord

/-- A complete half of a generation with records. -/
def mkHalf (gen : W32) (recs : List JRec) : JHalf :=
  { erased := false, magic := halfMagic, gen, crc := crc32c (toLe 4 halfMagic.toNat ++ toLe 4 gen.toNat),
    complete := completeWord, recs }

def activeHalf (s : State) : JHalf := if s.jnl.active then s.nor.half1 else s.nor.half0

/-- The records that a scan applies: it stops at the first without a valid CRC or commit marker (R444). -/
def scanned (h : JHalf) : List JRec := h.recs.takeWhile recOk

/-- The latest committed record of every key, in the order of the last appends, deletions left out (R444, R446). -/
def liveRecs : List JRec → List JRec
  | [] => []
  | r :: rs => if rs.any (fun q => q.key == r.key) then liveRecs rs
               else if r.value.isEmpty then liveRecs rs else r :: liveRecs rs

/-- The used bytes of a half, and the bytes of its live records (JNL_STAT, JNL_LIVE). -/
def halfUsed (h : JHalf) : Nat := 64 + (h.recs.map recSize).sum
def liveBytes (h : JHalf) : Nat := ((liveRecs (scanned h)).map recSize).sum

/-- The journal's value for a key in effect: none where no record applies, or BOOT_SRC is 2 (R436, R448). -/
def jValue (s : State) (key : Nat) : Option (List Byte) :=
  if s.jnl.applied then
    ((liveRecs (scanned (activeHalf s))).find? (fun r => r.key.toNat == key)).map (·.value)
  else none

/-- A setting in effect (R4, R449): the journal's number, or the default. -/
def setting (s : State) (key dflt : Nat) : Nat := ((jValue s key).map leNat).getD dflt

def setActiveHalf (h : JHalf) (s : State) : State :=
  { s with nor := if s.jnl.active then { s.nor with half1 := h } else { s.nor with half0 := h } }

/-- A compaction (R446): the live records go into the other half, which becomes active; the old half is erased. -/
def compact (s : State) : State :=
  let h := activeHalf s
  let new := mkHalf (h.gen + 1) (liveRecs (scanned h))
  let nor := if s.jnl.active then { s.nor with half0 := new, half1 := {} } else { s.nor with half1 := new, half0 := {} }
  coded 0x203 0 (setJnlEvt 1
    { s with nor, jnl := { s.jnl with active := !s.jnl.active, repair := false, compacting := false } })

/-- The bytes of a half. -/
def halfSize : Nat := 8 * 2 ^ 20

/-- The live bytes that would stand after an append. -/
def liveAfter (s : State) (key : W32) (value : List Byte) : Nat :=
  liveBytes { activeHalf s with recs := scanned (activeHalf s) ++ [mkRec key value (s.jnl.gen + 1)] }

/-- An append (R444 to R447): after a compaction where R445 requires one or more than 75 % of the half would be used.
Non-volatile writes are not stopped; callers check NV_LOCK first. -/
def journalAppend (key : W32) (value : List Byte) (s : State) : State :=
  let r := mkRec key value (s.jnl.gen + 1)
  let s := if s.jnl.repair ∨ halfSize * 3 / 4 < halfUsed (activeHalf s) + recSize r then compact s else s
  let h := activeHalf s
  setActiveHalf { h with recs := h.recs ++ [r] }
    { s with jnl := { s.jnl with gen := s.jnl.gen + 1, appendCnt := satInc s.jnl.appendCnt } }

/-- The Keeper's own append: made now, or kept for the resumption of non-volatile writes (R454). -/
def ownAppend (key : W32) (value : List Byte) (s : State) : State :=
  if s.jnl.nvLock then
    setJnlEvt 3 { s with jnl := { s.jnl with own := s.jnl.own ++ [{ key, value }] } }
  else journalAppend key value s

/-- The configuration digest of R371: every journalled record in ascending key order, as key, length and value, the
calibration keys left out. -/
def configBytes (s : State) : List Byte :=
  let recs := (liveRecs (scanned (activeHalf s))).filter fun r => ¬ (0x70000 ≤ r.key.toNat ∧ r.key.toNat ≤ 0x70F91)
  let sorted := recs.mergeSort fun a b => a.key.toNat ≤ b.key.toNat
  (sorted.map fun r => toLe 4 r.key.toNat ++ toLe 4 r.value.length ++ r.value).flatten

/-- A measurement log entry (R371). -/
def logEntry (kind pen : Nat) (value : W32) (dig : BitVec 512) (s : State) : State :=
  let seq := match s.sec.log.getLast? with | some l => leAt l 4 4 + 1 | none => 0
  let e := [BitVec.ofNat 8 kind, 0] ++ toLe 2 pen ++ toLe 4 seq ++ toLe 4 value.toNat ++ [0, 0, 0, 0]
    ++ bytesOf dig
  { s with sec := { s.sec with log := s.sec.log ++ [e] } }

/-- The configuration entry that follows a change of the journal (R371). -/
def logConfig (s : State) : State := logEntry 3 0 s.jnl.gen (Config.digest (configBytes s)) s

/-! ## Ports and partners -/

/-- A port's link is up (PRT_STAT.LINK reads 2). -/
def linkUp (s : State) (p : PortIx) : Bool := (port s p).link == 2

/-- A port carries data: its link is up and it is not suppressed (R422). -/
def portUsable (s : State) (p : PortIx) : Bool := linkUp s p && !(port s p).suppressed

/-- The number of lanes of a port's width (R411). -/
def lanesOf (w : BitVec 2) : Nat := if w = 0 then 1 else if w = 1 then 2 else 4

/-- A port's rate in Mb/s (R411). -/
def portRate (s : State) (p : PortIx) : Nat := 400000 * lanesOf (port s p).width

/-- The ports that are the first lane of their group and so carry a port of their own. -/
def isMember (s : State) (p : PortIx) : Bool :=
  let first (n : Nat) : PortIx := Fin.ofNat 512 (p.val / n * n)
  (p.val % 2 ≠ 0 && lanesOf (port s (first 2)).width == 2)
    || (p.val % 4 ≠ 0 && lanesOf (port s (first 4)).width == 4)

/-- The LOCAL node of a map: the device's own node id (R270). -/
def localNode (s : State) : Node := ((s.routes.current.nodes.find? (fun e => e.v && e.isLocal)).map (·.node)).getD 0

/-- A node's valid entry in a map. -/
def nodeEntry (m : RouteMap) (n : Node) : Option NodeEntry := m.nodes.find? fun e => e.v && e.node == n

/-- A partner that is admitted now. -/
def admitted (s : State) (n : Node) : Bool := ((aGet s.partners n).map (·.state)) == some .admitted

/-- The admitted partners of a role (R388). -/
def partnersOf (s : State) (role : BitVec 3) : List Node :=
  (s.partners.filter fun p => p.2.state == .admitted && p.2.role == role).map (·.1)

end Sys2Proof.Machine
end

