-- ==== Sys2Proof/Machine/Wire.lean ====
section
/-! DEFINITION. The device's own datagrams as they stand on the wire: the CMX header (R76), Ethernet, IP and UDP with their
checksums (R72 to R75, R87, R270, R271), and the rewriting of a routed frame's first bytes (R271). -/

namespace Sys2Proof.Machine

/-! ## Checksums -/

/-- The sum of the 16-bit big-endian words of some bytes. -/
def wordSum : List Byte → Nat
  | a :: b :: rest => a.toNat * 256 + b.toNat + wordSum rest
  | [a] => a.toNat * 256
  | [] => 0

/-- A sum in ones' complement, on 16 bits. -/
def fold16 (n : Nat) : Nat :=
  let a := n % 65536 + n / 65536
  let b := a % 65536 + a / 65536
  b % 65536 + b / 65536

/-- The Internet checksum of some bytes. -/
def netSum (bs : List Byte) : Nat := 65535 - fold16 (wordSum bs)

/-! ## A packet of the device -/

/-- The 40 B CMX header of a packet of the device (R76). -/
def pktHdr (src : Node) (seq : W32) (p : Pkt) : List Byte :=
  [0x10 ||| p.htype.setWidth 8, p.op] ++ toBe 2 p.flags.toNat ++ toBe 2 (p.pen.toNat * 16 + p.cls.toNat)
    ++ toBe 2 src.toNat ++ toBe 4 seq.toNat ++ toBe 2 p.epoch.toNat ++ toBe 2 p.length.toNat
    ++ toBe 8 (p.addr.toNat * 256 + p.keyId.toNat) ++ toBe 4 p.group.toNat ++ toBe 4 p.step.toNat
    ++ toBe 4 p.handle.toNat ++ toBe 4 p.tag.toNat

/-- The UDP header with a checksum. -/
def udpHdr (w : Wrap) (len sum : Nat) : List Byte := toBe 2 w.sport.toNat ++ toBe 2 w.dport.toNat ++ toBe 2 (8 + len) ++ toBe 2 sum

/-- The UDP checksum of a datagram (R74): zero over IPv4; over IPv6 that of RFC 8200, whose value zero is sent as 0xFFFF. -/
def udpSum (w : Wrap) (bytes : List Byte) : BitVec 16 :=
  if w.ipv6 = false then 0
  else
    let n := netSum (toBe 16 w.ipSrc.toNat ++ toBe 16 w.ipDst.toNat ++ toBe 4 (8 + bytes.length) ++ [0, 0, 0, 17]
      ++ udpHdr w bytes.length 0 ++ bytes)
    if n = 0 then 0xFFFF else BitVec.ofNat 16 n

/-- The device's own address in a map: that of the LOCAL entry (R270). -/
def localIp (m : RouteMap) : BitVec 128 := ((m.nodes.find? fun e => e.v && e.isLocal).map (·.ip)).getD 0

/-- What stands around a datagram to a node's entry in a map, on the port by which it leaves. A tagged one has its class as
the priority code point: 7 for an Acknowledgement (R87). -/
def wrapOf (s : State) (m : RouteMap) (e : NodeEntry) (q : PortIx) (cls : BitVec 4) (sport dport : BitVec 16)
    (bytes : Node → List Byte) : Wrap :=
  let src : Node := localNode s
  let w : Wrap := { src, dstMac := e.mac, srcMac := Config.portMac q.val,
                    tag := if e.tagged then some (cls.setWidth 3, e.vid) else none,
                    ipv6 := e.ipv6, dontFragment := !e.ipv6, ipSrc := localIp m, ipDst := e.ip, sport, dport }
  { w with sum := udpSum w (bytes src) }

/-- The frame's bytes from the destination MAC address on. `x` are the fields that no rule gives: the traffic class octet, the
IPv4 identification or the IPv6 flow label, and the TTL or hop limit of a packet that starts here. -/
def wireBytes (w : Wrap) (x : BitVec 64) (bytes : List Byte) : List Byte :=
  let f (hi lo : Nat) : Nat := bitsOf x.toNat hi lo
  let eth := toBe 6 w.dstMac.toNat ++ toBe 6 w.srcMac.toNat
    ++ (match w.tag with | some (pcp, vid) => [0x81, 0x00] ++ toBe 2 (pcp.toNat * 2 ^ 13 + vid.toNat) | none => [])
    ++ toBe 2 (if w.ipv6 then 0x86DD else 0x0800)
  let ip4 (sum : Nat) : List Byte :=
    [0x45] ++ toBe 1 (f 7 0) ++ toBe 2 (28 + bytes.length) ++ toBe 2 (f 23 8) ++ toBe 2 (bitNat w.dontFragment * 2 ^ 14)
      ++ toBe 1 (f 39 32) ++ [17] ++ toBe 2 sum ++ toBe 4 w.ipSrc.toNat ++ toBe 4 w.ipDst.toNat
  let ip6 : List Byte :=
    toBe 4 (6 * 2 ^ 28 + f 7 0 * 2 ^ 20 + f 27 8) ++ toBe 2 (8 + bytes.length) ++ [17] ++ toBe 1 (f 39 32)
      ++ toBe 16 w.ipSrc.toNat ++ toBe 16 w.ipDst.toNat
  eth ++ (if w.ipv6 then ip6 else ip4 (netSum (ip4 0))) ++ udpHdr w bytes.length w.sum.toNat ++ bytes

/-! ## A routed frame (R270, R271) -/

/-- An IP header with one byte changed and, over IPv4, its checksum as the other bytes give it. -/
def ipPatch (l3 : List Byte) (i4 i6 : Nat) (f : Nat → Nat) : List Byte :=
  let put (i : Nat) : List Byte := l3.take i ++ toBe 1 (f (leAt l3 i 1)) ++ l3.drop (i + 1)
  if leAt l3 0 1 / 16 = 6 then put i6
  else
    let h := put i4
    h.take 10 ++ toBe 2 (netSum (h.take 10 ++ [0, 0] ++ (h.take 20).drop 12)) ++ h.drop 12

/-- The first bytes of a frame with the MAC addresses and the tag that it leaves with (R270, R271). -/
def routedHead (f : Frame) (head : List Byte) (oldTags : Nat) : List Byte :=
  let tag := if f.tags = 1 then [0x81, 0x00] ++ toBe 2 (f.pcp.toNat * 2 ^ 13 + bitNat f.dei * 2 ^ 12 + f.vid.toNat) else []
  toBe 6 f.dst.toNat ++ toBe 6 f.src.toNat ++ tag ++ head.drop (12 + 4 * oldTags)

/-- The first bytes with the hop count one lower. -/
def hopHead (tags : Nat) (head : List Byte) : List Byte :=
  head.take (14 + 4 * tags) ++ ipPatch (head.drop (14 + 4 * tags)) 8 7 (fun x => x - 1)

/-- The first bytes with the drop-eligible bit of the tag (R283) and the congestion mark (R290) that the frame leaves with. -/
def markedHead (f : Frame) (dei ce : Bool) : List Byte :=
  let h := if dei then f.head.take 14 ++ toBe 1 (Nat.lor (leAt f.head 14 1) 0x10) ++ f.head.drop 15 else f.head
  let l := 14 + 4 * f.tags
  if ce then
    (if leAt (h.drop l) 0 1 / 16 = 6 then h.take l ++ ipPatch (h.drop l) 1 1 (fun x => Nat.lor x 0x30)
     else h.take l ++ ipPatch (h.drop l) 1 1 (fun x => Nat.lor x 3))
  else h

end Sys2Proof.Machine
end

