-- ==== Sys2Proof/Machine/Send.lean ====
section
/-! DEFINITION. How the device sends: VOQs and their admission (R273 to R276), the choice of a port (R271, R24), the
sender's side of a pair (R84, R89), and the end of a packet's count under its epoch (R102). -/

namespace Sys2Proof.Machine

/-- The cells of 256 B that a frame occupies (R273). -/
def cellsOf (len : Nat) : Nat := (len + 255) / 256

/-- A VOQ's depth in cells (VOQ_DEPTH). -/
def voqDepth (v : Voq) : Nat := (v.frames.map fun f => cellsOf f.len).sum

/-- The bytes of an arriving packet from the destination MAC address to the FCS (R72, R281). -/
def rxLen (p : Rx) : Nat := 14 + 4 * p.l2.vlanTags + (if p.l2.ipv6 then 40 else 20) + 8 + p.l2.udpLen + 4

/-- The packets that are held in their ingress Shed's Loft (R276): for a home slot, for their order, for a unit. Those that
wait for the control area are held in the Loft of their home Shed (R38). -/
def heldPackets (s : State) : List Rx :=
  ((s.share.waiting.filter (·.1.isSome)).filterMap fun w => match w.2 with | .cmx _ rx => some rx | _ => none)
    ++ s.pairs.flatMap (fun p => p.2.held.map (·.rx))
    ++ (s.work.reqs.filter fun q => q.unit.isNone).filterMap fun q => match q.src with | .cmx _ rx => some rx | .port _ _ => none

/-- The class of a frame (R268). -/
def frameClass (s : State) (fr : Frame) : Fin 8 :=
  match fr.cmx with
  | some x => Fin.ofNat 8 x.cls.toNat
  | none => if fr.tags = 1 then Fin.ofNat 8 fr.pcp.toNat else Fin.ofNat 8 (portQ s fr.port).defClass.toNat

/-- The cells of a Shed that frames, held packets and frames that wait for a search (R220) occupy, those in a lossless class's
reservation apart. -/
def usedCells (s : State) (sh : ShedIx) : Nat :=
  ((s.sw.voqs.filter fun p => p.1.1 = sh).map fun p => ((p.2.frames.filter fun f => !f.headroom).map fun f => cellsOf f.len).sum).sum
    + (((heldPackets s).filter fun p => portShed p.port = sh).map fun p => cellsOf (rxLen p)).sum
    + ((s.sw.lofted.filter fun p => portShed p.1.port = sh).map fun p => cellsOf p.1.len).sum

/-- The cells that the lossless ports and classes of a Shed reserve (R288). -/
def reservedCells (s : State) (sh : ShedIx) : Nat :=
  ((s.sw.ports.filter fun p => portShed p.1 = sh).map fun p =>
    ((List.range 8).filter fun c => p.2.pfcMask.getLsbD c).length * ((sched s sh).headroom.toNat * 4)).sum

/-- The free cells of a Shed's VOQ buffer (LFT_STAT.FREE, R273). -/
def freeCells (s : State) (sh : ShedIx) : Nat := (sched s sh).bootMib * 4096 - usedCells s sh - reservedCells s sh

/-- α × free cells (LFT_CFG.ALPHA): ½, 1, 2 or 4. -/
def alphaTimes (a : BitVec 2) (n : Nat) : Nat := if a = 0 then n / 2 else if a = 1 then n else if a = 2 then 2 * n else 4 * n

/-- The VOQ limit of R275 in cells: min(VOQ_MAX, α × free cells); VOQ_MAX counts 64 KiB, at most 2,048 of them. -/
def voqLimit (s : State) (sh : ShedIx) : Nat :=
  let c := sched s sh
  min (min c.voqMax.toNat 2048 * 256) (alphaTimes c.alpha (freeCells s sh))

/-- R275: the Shed has free cells for the reservation, and the VOQ's depth with it is within the limit, for a yellow
frame its depth alone within half the limit as well. -/
def admits (s : State) (sh : ShedIx) (v : Fin 4096) (reserve : Nat) (yellow : Bool) : Bool :=
  let d := voqDepth (voq s sh v)
  decide (reserve ≤ freeCells s sh) && decide (d + reserve ≤ voqLimit s sh)
    && (!yellow || decide (2 * d ≤ voqLimit s sh))

/-- A packet admitted under an epoch is finished (R102); the count of an epoch whose map has retired is gone. -/
def finishEpoch (e : BitVec 16) (s : State) : State :=
  let r := s.routes
  if e = r.current.epoch then { s with routes := { r with inflight := r.inflight - 1 } }
  else if (r.previous.map (·.epoch)) = some e then { s with routes := { r with inflightPrev := r.inflightPrev - 1 } }
  else s

/-- A packet is admitted under an epoch (R100). -/
def admitEpoch (e : BitVec 16) (s : State) : State :=
  let r := s.routes
  if e = r.current.epoch then { s with routes := { r with inflight := r.inflight + 1 } }
  else { s with routes := { r with inflightPrev := r.inflightPrev + 1 } }

/-- The end of a frame that carries the mark of R102. -/
def finishFrame (f : QFrame) (s : State) : State :=
  match f.fin with
  | some e => finishEpoch e s
  | none => s

/-- A frame counts as dropped in its VOQ's VOQ_DROP_CNT. -/
def countDrop (sh : ShedIx) (v : Fin 4096) (s : State) : State := modVoq sh v (fun q => { q with drop := satInc q.drop }) s

/-- A frame fails R275: counted in VOQ_DROP_CNT and SCH_BUF_DROP_CNT, with BUF_DROP in SCH_EVT. -/
def dropFrame (sh : ShedIx) (v : Fin 4096) (f : QFrame) (s : State) : State :=
  finishFrame f (setSchEvt 0 sh (modSched sh (fun c => { c with bufDrop := satInc c.bufDrop }) (countDrop sh v s)))

/-! ## Priority flow control (R288) -/

/-- The frames that an ingress port and class hold in the port's Shed. -/
def ingressFrames (s : State) (p : PortIx) (c : Fin 8) : List QFrame :=
  (s.sw.voqs.filter fun v => v.1.1 = portShed p ∧ v.1.2.val % 8 = c.val).flatMap fun v => v.2.frames.filter fun f => f.ingress = some p

/-- The cells that an ingress port and class hold, held packets among them. -/
def ingressCells (s : State) (p : PortIx) (c : Fin 8) : Nat :=
  ((ingressFrames s p c).map fun f => cellsOf f.len).sum
    + (((heldPackets s).filter fun r => decide (r.port = p ∧ r.cls.toNat = c.val)).map fun r => cellsOf (rxLen r)).sum
    + ((s.sw.lofted.filter fun x => decide (x.1.port = p ∧ frameClass s x.1 = c)).map fun x => cellsOf x.1.len).sum

/-- A lossless class is paused at XOFF, and released at XON. -/
def pfcClass (p : PortIx) (s : State) (c : Fin 8) : State :=
  let q := portQ s p
  let n := ingressCells s p c
  let g := sched s (portShed p)
  if q.xoff.getLsbD c.val then
    if n ≤ g.xon.toNat * 4 ∨ q.pfcMask.getLsbD c.val = false then
      emit (.pfc p c 0) (modPortQ p (fun q => { q with xoff := q.xoff &&& ~~~ (BitVec.twoPow 8 c.val) }) s)
    else s
  else if q.pfcMask.getLsbD c.val ∧ g.xoff.toNat * 4 ≤ n then
    emit (.pfc p c 0xFFFF) (modPortQ p (fun q => { q with xoff := orBit q.xoff c.val }) s)
  else s

def classes : List (Fin 8) := [0, 1, 2, 3, 4, 5, 6, 7]

/-- Every lossless class of every port whose counts may have changed. -/
def pfcSettle (s : State) : State :=
  ((s.sw.ports.filter fun p => (p.2.pfcMask ||| p.2.xoff) ≠ 0).map (·.1)).foldl (fun s p => classes.foldl (pfcClass p) s) s

/-- The Sheds that hold a frame of a port and class. -/
def requesters (s : State) (p : PortIx) (c : Fin 8) : List ShedIx := allSheds.filter fun sh => !(voq s sh (voqNo p c)).frames.isEmpty

/-- A class that has no request left has no deficit (R281). -/
def clearDeficits (s : State) : State :=
  { s with sw := { s.sw with ports := s.sw.ports.map fun x =>
      (x.1, { x.2 with deficit := x.2.deficit.map fun d => if (requesters s x.1 d.1).isEmpty then (d.1, 0) else d }) } }

/-- A frame joins the tail of a VOQ (R274). -/
def pushVoq (sh : ShedIx) (v : Fin 4096) (f : QFrame) (s : State) : State :=
  modVoq sh v (fun q => { q with frames := q.frames ++ [f] }) s

/-- A frame of the device's own is admitted to the VOQ of its egress port, or dropped (R275). -/
def enqueueOwn (p : PortIx) (c : Fin 8) (f : QFrame) (s : State) : State :=
  let sh := portShed p
  let v := voqNo p c
  if admits s sh v (cellsOf f.len) false then pushVoq sh v f s else dropFrame sh v f s

/-- PORT[h mod NPORTS] of an entry, the ports that are down skipped, the next index taken (R271). -/
def pickPort (s : State) (e : NodeEntry) (h : Nat) : Option PortIx :=
  let n := e.ports.length
  let order := (List.range n).filterMap fun i => e.ports[(h + i) % n]?
  order.find? (portUsable s)

/-- The port of R24: one of the entry's ports in the sending unit's own Shed whenever such a port is up. -/
def pickPortIn (s : State) (e : NodeEntry) (h : Nat) (own : Option ShedIx) : Option PortIx :=
  match own with
  | none => pickPort s e h
  | some sh =>
    match pickPort s { e with ports := e.ports.filter fun p => portShed p = sh } h with
    | some p => some p
    | none => pickPort s e h

/-- The bytes of a CMX packet of the device from the destination MAC address to the FCS (R72, R281). -/
def ownLen (e : NodeEntry) (p : Pkt) : Nat :=
  14 + (if e.tagged then 4 else 0) + (if e.ipv6 then 40 else 20) + 8 + 40 + p.payload.length + 4

/-- The UDP source port of a packet of the device (R73). DESIGN CHOICE: a packet that names neither an extent nor a group (a
packet of a stream, a request to a tray, an Acknowledgement, a Hello) is hashed by its PEN and ADDR fields (log 165). -/
def srcPort (p : Pkt) : Nat :=
  49152 + (Config.portHash p.pen (if p.op = 0x20 ∨ p.op = 0x21 then p.group.toNat else p.addr.toNat / 2 ^ 21)).toNat

/-- How a packet of the device travels: the last response to a request of an epoch (R102), the Shed of the Yard or the Gather
Unit that sends it (R24), and for which port or request that is. -/
structure Via where
  fin : Option (BitVec 16) := none
  own : Option ShedIx := none
  whose : Option PktFor := none
deriving DecidableEq, Repr

/-- Packets of the device that answer a request (R82): LEND_OFFER and RECALL do where REPLY is set. -/
def isReply (p : Pkt) : Bool :=
  p.op == 0x02 || p.op == 0x04 || p.op == 0x09 || p.op == 0x11 || p.op == 0x21 || p.op == 0x29 || p.op == 0x31 || p.op == 0x41
    || p.op == 0x48 || ((p.op == 0x44 || p.op == 0x45) && p.flags.getLsbD 2)

/-- The map that a packet of the device follows: a response that of its epoch while that map is alive (R100, R102), any other
packet the current map (R271). -/
def mapFor (s : State) (p : Pkt) : RouteMap :=
  match s.routes.previous with
  | some m => if m.epoch = p.epoch ∧ isReply p then m else s.routes.current
  | none => s.routes.current

/-- The packet is put on its way to a node's port by its map (R271); a node without an entry counts NO_ROUTE
(R103), a node whose ports are all down LINK_DOWN. DESIGN CHOICE: so does a response that the previous map gives no route,
since nothing is NACKed in answer to a response (R101, log 167). -/
def route (dst : Node) (seq : W32) (p : Pkt) (via : Via) (s : State) : State :=
  let done (s : State) : State := match via.fin with | some e => finishEpoch e s | none => s
  match nodeEntry (mapFor s p) dst with
  | none => done { s with routes := { s.routes with noRoute := satInc s.routes.noRoute } }
  | some e =>
    match pickPortIn s e (srcPort p) via.own with
    | none => done { s with routes := { s.routes with linkDown := satInc s.routes.linkDown } }
    | some q => enqueueOwn q (Fin.ofNat 8 p.cls.toNat)
        { body := .own dst seq p (wrapOf s (mapFor s p) e q p.cls (BitVec.ofNat 16 (srcPort p)) s.udpPort
            fun src => pktHdr src seq p ++ p.payload),
          len := ownLen e p, ingress := none, ect := true, fin := via.fin } s

/-- The pair of a node changed by a function, where one exists. -/
def modPair (n : Node) (f : Pair → Pair) (s : State) : State := { s with pairs := aAdjust s.pairs n f }

/-- The outstanding limit of a pair: the smallest of 2,048, the peer's MAX_OUT and the permitted count (R84, R91). -/
def pairLimit (p : Pair) : Nat := min (min 2048 p.maxOut) p.window

/-- A Sequenced packet is sent to a node: numbered and kept until acknowledged, or kept back while the pair's limit of
outstanding packets is reached (R84). Without pair state nothing is sent (R86). -/
def sendVia (dst : Node) (p : Pkt) (via : Via) (s : State) : State :=
  match aGet s.pairs dst with
  | none => match via.fin with | some e => finishEpoch e s | none => s
  | some pr =>
    if pairLimit pr ≤ pr.unacked.length then
      modPair dst (fun q => { q with
        backlog := q.backlog ++ [{ pkt := p, fin := via.fin.isSome, own := via.own, whose := via.whose }] }) s
    else
      route dst pr.txNext p via
        (modPair dst (fun q => { q with
          txNext := q.txNext + 1, unacked := q.unacked ++ [{ seq := pr.txNext, pkt := p, own := via.own }] }) s)

/-- A Sequenced packet sent to a node. -/
def send (dst : Node) (p : Pkt) (s : State) : State := sendVia dst p {} s

/-- Kept back packets are sent while the pair's limit allows it; at most `n` of them. -/
def drainBacklog (dst : Node) : Nat → State → State
  | 0, s => s
  | n + 1, s =>
    match aGet s.pairs dst with
    | none => s
    | some pr =>
      match pr.backlog with
      | [] => s
      | k :: rest =>
        if pairLimit pr ≤ pr.unacked.length then s
        else drainBacklog dst n (sendVia dst k.pkt { fin := if k.fin then some k.pkt.epoch else none, own := k.own }
              (modPair dst (fun q => { q with backlog := rest }) s))

/-- A packet waits for its pair's limit on behalf of a request or a stream port. -/
def keptFor (s : State) (w : PktFor) : Bool := s.pairs.any fun p => p.2.backlog.any fun k => k.whose == some w

/-- The packets that wait so are not sent (R227). -/
def dropKept (w : PktFor) (s : State) : State :=
  { s with pairs := s.pairs.map fun p => (p.1, { p.2 with backlog := p.2.backlog.filter fun k => ¬ k.whose = some w }) }

/-- An Acknowledgement of a pair (R87): S in SEQ, the selective bitmap in TAG, CE_ECHO in FLAGS, class 7. -/
def selBitmap (pr : Pair) : W32 :=
  pack ((List.range 32).map fun i => (i, bitNat (pr.rxSel.contains (pr.rxCum + 2 + BitVec.ofNat 32 i))))

/-- The device acknowledges a pair's arrivals (R87). -/
def sendAck (n : Node) (s : State) : State :=
  match aGet s.pairs n with
  | none => s
  | some pr =>
    let p : Pkt := { htype := 1, op := 0, flags := if pr.ceEcho then 0x200 else 0, cls := 7,
                     epoch := s.routes.current.epoch, tag := selBitmap pr }
    route n pr.rxCum p {} (modPair n (fun q => { q with arrivals := 0, ceEcho := false }) s)

/-- The pair of a node is declared failed (R89): its queued responses, its requests not begun and its held ones are
discarded with the pair state, and Daymark event 0x0002 is recorded. -/
def dropPair (n : Node) (s : State) : State :=
  clearDeficits <| codedD 0x2 (shcOf (homeMap s (nodeSlot n))) 0 n.toNat 0 0
    { s with pairs := aErase s.pairs n,
             sw := { s.sw with voqs := s.sw.voqs.map fun v =>
               (v.1, { v.2 with frames := v.2.frames.filter fun f =>
                 match f.body with | .own d _ _ _ => ¬ d = n | _ => true }) } }

end Sys2Proof.Machine
end

