-- ==== Sys2Proof/Machine/Notify.lean ====
section
/-! DEFINITION. How the Keeper answers and notifies: outbound doorbells and MSI-X (R331), response slots (R326, R327),
host buffers (R336), notices (R337 to R339, R349), and what a recording or a replay of the Input Journal does with
them (R391, R394). -/

namespace Sys2Proof.Machine

/-- The function that owns a channel: channel c below 128 is function c's (R321). -/
def chanFn (c : ChanIx) : Option FnIx := if c.val < 128 then some (Fin.ofNat 128 c.val) else none

/-- The memory that a channel's addresses reach: its function's, or its peer node's Pen 0 (R336). -/
def chanMem (s : State) (c : ChanIx) : HostKey :=
  match chanFn c with
  | some f => .fn f
  | none => .node (chan s c).peerNode

/-- MSI-X vector b of a function: the message, or the pending bit while the vector's table entry masks it (R331). -/
def raiseMsix (f : FnIx) (b : Fin 64) (s : State) : State :=
  if (aGetD (fnSt s f).msix b {}).masked then
    modFn f (fun g => { g with msix := aMod g.msix b {} (fun e => { e with pending := true }) }) s
  else emit (.msix f b) s

/-- The device sends a peer channel's MBX_DB_OUT as a 4 B WRITE in Pen 0 to PEER_DB_ADDR, when that is set (R333). -/
def peerDoorbell (c : ChanIx) (s : State) : State :=
  let ch := chan s c
  if ch.peerDb = 0 then s
  else send ch.peerNode { op := 0x03, cls := 7, epoch := s.routes.current.epoch, length := 4,
                          addr := ch.peerDb.setWidth 56, payload := toLe 4 ch.dbOut.toNat } s

/-- The message of an outbound bit that has risen unmasked: MSI-X of the owning function, or R333's write to a peer. -/
def dbMessage (c : ChanIx) (b : Fin 64) (s : State) : State :=
  match chanFn c with
  | some f => raiseMsix f b s
  | none => peerDoorbell c s

/-- Outbound bit b of a channel is set; when it becomes 1 unmasked, its message is sent (R331). -/
def setDbOut (c : ChanIx) (b : Fin 32) (s : State) : State :=
  let ch := chan s c
  let s' := modChan c (fun q => { q with dbOut := orBit q.dbOut b.val }) s
  if ch.dbOut.getLsbD b.val ∨ ch.dbOutMask.getLsbD b.val then s' else dbMessage c (Fin.ofNat 64 b.val) s'

/-- The memory a channel reaches holds bytes from an address on: its function's, or its peer node's (R336). -/
def hostWrite (c : ChanIx) (a : Nat) (bs : List Byte) (s : State) : State :=
  let key := chanMem s c
  modHost key (fun m => writeBytes m a bs) s

/-- Bytes read from the memory a channel reaches. -/
def hostRead (s : State) (c : ChanIx) (a n : Nat) : List Byte := readBytes (hostMem s (chanMem s c)) a n

/-- A range of addresses, cut where 4 KiB blocks begin. -/
def peerPieces (a n : Nat) : List (Nat × Nat) :=
  if n = 0 then [] else (List.range ((a % 4096 + n + 4095) / 4096)).map fun i =>
    let lo := max a ((a / 4096 + i) * 4096)
    (lo, min (a + n) ((a / 4096 + i + 1) * 4096) - lo)

/-- A packet by which the Keeper reaches a peer's memory, in Pen 0 (R336). -/
def peerPkt (s : State) (op : BitVec 8) (a n : Nat) (bs : List Byte) : Pkt :=
  { op, cls := 7, epoch := s.routes.current.epoch, length := BitVec.ofNat 16 n, addr := BitVec.ofNat 56 a, payload := bs }

/-- The CMX READs by which the Keeper reads a peer's buffer; a function's memory it reads as bus master (R336). -/
def peerReads (c : ChanIx) (a n : Nat) (s : State) : State :=
  if (chanFn c).isSome then s
  else (peerPieces a n).foldl (fun s x => send (chan s c).peerNode (peerPkt s 0x01 x.1 x.2 []) s) s

/-- The Keeper writes to the memory a channel reaches: a function's as bus master, a peer's with CMX WRITEs (R336). DESIGN
CHOICE: what the peer's memory then holds is held here at once (log 177). -/
def bufWrite (c : ChanIx) (a : Nat) (bs : List Byte) (s : State) : State :=
  let s := hostWrite c a bs s
  if (chanFn c).isSome then s
  else (peerPieces a bs.length).foldl (fun s x =>
    send (chan s c).peerNode (peerPkt s 0x03 x.1 x.2 ((bs.drop (x.1 - a)).take x.2)) s) s

/-! ## The Input Journal's records (R391, R392) -/

/-- A record of the Input Journal: 32 B header, body, padding to a multiple of 32 B. -/
def ijnRecord (seq : W32) (kind : Nat) (chan node : Nat) (time : W64) (body : List Byte) : List Byte :=
  let h := toLe 4 seq.toNat ++ [BitVec.ofNat 8 kind, 0] ++ toLe 2 chan ++ toLe 2 node ++ toLe 4 body.length
    ++ [0, 0] ++ toLe 8 time.toNat ++ toLe 4 (crc32c body).toNat ++ [0, 0, 0, 0]
  padTo ((h.length + body.length + 31) / 32 * 32) (h ++ body)

/-- While recording, a record with a time is appended; one that does not fit ends the recording in state Full (R392). -/
def ijnTake (time : W64) (kind : Nat) (chan node : Nat) (body : List Byte) (j : InputJournal) : InputJournal :=
  let r := ijnRecord (j.records + 1) kind chan node time body
  if j.state ≠ .recording then j
  else if j.area < j.bytes.length + r.length then { j with state := .full }
  else { j with bytes := j.bytes ++ r, records := j.records + 1 }

/-- A record offered to the Input Journal; its time is the Keeper's, a free value. -/
def ijnAppend (kind : Nat) (chan node : Nat) (body : List Byte) (s : State) : State :=
  { s with ijn := ijnTake (Config.free 64 s.fresh) kind chan node body s.ijn,
           fresh := if s.ijn.state = .recording then s.fresh + 1 else s.fresh }

/-- The first element that satisfies a test, and the list without it. -/
def extract {α : Type} (p : α → Bool) : List α → Option (α × List α)
  | [] => none
  | x :: xs => if p x then some (x, xs) else (extract p xs).map fun r => (r.1, x :: r.2)

/-- The first mismatch of a replay stops it in state diverged, with Daymark event 0x0010 (R394). -/
def diverge (seq expd obsd : W32) (s : State) : State :=
  coded 0x10 1 { s with ijn := { s.ijn with state := .diverged, divSeq := seq, divExp := expd, divObs := obsd } }

/-- A replayed command's response or notice is not posted: its digest meets the recorded one (R394). -/
def observe (d : Digest) (s : State) : State :=
  match extract (fun e => e.kind == d.kind && e.chan == d.chan && e.key == d.key) s.ijn.expected with
  | some (e, rest) =>
    if e.crc = d.crc then { s with ijn := { s.ijn with expected := rest } } else diverge e.seq e.crc d.crc s
  | none => { s with ijn := { s.ijn with observed := s.ijn.observed ++ [d] } }

/-- Commands whose responses a replay does not compare (R394): GET_INFO, GET_HEALTH, SPARE_STATUS, DAYMARK_READ,
INPUT_REPLAY and ATTEST_QUOTE. -/
def notCompared (op : BitVec 16) : Bool := [0x0002, 0x0003, 0x0110, 0x00C1, 0x00C2, 0x00F0].contains op.toNat

/-! ## Responses (R326 to R328) -/

/-- A response slot (R326). -/
def rspSlot (op : BitVec 16) (status : Nat) (tag : W32) (result : List Byte) : List Byte :=
  toLe 2 op.toNat ++ toLe 2 status ++ toLe 4 tag.toNat ++ toLe 4 (min result.length 244) ++ padTo 244 result

/-- A response is posted in the channel's response ring: slot, MBX_RSP_PROD, outbound bit 0; the request is no longer
taken (R326 to R328, R331). A response to a channel that has been reset since is discarded (R334). A replayed command's
response is compared and not posted (R394). -/
def post (r : Reply) (status : Nat) (result : List Byte) (s : State) : State :=
  let ch := chan s r.chan
  if ch.gen ≠ r.gen then s
  else
    let slot := rspSlot r.op status r.tag result
    let take (q : Channel) : Channel := { q with taken := q.taken.erase (r.op, r.tag) }
    if r.replayed then
      let s := modChan r.chan take s
      if s.ijn.state ≠ .replaying ∨ notCompared r.op then s
      else observe { kind := 4, chan := BitVec.ofNat 16 r.chan.val, key := r.tag, crc := crc32c slot } s
    else
      let s := modChan r.chan (fun q => take { q with
        rspRing := writeBytes q.rspRing (256 * (q.rspProd.toNat % 16)) slot, rspProd := q.rspProd + 1 }) s
      ijnAppend 4 r.chan.val 0 (toLe 4 r.tag.toNat ++ toLe 4 (crc32c slot).toNat) (setDbOut r.chan 0 s)

/-- The number of resets that the channel of a request had when the Keeper took it: the first of those taken from its ring, or
one taken now. -/
def askedGen (q : Channel) : Nat := match q.asked with | [] => q.gen | x :: _ => x.gen

/-- The reply that a request on a channel is owed. -/
def replyOf (s : State) (op : Nat) (r : Req) : Reply :=
  { chan := r.chan, gen := askedGen (chan s r.chan), op := BitVec.ofNat 16 op, tag := r.tag, replayed := s.ijn.inject }

/-! ## Notices (R337 to R339, R349) -/

/-- A notice ring is configured on a channel (MBX_STAT.NTC_RING). -/
def hasRing (ch : Channel) : Bool := ch.ringEntries ≠ 0

/-- A notice ring entry (R338). -/
def noticeEntry (n : Notice) (lost : Bool) : List Byte :=
  toLe 2 n.kind.toNat ++ toLe 2 (min n.body.length 496) ++ toLe 4 n.seq.toNat ++ toLe 2 (bitNat lost)
    ++ [0, 0, 0, 0, 0, 0] ++ padTo 496 n.body

/-- There is room in a channel's notice ring. -/
def ringRoom (ch : Channel) : Bool := hasRing ch && decide ((ch.ntcProd - ch.ntcCons).toNat < ch.ringEntries.toNat)

/-- The Keeper writes notice n into entry n mod ENTRIES, then MBX_NTC_PROD, then outbound bit 1 (R338). -/
def writeNotice (c : ChanIx) (n : Notice) (s : State) : State :=
  let ch := chan s c
  let a := ch.ringBase.toNat + 512 * (ch.ntcProd.toNat % ch.ringEntries.toNat)
  let s := bufWrite c a (noticeEntry n ch.ntcLost) s
  setDbOut c 1 (modChan c (fun q => { q with ntcProd := q.ntcProd + 1, ntcLost := false }) s)

/-- Held notices are written while the ring has room; at most `n` of them. -/
def flushNotices (c : ChanIx) : Nat → State → State
  | 0, s => s
  | n + 1, s =>
    let ch := chan s c
    match ch.held with
    | [] => s
    | x :: rest =>
      if ringRoom ch then flushNotices c n (writeNotice c x (modChan c (fun q => { q with held := rest }) s)) else s

/-- Held notices are written once the ring has room: when the receiver advances MBX_NTC_CONS, or a ring is configured. DESIGN
CHOICE: R338 names no time for it where inbound bit 1 is not set (log 178). -/
def flushHeld (c : ChanIx) (s : State) : State := if s.kpr.state = .running then flushNotices c 64 s else s

/-- A notice reaches its channel's mailbox: those held before it are written first, then it is written where the ring has
room, else held, and dropped and counted while 64 are held (R338). A channel whose NOTICE_KINDS does not name the kind receives none (R337). -/
def deliverNotice (c : ChanIx) (kind : BitVec 16) (body : List Byte) (s : State) : State :=
  let ch := chan s c
  if ch.ntcKinds.getLsbD kind.toNat = false then s
  else if s.ijn.state = .replaying then
    observe { kind := 5, chan := BitVec.ofNat 16 c.val, key := kind.setWidth 32, crc := crc32c body } s
  else
    let s := ijnAppend 5 c.val 0 (toLe 2 kind.toNat ++ [0, 0] ++ toLe 4 (crc32c body).toNat) s
    let n : Notice := { kind, seq := ch.ntcSeq, body }
    let s := modChan c (fun q => { q with ntcSeq := q.ntcSeq + 1 }) s
    let s := flushHeld c s
    let ch := chan s c
    if ch.held.isEmpty ∧ ringRoom ch ∧ s.kpr.state = .running then writeNotice c n s
    else if ch.held.length < 64 then modChan c (fun q => { q with held := q.held ++ [n] }) s
    else setMbxEvt 2 c (modChan c (fun q => { q with ntcDrop := satInc q.ntcDrop, ntcLost := true }) s)

/-- A notice of the Keeper's own. -/
def notice (c : ChanIx) (kind : Nat) (body : List Byte) (s : State) : State :=
  deliverNotice c (BitVec.ofNat 16 kind) body s

/-- The mark that a Shed's next notice carries once one has been dropped (R349). -/
def markLost (sh : ShedIx) (c : ChanIx) (s : State) : State :=
  if s.kpr.shedLost.contains sh then
    modChan c (fun q => { q with ntcLost := true }) { s with kpr := { s.kpr with shedLost := s.kpr.shedLost.erase sh } }
  else s

/-- A notice that arises in a Shed: while the Keeper does not run it waits in the Shed's queue of 4,096, beyond which it is
dropped and the next one delivered carries LOST (R349). -/
def shedNotice (sh : ShedIx) (c : ChanIx) (kind : Nat) (body : List Byte) (s : State) : State :=
  if s.kpr.state ≠ .running then
    let q := aGetD s.kpr.shedQ sh []
    if q.length < 4096 then
      { s with kpr := { s.kpr with shedQ := aSet s.kpr.shedQ sh (q ++ [{ chan := c, kind := BitVec.ofNat 16 kind, body }]) } }
    else { s with kpr := { s.kpr with shedLost := sh :: s.kpr.shedLost.erase sh } }
  else notice c kind body (markLost sh c s)

/-- The channel that receives a Pen's notices: the lowest-numbered bound channel with a notice ring, else the
lowest-numbered bound channel (R339). -/
def penChannel (s : State) (p : BitVec 12) : Option ChanIx :=
  let cs := (pen s p).channels.mergeSort fun a b => a.val ≤ b.val
  match cs.find? (fun c => hasRing (chan s c)) with
  | some c => some c
  | none => cs.head?

/-- A notice for a Pen (R339). -/
def penNotice (p : BitVec 12) (kind : Nat) (body : List Byte) (s : State) : State :=
  match penChannel s p with
  | some c => notice c kind body s
  | none => s

/-- A notice to both admin channels. -/
def adminNotice (kind : Nat) (body : List Byte) (s : State) : State := notice 64 kind body (notice 0 kind body s)

end Sys2Proof.Machine
end

