-- ==== Sys2Proof/Machine/Level.lean ====
section
/-! DEFINITION. Service levels (R25 to R29), and the commands that change what they rest on from outside: PCIe links and
resets, supplies, filtered inputs, reference clocks, temperature and power (R374, R381, R410, R423, R429, R453 to R456,
R470, R474, R478, R479). -/

namespace Sys2Proof.Machine

/-! ## The service level (R25, R26) -/

/-- L0's needs: AON, KPR, SEC, the journal, and a PCIe port whose island runs and whose link is up. -/
def level0 (s : State) : Bool :=
  islRunning s 0 && islRunning s 1 && islRunning s 2 && s.jnl.mounted
    && ((islRunning s 3 && s.pcieA.up) || (islRunning s 4 && s.pcieB.up))

/-- A port of a Shed whose link is up. -/
def shedLinkUp (s : State) (sh : ShedIx) : Bool := s.ports.any fun p => portShed p.1 = sh && p.2.link == 2

/-- L1 adds a Shed whose SHC and LNI run, with a port whose link is up. -/
def level1 (s : State) : Bool :=
  allSheds.any fun sh => islRunning s (shcOf sh) && islRunning s (lniOf sh) && shedLinkUp s sh

/-- L2 adds an NTM island of a working Shed, an admitted DRAM tray, or an admitted flash tray that is mounted. -/
def level2 (s : State) : Bool :=
  (allSheds.any fun sh => islRunning s (shcOf sh) &&
      (islRunning s (islNo (17 + 2 * sh.val)) || islRunning s (islNo (18 + 2 * sh.val))))
    || !(partnersOf s 1).isEmpty
    || (partnersOf s 2).any fun n => ((aGet s.pool.trays n).map (·.mounted)) == some true

/-- L3 adds a YRD island of a working Shed. -/
def level3 (s : State) : Bool := allSheds.any fun sh => islRunning s (shcOf sh) && islRunning s (yrdOf sh)

/-- The highest satisfied level: 7 for none, else 0 to 3 (GLB_STAT.SVC_LEVEL, R467). -/
def levelOf (s : State) : BitVec 3 :=
  if level0 s = false then 7 else if level1 s = false then 0 else if level2 s = false then 1
  else if level3 s = false then 2 else 3

/-- Levels in order: none lies below L0. -/
def levelRank (l : BitVec 3) : Nat := if l = 7 then 0 else l.toNat + 1

/-- The level meets what a command needs. -/
def levelMeets (s : State) (need : Nat) : Bool := decide (need + 1 ≤ levelRank s.glb.svc)

/-- The level is evaluated again after a change (R26). When it changes, SVC_LEVEL takes it, Daymark event 0x0001 is
recorded, the admin channels get a LEVEL notice and outbound bit 3, and a fall sets the cause bit that drives ALERT_N.
`isl` and `st` are the notice's bytes 2 and 3. -/
def evalLevelBy (isl st : Byte) (s : State) : State :=
  let old := s.glb.svc
  let new := levelOf s
  if new = old then s
  else
    let s := { s with glb := { s.glb with svc := new } }
    let s := codedD 0x1 1 0 0 new.toNat 0 s
    let s := if levelRank new < levelRank old then setCause 0 s else s
    let body : List Byte := [old.setWidth 8, new.setWidth 8, isl, st]
    setDbOut 64 3 (setDbOut 0 3 (adminNotice 0x9 body s))

/-- The level is evaluated after a change that is not an island's. -/
def evalLevel (s : State) : State := evalLevelBy 0xFF 0xFF s

/-- An island state's code (R18, R470). -/
def islCode (st : IslState) : Nat := match st with | .off => 0 | .starting => 1 | .running => 2 | .fenced => 3

/-! ## PCIe ports (R26, R423, R431) -/

/-- The firmware starts (R437 step 5): the Keeper runs, the image counts as verified, and the measurement log gets its
boot entries (R371). -/
def startFirmware (s : State) : State :=
  let s := { s with glb := { s.glb with boot := .firmware },
                    kpr := { s.kpr with state := .running },
                    sec := { s.sec with verified := true, recovery := false },
                    jnl := { s.jnl with imageReady := false } }
  let s := logEntry 1 0 Config.romVersion Config.romDigest s
  let s := logEntry 2 0 s.jnl.fwVersion (Config.digest s.nor.image) s
  logConfig s

/-- Once L0 is satisfied, the boot ROM goes on to step 5 with a verified image (R29, R437). -/
def bootOn (s : State) : State :=
  if s.glb.boot = .rom ∧ s.jnl.imageReady ∧ level0 s then startFirmware s else s

/-- PCIE_LINK_UP: the link is up, a degraded one records event 0x0108; the level is evaluated, and a boot that waited
for L0 goes on. A port in PERST, or whose island does not run, brings up no link. -/
def execPcieLinkUp (portB : Bool) (degraded : Bool) (s : State) : Res :=
  let isl : IslandIx := if portB then 4 else 3
  let p := if portB then s.pcieB else s.pcieA
  if islRunning s isl = false ∨ p.perst then .next s
  else
    let p := { p with up := true, degraded }
    let s := if portB then { s with pcieB := p } else { s with pcieA := p }
    let s := if degraded then coded 0x108 isl s else s
    .next (bootOn (evalLevel s))

/-- PCIE_LINK_DOWN: the link is down, and the level is evaluated. -/
def execPcieLinkDown (portB : Bool) (s : State) : Res :=
  let s := if portB then { s with pcieB := { s.pcieB with up := false } }
           else { s with pcieA := { s.pcieA with up := false } }
  .next (evalLevel s)

/-- What R334 resets of a channel: indices, doorbells, masks and local keys return to reset, held notices go, the
responses of commands already taken are discarded, and the binding is kept. -/
def resetChannel (c : ChanIx) (s : State) : State :=
  modChan c (fun q => { ({} : Channel) with
    pen := q.pen, bound := q.bound, peerNode := q.peerNode, evt := q.evt, ntcDrop := q.ntcDrop,
    reqRing := q.reqRing, rspRing := q.rspRing, asked := q.asked, gen := q.gen + 1 }) s

/-- The channels whose senders a function-level reset of a function resets: its own, or every channel of the port for a
PF0 (R334). -/
def resetChannelsOf (fn : FnIx) : List ChanIx :=
  if fn.val % 64 = 0 then (List.range 64).map fun i => Fin.ofNat 160 (fn.val + i)
  else [Fin.ofNat 160 fn.val]

/-- The functions that a reset of a function resets: all 64 of its port for a PF0. -/
def resetFnsOf (fn : FnIx) : List FnIx :=
  if fn.val % 64 = 0 then (List.range 64).map fun i => Fin.ofNat 128 (fn.val + i) else [fn]

/-- A function's own state after its reset: aperture table cleared (R427), MSI-X structures and captures at reset. -/
def resetFn (f : FnIx) (s : State) : State :=
  let s := { s with share := { s.share with waiting := s.share.waiting.filter fun w =>
    match w.2 with | .apr g _ _ _ _ _ => ¬ g = f | _ => true } }
  modFn f (fun g => { ({} : Fn) with errCnt := g.errCnt, aprEvt := g.aprEvt }) s

/-- FUNCTION_LEVEL_RESET: R334's channel reset and R427's clearing, for the function, or for the port of a PF0. -/
def execFunctionLevelReset (fn : FnIx) (s : State) : Res :=
  let s := (resetChannelsOf fn).foldl (fun s c => resetChannel c s) s
  .next ((resetFnsOf fn).foldl (fun s f => resetFn f s) s)

/-- PERST of a port: its island and every function of the port are reset, its link is down (R431). -/
def pciePortReset (portB : Bool) (s : State) : State :=
  let pf : FnIx := if portB then 64 else 0
  let s := (resetChannelsOf pf).foldl (fun s c => resetChannel c s) s
  let s := (resetFnsOf pf).foldl (fun s f => resetFn f s) s
  let s := if portB then { s with pcieB := { up := false, degraded := false, perst := true } }
           else { s with pcieA := { up := false, degraded := false, perst := true } }
  let isl : IslandIx := if portB then 4 else 3
  evalLevelBy (BitVec.ofNat 8 isl.val) 0 (modIsland isl (fun q => { q with state := .off, pll := false }) s)

/-- PERST of a port is released: its island starts, once the boot ROM has reached step 3 (R431, R437). -/
def pciePortRelease (portB : Bool) (s : State) : State :=
  let s := if portB then { s with pcieB := { s.pcieB with perst := false } }
           else { s with pcieA := { s.pcieA with perst := false } }
  let isl : IslandIx := if portB then 4 else 3
  if s.jnl.mounted ∧ (island s isl).state = .off then modIsland isl (fun q => { q with state := .starting }) s else s

/-- PCIE_PORT_RESET: PERST of the port is asserted. -/
def execPciePortReset (portB : Bool) (s : State) : Res := .next (pciePortReset portB s)

/-! ## Supplies (R453, R454), temperature and power (R374, R470, R474, R478, R479) -/

/-- A supply sag stops non-volatile writes now (R453). -/
def sagStops (s : State) : Bool := s.power.aonLow || s.power.nvLow

/-- SUPPLY_SAG: a rail below its threshold stops non-volatile writes: NV_LOCK, BRN_STAT, BRN_CNT and the event bit,
Daymark event 0x0200. Later commands that must write the NOR end with NV_LOCKED. -/
def execSupplySag (aonLow nvLow : Bool) (s : State) : Res :=
  if aonLow = false ∧ nvLow = false then .next s
  else
    let p := s.power
    let was := p.aonLow || p.nvLow
    let s := { s with power := { p with aonLow := p.aonLow || aonLow, nvLow := p.nvLow || nvLow, holdoff := false } }
    if was then .next s
    else
      let s := { s with power := { s.power with brnCnt := satInc s.power.brnCnt },
                        jnl := { s.jnl with nvLock := true } }
      .next (coded 0x200 0 (setBrnEvt 0 s))

/-- The Keeper's own appends that a sag kept back are made (R454). -/
def retryOwn (s : State) : State :=
  (s.jnl.own.foldl (fun s a => journalAppend a.key a.value s) { s with jnl := { s.jnl with own := [] } })

/-- SUPPLY_RESUME: both rails have held for 10 ms, non-volatile writes resume and the Keeper retries its own appends.
With BOOT_SRC 2 the journal stays locked (R436). -/
def execSupplyResume (s : State) : Res :=
  if s.power.aonLow = false ∧ s.power.nvLow = false then .next s
  else
    let s := { s with power := { s.power with aonLow := false, nvLow := false, holdoff := false },
                      jnl := { s.jnl with nvLock := s.glb.bootSrc == 2 } }
    let s := coded 0x201 0 (setBrnEvt 1 s)
    .next (if s.jnl.nvLock then s else retryOwn s)

/-- PWR_TJ_UPDATE: PWR_TJ takes the hottest sensor (R470); reaching 100 °C sets THERM once until 95 °C is undercut
(R478); reaching 115 °C latches THERM_TRIP_N (R479). -/
def execPwrTjUpdate (degC : BitVec 8) (s : State) : Res :=
  let t := degC.toNat
  let warn := s.power.thermOn = false ∧ 100 ≤ t
  let s := { s with power := { s.power with
    tj := degC,
    thermOn := if 100 ≤ t then true else if t < 95 then false else s.power.thermOn,
    thermTrip := s.power.thermTrip || decide (115 ≤ t) } }
  .next (if warn then setCause 2 s else s)

/-- PWR_AVG_UPDATE: the second's average, rounded to the nearest 10 W (R374, R470). -/
def execPwrAvgUpdate (milliwatts : Nat) (s : State) : Res :=
  .next { s with power := { s.power with avg := BitVec.ofNat 12 ((milliwatts + 5000) / 10000 * 10) } }

/-- AVSBUS_RETRY: the set point of a Shed that waits is written, or waits on (R474). -/
def execAvsbusRetry (sh : ShedIx) (ok : Bool) (s : State) : Res :=
  if s.power.avsRetry.contains sh && ok then
    .next { s with power := { s.power with avsRetry := s.power.avsRetry.erase sh,
                                           avsSet := s.power.avsSet.erase sh ++ [sh] } }
  else .next s

/-! ## Reference clocks (R381) -/

/-- The PLLs of a Shed's islands move to the other input of the pair; islands stay Running. The move records event 0x000E
and REF_CHANGED. -/
def moveReference (sh : ShedIx) (s : State) : State :=
  let onB := (island s (shcOf sh)).refAlt
  let isls := [shcOf sh, yrdOf sh, lniOf sh, islNo (17 + 2 * sh.val), islNo (18 + 2 * sh.val)]
  let s := isls.foldl (fun s k => modIsland k (fun q => { q with refAlt := !onB }) s) s
  setIslEvt 1 (shcOf sh) (coded 0xE (shcOf sh) s)

/-- The other input of a pair. -/
def pairedRef (i : Fin 8) : Fin 8 := Fin.ofNat 8 (if i.val % 2 = 0 then i.val + 1 else i.val - 1)

/-- An input that has been lost stays lost: the rules name no event for one that comes back. -/
def loseRef (i : Fin 8) (s : State) : State :=
  { s with power := { s.power with refLost := if s.power.refLost.contains i then s.power.refLost else s.power.refLost ++ [i] } }

/-- REFCLK_AON_LOSS: AON, KPR and SEC run on the internal oscillator until the next power-on reset. -/
def execRefclkAonLoss (s : State) : Res :=
  if (island s 0).refAlt then .next s
  else
    let s := [(0 : IslandIx), 1, 2].foldl (fun s k => modIsland k (fun q => { q with refAlt := true }) s) s
    .next (setIslEvt 1 0 (coded 0xE 0 s))

/-! ## Input filters (R455, R456) -/

/-- Journal settings of R457: chatter edge limit. -/
def chatterLimit (s : State) : Nat := setting s 0x20F00 64

def setInfEvt (bit : Nat) (s : State) : State :=
  evtBit 0x30200 bit 0 { s with infEvt := orBit s.infEvt bit }

/-- The Lantern changes to its standby input; R409. -/
def changeLaser (l : StackIx) (s : State) : State :=
  coded 0x101 (lniOf (stackShed l)) (setLntEvt 1 l (modLantern l (fun q => { q with input := !q.input }) s))

/-- A Lantern ignores its ELS_FAULT_N pin from now on (R410). -/
def ignoreEls (l : StackIx) (s : State) : State :=
  coded 0x10A (lniOf (stackShed l)) (modLantern l (fun q => { q with elsIgnored := true }) s)

/-- What a change of an input's presented level does: PERST of a port is asserted or released (R431), ELS_FAULT_N going
low changes the Lantern to its standby input unless the pin is ignored (R409, R410). -/
def onInput (i : Fin 38) (level : Bool) (s : State) : State :=
  if i.val = 1 ∨ i.val = 2 then
    let b := decide (i.val = 2)
    if level then pciePortRelease b s else pciePortReset b s
  else if 6 ≤ i.val ∧ i.val < 22 ∧ level = false then
    let l : StackIx := Fin.ofNat 16 (i.val - 6)
    if (lantern s l).elsIgnored then s else changeLaser l s
  else s

/-- INPUT_LEVEL_ACCEPT: a level stable for 1 µs is accepted; the edge is counted, but for POR_N, and a Normal input
presents it. POR_N low is the power-on reset, a row of its own. -/
def execInputLevelAccept (i : Fin 38) (level : Bool) (s : State) : Res :=
  let q := input s i
  if q.pin = level then .next s
  else
    let s := modInput i (fun q => { q with pin := level, edges := if i.val = 0 then q.edges
                                      else BitVec.ofNat 11 (min 2047 (q.edges.toNat + 1)) }) s
    if q.state = .normal then .next (onInput i level (modInput i (fun q => { q with level }) s)) else .next s

/-- CHATTER_WINDOW_END: an input with more edges than the limit in the window enters Chatter and presents the level it
had before the window; a new window begins. -/
def execChatterWindowEnd (i : Fin 38) (s : State) : Res :=
  let q := input s i
  if i.val ≠ 0 ∧ q.state = .normal ∧ chatterLimit s < q.edges.toNat then
    let s := modInput i (fun q => { q with state := .chatter, level := q.atStart, edges := 0 }) s
    let s := if q.level = q.atStart then s else onInput i q.atStart s
    let s := coded 0x205 0 (setInfEvt 0 s)
    .next (if 6 ≤ i.val ∧ i.val < 22 then ignoreEls (Fin.ofNat 16 (i.val - 6)) s else s)
  else .next (modInput i (fun q => { q with edges := 0, atStart := q.level }) s)

/-- The input presents its current level again: Chatter or Stuck has ended (R455, R456). -/
def returnInput (i : Fin 38) (s : State) : State :=
  let q := input s i
  let s := modInput i (fun q => { q with state := .normal, level := q.pin, atStart := q.pin, edges := 0 }) s
  let s := if 6 ≤ i.val ∧ i.val < 22 then
      modLantern (Fin.ofNat 16 (i.val - 6)) (fun l => { l with elsIgnored := false }) s else s
  let s := if q.level = q.pin then s else onInput i q.pin s
  coded 0x207 0 (setInfEvt 2 s)

/-- CHATTER_QUIET_EXPIRY: 100 ms without an edge end Chatter. -/
def execChatterQuietExpiry (i : Fin 38) (s : State) : Res :=
  if (input s i).state = .chatter then .next (returnInput i s) else .next s

/-- The filtered input of a Lantern's ELS_FAULT_N. -/
def elsInput (l : StackIx) : Fin 38 := Fin.ofNat 38 (6 + l.val)

/-- ELS_STUCK: a pin low for 1 s while the laser power is good becomes Stuck and is ignored (R456, R410). -/
def execElsStuck (l : StackIx) (s : State) : Res :=
  let i := elsInput l
  let q := input s i
  if q.state = .normal ∧ q.pin = false then
    .next (ignoreEls l (coded 0x206 0 (setInfEvt 1 (modInput i (fun q => { q with state := .stuck }) s))))
  else .next s

/-- ELS_STUCK_EXIT: the pin leaves Stuck after it has been high for 1 s. -/
def execElsStuckExit (l : StackIx) (s : State) : Res :=
  let i := elsInput l
  let q := input s i
  if q.state = .stuck ∧ q.pin then .next (returnInput i s) else .next s

end Sys2Proof.Machine
end

