-- ==== Sys2Proof/Machine/Mailbox.lean ====
section
/-! DEFINITION. The mailboxes (R321 to R339): who calls, the checks of R329 and the waiting of requests, and the
commands that touch rings, doorbells, notices and the Keeper's beat; ECHO and GET_INFO (R340). -/

namespace Sys2Proof.Machine

/-! ## Statuses (R346) -/

def stOk : Nat := 0x0
def stBadOpcode : Nat := 0x1
def stBadParam : Nat := 0x2
def stNotPermitted : Nat := 0x3
def stBadBuffer : Nat := 0x4
def stServiceDown : Nat := 0x5
def stPenClosed : Nat := 0x6
def stBusy : Nat := 0x7
def stNoSpace : Nat := 0x8
def stNotFound : Nat := 0x9
def stClassMismatch : Nat := 0xA
def stEpochMismatch : Nat := 0xB
def stStaleBase : Nat := 0xC
def stVersionsFull : Nat := 0xD
def stRegionRetired : Nat := 0xE
def stMinMembers : Nat := 0xF
def stNotEligible : Nat := 0x10
def stEvictRate : Nat := 0x11
def stGroupFaulted : Nat := 0x12
def stAuthFail : Nat := 0x13
def stNvLocked : Nat := 0x14
def stRestarted : Nat := 0x15
def stAborted : Nat := 0x16

/-! ## Callers (R321 to R323) -/

/-- The classes of callers; an unbound VF or peer channel is in none of A, P, F. -/
inductive CallerClass where
  | admin | pen | peer | unbound
deriving DecidableEq, Repr

/-- A channel is an admin channel: 0 or 64. -/
def isAdmin (c : ChanIx) : Bool := c.val = 0 || c.val = 64

/-- The class of a channel's caller (R321, R323). -/
def callerClass (s : State) (c : ChanIx) : CallerClass :=
  if isAdmin c then .admin
  else if (chan s c).bound = false then .unbound
  else if c.val < 128 then .pen else .peer

/-- The Pen on which a Pen-scoped command acts (R323). -/
def actingPen (s : State) (r : Req) : BitVec 12 :=
  match callerClass s r.chan with
  | .pen => (chan s r.chan).pen
  | _ => r.pen.setWidth 12

/-- A row of the command catalogue: opcode, callers, level, defined flags, payload fields as (offset, length), and the
lengths of a host buffer that suit the command. -/
structure Cmd where
  op : Nat
  any : Bool := false
  a : Bool := true
  p : Bool := false
  f : Bool := false
  level : Nat := 0
  flags : Nat := 0
  fields : List (Nat × Nat) := []
  blen : Nat → Bool := fun n => n == 0
  /-- The Pen that check 3 looks up beside the Pen field, for a command that names one in its payload (R364). -/
  named : Req → Option Nat := fun _ => none
  /-- The ranges that check 5 holds beside FLAGS, PLEN and the reserved bytes (R139, R341). -/
  ranges : Req → Bool := fun _ => true

/-- The catalogue names the caller's class (R322, R323). -/
def mayCall (c : Cmd) (k : CallerClass) : Bool :=
  c.any || match k with | .admin => c.a | .pen => c.p | .peer => c.f | .unbound => false

/-- Check 3 of R329 for a named Pen: it exists and is not Closing. -/
def penStatus (s : State) (n : Nat) : Nat :=
  if n = 0 then stOk
  else if 4095 < n then stNotFound
  else match (pen s (BitVec.ofNat 12 n)).state with
    | .free => stNotFound
    | .active => stOk
    | _ => stPenClosed

/-- Check 3 of R329. ECHO, GET_INFO and IDENTITY_GET stay open to the channels of a closing Pen (R351). -/
def checkPen (s : State) (c : Cmd) (r : Req) : Nat :=
  match callerClass s r.chan with
  | .unbound => stOk
  | .pen =>
    if r.pen ≠ (chan s r.chan).pen.setWidth 16 then stNotPermitted
    else if c.op = 0x1 ∨ c.op = 0x2 ∨ c.op = 0xF1 then stOk
    else penStatus s r.pen.toNat
  | _ =>
    let st := penStatus s (r.pen.toNat % 4096)
    if st ≠ stOk then st
    else match c.named r with
      | some n => penStatus s n
      | none => stOk

/-- Every payload byte outside the command's fields is zero, and the payload reaches the end of the fields. -/
def payloadOk (fields : List (Nat × Nat)) (pl : List Byte) : Bool :=
  decide (pl.length ≤ 232) && fields.all (fun f => decide (f.1 + f.2 ≤ pl.length))
    && (List.range pl.length).all fun i =>
      fields.any (fun f => decide (f.1 ≤ i ∧ i < f.1 + f.2)) || (pl.getD i 0) == 0

/-- The opcodes of the catalogue (R339 to R345). -/
def catalogue : List Nat :=
  [0x01, 0x02, 0x03, 0x10, 0x11, 0x12, 0x13, 0x20, 0x21, 0x22, 0x23, 0x30, 0x31, 0x32, 0x33, 0x40, 0x41, 0x50, 0x51, 0x52, 0x53,
    0x60, 0x61, 0x62, 0x70, 0x71, 0x80, 0x81, 0x90, 0x91, 0x92, 0xA0, 0xA1, 0xB0, 0xB1, 0xB2, 0xB3, 0xC0, 0xC1, 0xC2, 0xD0, 0xD1,
    0xD2, 0xE0, 0xE1, 0xF0, 0xF1, 0x100, 0x101, 0x110, 0x111]

/-- Checks 2 to 6 of R329, in order; 0 where all pass. Check 1 is made as a slot is taken from its ring. -/
def requestStatus (s : State) (c : Cmd) (isIn : Bool) (r : Req) : Nat :=
  if s.glb.boot = .recovery ∧ ¬ (c.op = 0x1 ∨ c.op = 0x2 ∨ c.op = 0xF1 ∨ c.op = 0xE0 ∨ c.op = 0xE1) then stServiceDown
  else if mayCall c (callerClass s r.chan) = false then stNotPermitted
  else if checkPen s c r ≠ stOk then checkPen s c r
  else if levelMeets s c.level = false then stServiceDown
  else if r.flags.toNat % 2 ^ 16 - Nat.land r.flags.toNat c.flags ≠ 0 ∨ payloadOk c.fields r.payload = false
       ∨ r.pen.toNat / 4096 ≠ 0 ∨ c.ranges r = false then stBadParam
  else if c.blen r.blen.toNat = false ∨ 64 * 2 ^ 20 < r.blen.toNat ∨ (isIn ∧ r.blen ≠ 0 ∧ r.bufOk = false) then stBadBuffer
  else stOk

/-- The Keeper serves a channel: it runs, or the boot ROM serves the admin channels in recovery (R438). During a replay
the rings of the recorded channels are not served, INPUT_REPLAY excepted (R394). -/
def serves (s : State) (op : Nat) (c : ChanIx) : Bool :=
  (s.kpr.state == .running || (s.glb.boot == .recovery && isAdmin c)) && !(chan s c).ringErr
    && (s.ijn.inject || s.ijn.state != .replaying || op == 0xC2 || !s.ijn.chansFed.contains c)

/-- The answered and unanswered requests of a channel leave room for one more (R328). -/
def hasRoom (ch : Channel) : Bool := decide (ch.taken.length + (ch.rspProd - ch.rspCons).toNat < 16)

/-- A request slot's bytes (R325), for the Input Journal. -/
def reqSlot (op : Nat) (r : Req) : List Byte :=
  toLe 2 op ++ toLe 2 r.flags.toNat ++ toLe 4 r.tag.toNat ++ toLe 2 r.pen.toNat ++ toLe 2 r.payload.length
    ++ toLe 4 r.blen.toNat ++ toLe 8 r.buf.toNat ++ padTo 232 r.payload

/-- A request slot's fields (R325). -/
def slotReq (c : ChanIx) (slot : List Byte) (now : Nat) : Req :=
  { chan := c, flags := fieldLe 16 slot 2 2, tag := fieldLe 32 slot 4 4, pen := fieldLe 16 slot 8 2,
    payload := (slot.drop 24).take (leAt slot 10 2), blen := fieldLe 32 slot 12 4, buf := fieldLe 64 slot 16 8, now }

/-- A request is the one of a slot: every field of R325 agrees. -/
def isSlot (op : Nat) (slot : List Byte) (r : Req) : Bool :=
  let q := slotReq r.chan slot r.now
  leAt slot 0 2 == op && q.flags == r.flags && q.tag == r.tag && q.pen == r.pen && leAt slot 10 2 == r.payload.length
    && q.payload == r.payload.take 232 && q.blen == r.blen && q.buf == r.buf

/-- The contents of a request's In buffer (R336). -/
def inBuf (s : State) (r : Req) : List Byte := hostRead s r.chan r.buf.toNat r.blen.toNat

/-- The KIND 1 record of a taken request (R391); PEN_KEY_INSTALL, FW_STAGE and FW_ACTIVATE go without their buffers. -/
def recordRequest (op : Nat) (isIn : Bool) (r : Req) (s : State) : State :=
  let buf := if isIn ∧ ¬ (op = 0x13 ∨ op = 0xE0 ∨ op = 0xE1) then inBuf s r else []
  ijnAppend 1 r.chan.val 0 (reqSlot op r ++ buf) s

/-- A channel whose request starts: the first of those taken from its ring, which counts already, or one taken now (R328). -/
def startNext (op : Nat) (tag : W32) (q : Channel) : Channel :=
  match q.asked with
  | [] => { q with taken := q.taken ++ [(BitVec.ofNat 16 op, tag)] }
  | _ :: rest => { q with asked := rest }

/-- The Keeper reads a peer's In buffer (R336). -/
def askPeer (isIn : Bool) (r : Req) (s : State) : State :=
  if isIn ∧ callerClass s r.chan = .peer then peerReads r.chan r.buf.toNat r.blen.toNat s else s

/-- The Keeper starts a request: it counts as unanswered (R328), its buffer is read, and it is recorded. -/
def takeRequest (op : Nat) (isIn : Bool) (r : Req) (s : State) : State :=
  recordRequest op isIn r (askPeer isIn r (modChan r.chan (startNext op r.tag) s))

/-- The Keeper starts a request now: it serves the channel, the request is the first of those taken from its ring, or none
waits there and there is room for its response (R328). -/
def takesNow (op : Nat) (r : Req) (s : State) : Bool :=
  serves s op r.chan && match (chan s r.chan).asked with
    | [] => hasRoom (chan s r.chan)
    | x :: _ => isSlot op x.slot r

/-- A mailbox command: taken where the Keeper serves its channel and has room for its response (R328), else it waits in
its ring with no effect; the first failing check of R329 ends it with its status; then its own action runs. -/
def mbx (c : Cmd) (isIn : Bool) (r : Req) (act : Reply → State → State) (s : State) : State :=
  if takesNow c.op r s = false then s
  else if requestStatus s c isIn r = stOk then act (replyOf s c.op r) (takeRequest c.op isIn r s)
  else post (replyOf s c.op r) (requestStatus s c isIn r) [] (takeRequest c.op isIn r s)

/-- A result is written to the Out buffer: one that is too short has no effect on it and names the length needed; a
write that fails ends the command with BAD_BUFFER, its inline result valid (R336). -/
def outTooShort (r : Req) (bytes : List Byte) : Bool := decide (r.blen.toNat < bytes.length)

/-- The answer to an Out buffer that is too short (R336). -/
def tooShort (rep : Reply) (need : Nat) (s : State) : State := post rep stBadBuffer (toLe 4 need) s

/-- The Out buffer written after the effect, and the response (R336). -/
def answerOut (rep : Reply) (r : Req) (bytes result : List Byte) (s : State) : State :=
  if r.bufOk then post rep stOk result (bufWrite r.chan r.buf.toNat bytes s) else post rep stBadBuffer result s

/-! ## Waiting for a moved home (R15) -/

/-- A command that acts on home slots waits while one of them is rebuilt; otherwise it acts. -/
def awaitHome (slots : List (Fin 4)) (i : Instr) (rep : Reply) (act : State → State) (s : State) : State :=
  match slots.find? (slotMoving s) with
  | some n => { s with share := { s.share with waiting := s.share.waiting ++ [(some n, .cmd i rep)] } }
  | none => act s

/-! ## Rings, doorbells and throttling (R327 to R332) -/

/-- The ring indices of a channel are consistent (R327). -/
def ringsOk (ch : Channel) : Bool :=
  decide ((ch.reqProd - ch.reqCons).toNat ≤ 16) && decide ((ch.rspProd - ch.rspCons).toNat ≤ 16)

/-- RING_ERR of MBX_STAT follows the indices, and its event is set when they become inconsistent (R327). -/
def ringCheck (c : ChanIx) (s : State) : State :=
  let ch := chan s c
  let bad := !ringsOk ch
  let s' := modChan c (fun q => { q with ringErr := bad }) s
  if bad ∧ ch.ringErr = false then setMbxEvt 0 c s' else s'

/-- The Keeper takes the next request of a channel's ring, recording its OPCODE and TAG (R328); one outside the catalogue ends
at the first check of R329. -/
def takeNext (s : State) (c : ChanIx) : State :=
  let ch := chan s c
  if ch.ringErr ∨ serves s 0 c = false ∨ ch.reqProd = ch.reqCons ∨ hasRoom ch = false then s
  else
    let slot := readBytes ch.reqRing (256 * (ch.reqCons.toNat % 16)) 256
    let op := leAt slot 0 2
    let r := slotReq c slot 0
    let s := modChan c (fun q => { q with reqCons := q.reqCons + 1, taken := q.taken ++ [(BitVec.ofNat 16 op, r.tag)] }) s
    if catalogue.contains op then modChan c (fun q => { q with asked := q.asked ++ [{ gen := q.gen, slot }] }) s
    else post { chan := c, gen := ch.gen, op := BitVec.ofNat 16 op, tag := r.tag } stBadOpcode [] (recordRequest op false r s)

/-- Turns of the Keeper over channels: one request of each in each turn (R328). -/
def takeTurns (cs : List ChanIx) : Nat → State → State
  | 0, s => s
  | n + 1, s => takeTurns cs n (cs.foldl takeNext s)

/-- Inbound bit 0 is cleared once the Keeper finds the ring empty (R330). -/
def ringEmptied (s : State) (c : ChanIx) : State :=
  let ch := chan s c
  if ch.ringErr = false ∧ serves s 0 c ∧ ch.reqProd = ch.reqCons then modChan c (fun q => { q with dbIn := q.dbIn &&& ~~~1 }) s
  else s

/-- The Keeper serves the request rings of channels; it stops on RING_ERR (R327). -/
def pollRings (cs : List ChanIx) (s : State) : State :=
  cs.foldl ringEmptied (takeTurns cs 16 (cs.foldl (fun s c => ringCheck c s) s))

/-- The Keeper acts on the inbound bits of channels: bit 0 unless masked, bit 1, and bits 2 to 31 are cleared (R330). -/
def serveChans (cs : List ChanIx) (s : State) : State :=
  if s.kpr.state ≠ .running ∧ s.glb.boot ≠ .recovery then s
  else
    let rings := cs.filter fun c => (chan s c).dbIn.getLsbD 0 && !(chan s c).dbInMask.getLsbD 0
    let flush := cs.filter fun c => (chan s c).dbIn.getLsbD 1
    let s := flush.foldl (fun s c => flushNotices c 64 s) (pollRings rings s)
    cs.foldl (fun s c => modChan c (fun q => { q with dbIn := q.dbIn &&& 1 }) s) s

def serveDoorbells (c : ChanIx) (s : State) : State := serveChans [c] s

/-- The caller may write a channel's registers (R462): the function that owns it, or Keeper firmware. -/
def mayWriteChan (c : Caller) (ch : ChanIx) : Bool :=
  match c with
  | .fn f => f.val = ch.val
  | .board => false
  | .keeper => true

/-- A write to MBX_DB_IN: W1S. A rise of bit 0 counts toward R332: more than 4,096 within 10 ms make the channel
Throttled. -/
def ringDoorbell (c : ChanIx) (bits : W32) (now : Nat) (s : State) : State :=
  let ch := chan s c
  let rise := bits.getLsbD 0 && !ch.dbIn.getLsbD 0
  let recent := ch.rises.filter fun t => now < t + 10000000
  let rises := if rise then recent ++ [now] else recent
  let s := modChan c (fun q => { q with dbIn := q.dbIn ||| bits, rises }) s
  let s := if 4096 < rises.length ∧ ch.throttled = false ∧ s.kpr.state = .running then
      setMbxEvt 1 c (modChan c (fun q => { q with throttled := true, dbInMask := q.dbInMask ||| 1 }) s) else s
  serveDoorbells c s

/-- MAILBOX_DOORBELL: a write to MBX_DB_IN sets inbound bits that prompt the Keeper (R330); while recording, a
function's write is journalled (R391). -/
def execMailboxDoorbell (c : Caller) (ch : ChanIx) (bits : W32) (now : Nat) (s : State) : Res :=
  if mayWriteChan c ch = false then .next s
  else
    let s := match c with
      | .fn _ => ijnAppend 2 ch.val 0 (toLe 4 (0x400000 + ch.val * 0x4000 + 0x4) ++ toLe 4 bits.toNat) s
      | _ => s
    .next (ringDoorbell ch bits now s)

/-- THROTTLE_POLL: every 1 ms the Keeper polls a Throttled channel's ring (R332). -/
def execThrottlePoll (c : ChanIx) (s : State) : Res :=
  if (chan s c).throttled then .next (pollRings [c] s) else .next s

/-- THROTTLE_EXIT: after a quiet 100 ms the channel leaves Throttled, and its doorbell interrupts the Keeper again. -/
def execThrottleExit (c : ChanIx) (s : State) : Res :=
  if (chan s c).throttled ∧ s.kpr.state = .running then
    .next (serveDoorbells c
      (modChan c (fun q => { q with throttled := false, dbInMask := q.dbInMask &&& ~~~1 }) s))
  else .next s

/-- The outbound bits of a channel whose mask a write clears while they are set. -/
def unmasked (ch : Channel) (mask : W32) : List Nat :=
  (List.range 32).filter fun b => ch.dbOut.getLsbD b && ch.dbOutMask.getLsbD b && !mask.getLsbD b

/-- DOORBELL_OUT_MASK_WRITE: the mask is written, and clearing the mask of a set bit raises its message once (R331). -/
def writeOutMask (c : ChanIx) (mask : W32) (s : State) : State :=
  let bits := unmasked (chan s c) mask
  bits.foldl (fun s b => dbMessage c (Fin.ofNat 64 b) s) (modChan c (fun q => { q with dbOutMask := mask }) s)

def execDoorbellOutMaskWrite (c : Caller) (ch : ChanIx) (mask : W32) (s : State) : Res :=
  if mayWriteChan c ch then .next (writeOutMask ch mask s) else .next s

/-- NOTICE_POST: a notice for a channel is written, held or dropped (R338). -/
def execNoticePost (c : ChanIx) (kind : BitVec 16) (body : List Byte) (s : State) : Res :=
  .next (deliverNotice c kind body s)

/-- KPR_BEAT_TICK: COUNT advances once per millisecond while STATE is Running (R335). -/
def execKprBeatTick (s : State) : Res :=
  if s.kpr.state = .running then .next { s with kpr := { s.kpr with count := s.kpr.count + 1 } } else .next s

/-! ## ECHO and GET_INFO (R340) -/

/-- A catalogue row without a buffer. -/
def cmdEcho (r : Req) : Cmd := { op := 0x1, any := true, fields := [(0, r.payload.length)] }
def cmdGetInfo : Cmd := { op := 0x2, any := true }

/-- ECHO: the payload, unchanged. -/
def execEcho (r : Req) (s : State) : Res :=
  .next (mbx (cmdEcho r) false r (fun rep s => post rep stOk r.payload s) s)

/-- GET_INFO: versions, channel, binding, level and restarts. -/
def infoResult (s : State) (c : ChanIx) : List Byte :=
  let ch := chan s c
  let bound := if ch.bound ∧ c.val < 128 then ch.pen.toNat else 0xFFFF
  toLe 4 s.jnl.fwVersion.toNat ++ toLe 4 Config.romVersion.toNat ++ toLe 2 c.val ++ toLe 2 bound
    ++ [s.glb.svc.setWidth 8, BitVec.ofNat 8 s.kpr.restarts.toNat]

def execGetInfo (r : Req) (s : State) : Res :=
  .next (mbx cmdGetInfo false r (fun rep s => post rep stOk (infoResult s r.chan) s) s)

/-! ## GET_HEALTH (R340, R373, R374, R388) -/

/-- GET_HEALTH; a selector above 2 names nothing. -/
def cmdGetHealth (sel : Byte) : Cmd :=
  { op := 0x3, p := true, f := true, fields := [(0, 1), (4, 4)], blen := fun n => sel == 2 || n == 0,
    ranges := fun r => decide (leAt r.payload 0 1 ≤ 2) }

/-- Activity counters returned to a P or F channel are coarsened to a multiple of 4,096 (R373). -/
def coarsen (s : State) (c : ChanIx) (v : Nat) : Nat := if callerClass s c = .admin then v else v / 4096 * 4096

/-- The power in W, 0 on a channel that is not an admin channel (R340, R374). -/
def deviceHealth (s : State) (c : ChanIx) : List Byte :=
  [s.glb.svc.setWidth 8] ++ (List.range 25).map (fun i => BitVec.ofNat 8 (islCode (island s (islNo i)).state))
    ++ [0, 0] ++ toLe 4 (if isAdmin c then s.power.avg.toNat else 0)

/-- GET_HEALTH selector 0. -/
def execGetHealthDevice (r : Req) (s : State) : Res :=
  .next (mbx (cmdGetHealth 0) false r (fun rep s => post rep stOk (deviceHealth s r.chan) s) s)

/-- The active lanes of a partner: those of its ports whose link is up. -/
def partnerLanes (s : State) (p : Partner) : Nat :=
  ((p.ports.filter (linkUp s)).map fun q => lanesOf (port s q).width).sum

/-- The state byte of R388. -/
def partnerCode (st : PartnerState) : Nat := match st with | .admitted => 0 | .holding => 1 | .absent => 2

/-- The inline result of R388. -/
def partnerHealth (s : State) (c : ChanIx) (n : Node) (p : Partner) : List Byte :=
  toLe 2 n.toNat ++ [p.score, p.last, p.role.setWidth 8, BitVec.ofNat 8 (partnerCode p.state)]
    ++ toLe 2 (partnerLanes s p)
    ++ ([p.retries, p.expiries, p.pairFails, p.linkDowns].map fun v => toLe 4 (coarsen s c v.toNat)).flatten

/-- GET_HEALTH selector 1: NOT_FOUND for a node never admitted since the last power-on reset (R388). -/
def execGetHealthPartner (r : Req) (s : State) : Res :=
  .next (mbx (cmdGetHealth 1) false r (fun rep s =>
    let n : Node := fieldLe 16 r.payload 4 4
    match aGet s.partners n with
    | some p => post rep stOk (partnerHealth s r.chan n p) s
    | none => post rep stNotFound [] s) s)

end Sys2Proof.Machine
end

