-- ==== Sys2Proof/Machine/Daymark.lean ====
section
/-! DEFINITION. DAYMARK_ARM and DAYMARK_READ (R399, R402), and the Input Journal's INPUT_REPLAY but for FEED
(R391 to R393). -/

namespace Sys2Proof.Machine

/-- DAYMARK_ARM's catalogue row for a sub-operation: DEFINE reads NSNAP offsets of 4 B each (R345, R399). -/
def cmdArm (sub : Byte) : Cmd :=
  { op := 0xC0, fields := if sub = 0 then [(0, 13)] else if sub = 2 ∨ sub = 3 ∨ sub = 4 then [(0, 1)] else [(0, 2)],
    blen := fun n => sub == 0 || n == 0 }

/-- A BAR0 offset that no trigger may snapshot: in a mailbox ring or in the Daymark block (R399). -/
def snapForbidden (off : Nat) : Bool :=
  (decide (0x100000 ≤ off ∧ off < 0x200000))
    || (decide (0x400000 ≤ off ∧ off < 0x680000) && decide (0x1000 ≤ off % 0x4000))

/-- The snapshot offsets of a DEFINE. -/
def snapOffsets (buf : List Byte) (n : Nat) : List W32 := (List.range n).map fun i => fieldLe 32 buf (4 * i) 4

/-- DAYMARK_ARM 0 DEFINE (R399). -/
def daymarkDefine (r : Req) (rep : Reply) (s : State) : State :=
  let pl := r.payload
  let t := leAt pl 1 1
  let nsnap := leAt pl 12 1
  let offs := snapOffsets (inBuf s r) nsnap
  if 31 < t ∨ 3 < leAt pl 2 1 ∨ 64 < nsnap ∨ leAt pl 3 1 ≠ 0 then post rep stBadParam [] s
  else if r.blen.toNat ≠ 4 * nsnap then post rep stBadBuffer [] s
  else
    let k : Fin 32 := Fin.ofNat 32 t
    if (aGet s.dmk.triggers k).isSome then post rep stBusy [] s
    else if offs.any (fun o => o.toNat % 4 ≠ 0 || snapForbidden o.toNat) then post rep stBadParam [] s
    else
      let tr : Trigger := { oneshot := (leAt pl 2 1).testBit 0, freeze := (leAt pl 2 1).testBit 1,
                            source := fieldLe 32 pl 4 4, code := fieldLe 16 pl 8 2, count := fieldLe 16 pl 10 2, offsets := offs }
      post rep stOk [] { s with dmk := { s.dmk with triggers := aSet s.dmk.triggers k tr } }

def execDaymarkDefine (r : Req) (s : State) : Res := .next (mbx (cmdArm 0) true r (daymarkDefine r) s)

/-- DAYMARK_ARM 1 CLEAR deletes a trigger. -/
def daymarkClear (r : Req) (rep : Reply) (s : State) : State :=
  let t := leAt r.payload 1 1
  if 31 < t then post rep stBadParam [] s
  else post rep stOk [] { s with dmk := { s.dmk with triggers := aErase s.dmk.triggers (Fin.ofNat 32 t) } }

def execDaymarkClear (r : Req) (s : State) : Res := .next (mbx (cmdArm 1) false r (daymarkClear r) s)

/-- DAYMARK_ARM 2 REARM: the buffer is zeroed, SEQ starts at 1, GEN rises, every trigger's count is reset and the
trigger armed again; the states Full and Frozen end. -/
def rearm (d : Daymark) : Daymark :=
  { d with buf := [], writeSeq := 0, writePtr := 0, gen := d.gen + 1, full := false, frozen := false, lostSince := 0,
           triggers := d.triggers.map fun t => (t.1, { t.2 with hits := 0, armed := true }) }

def execDaymarkRearm (r : Req) (s : State) : Res :=
  .next (mbx (cmdArm 2) false r (fun rep s => post rep stOk [] { s with dmk := rearm s.dmk }) s)

/-- DAYMARK_ARM 3 STOP clears DMK_CTL.EN. -/
def execDaymarkStop (r : Req) (s : State) : Res :=
  .next (mbx (cmdArm 3) false r (fun rep s => post rep stOk [] { s with dmk := { s.dmk with en := false } }) s)

/-- DAYMARK_ARM 4 START sets DMK_CTL.EN. -/
def execDaymarkStart (r : Req) (s : State) : Res :=
  .next (mbx (cmdArm 4) false r (fun rep s => post rep stOk [] { s with dmk := { s.dmk with en := true } }) s)

/-- DAYMARK_ARM 5 BARE sets DMK_CTL.BARE to byte 1. -/
def daymarkBare (r : Req) (rep : Reply) (s : State) : State :=
  let b := leAt r.payload 1 1
  if 1 < b then post rep stBadParam [] s
  else post rep stOk [] { s with dmk := { s.dmk with bare := b == 1 } }

def execDaymarkBare (r : Req) (s : State) : Res := .next (mbx (cmdArm 5) false r (daymarkBare r) s)

/-- The Daymark buffer's size. -/
def dmkSize : Nat := 4 * 2 ^ 20

def cmdDaymarkRead : Cmd := { op := 0xC1, fields := [(0, 8)], blen := fun _ => true }

/-- DAYMARK_READ copies buffer bytes to the Out buffer; the result names GEN, DMK_WRITE_SEQ and the bytes (R402). The
copy ends at the end of the buffer. -/
def daymarkRead (r : Req) (rep : Reply) (s : State) : State :=
  let off := leAt r.payload 0 4
  let len := leAt r.payload 4 4
  if off % 64 ≠ 0 ∨ dmkSize < len ∨ dmkSize < off then post rep stBadParam [] s
  else
    let n := min len (dmkSize - off)
    let bytes := readBytes s.dmk.buf off n
    if outTooShort r bytes then tooShort rep n s
    else answerOut rep r bytes (toLe 4 s.dmk.gen.toNat ++ toLe 4 s.dmk.writeSeq.toNat ++ toLe 4 n) s

def execDaymarkRead (r : Req) (s : State) : Res := .next (mbx cmdDaymarkRead false r (daymarkRead r) s)

/-! ## INPUT_REPLAY (R393) -/

def cmdReplay (sub : Byte) : Cmd :=
  { op := 0xC2, fields := if sub = 2 ∨ sub = 3 then [(0, 1), (4, 8)] else [(0, 1)],
    blen := fun n => sub == 2 || sub == 4 || n == 0 }

/-- Recording or replaying: sub-operations 0, 3 and 4 name it busy; 4 FEED belongs to a running replay, and is refused
while the journal records. -/
def ijnBusy (s : State) : Bool := s.ijn.state == .recording || s.ijn.state == .replaying

/-- The start marker's body: firmware digest and configuration generation (R391). -/
def startMarker (s : State) : List Byte := padTo 64 s.jnl.fwDigest ++ toLe 4 s.jnl.gen.toNat

/-- INPUT_REPLAY 0 RECORD: refused with NO_SPACE for an area of 0 B; clears the journal, writes the start marker. -/
def replayRecord (rep : Reply) (s : State) : State :=
  if ijnBusy s then post rep stBusy [] s
  else if s.ijn.area = 0 then post rep stNoSpace [] s
  else
    let s := { s with ijn := { ({} : InputJournal) with area := s.ijn.area, state := .recording } }
    post rep stOk [] (ijnAppend 6 0 0 (startMarker s) s)

def execInputReplayRecord (r : Req) (s : State) : Res := .next (mbx (cmdReplay 0) false r replayRecord s)

/-- INPUT_REPLAY 1 STOP ends recording or replay. -/
def replayStop (rep : Reply) (s : State) : State :=
  post rep stOk [] { s with ijn := { s.ijn with
    state := if s.ijn.state = .recording ∨ s.ijn.state = .replaying then .idle else s.ijn.state,
    expected := [], observed := [], chansFed := [], inject := false } }

def execInputReplayStop (r : Req) (s : State) : Res := .next (mbx (cmdReplay 1) false r replayStop s)

/-- INPUT_REPLAY 2 READ copies journal bytes from an offset, as many as the buffer takes; the result gives the
journal's length and records. -/
def replayRead (r : Req) (rep : Reply) (s : State) : State :=
  let off := leAt r.payload 4 8
  let bytes := (s.ijn.bytes.drop off).take r.blen.toNat
  answerOut rep r bytes (toLe 8 s.ijn.bytes.length ++ toLe 4 s.ijn.records.toNat) s

def execInputReplayRead (r : Req) (s : State) : Res := .next (mbx (cmdReplay 2) false r (replayRead r) s)

/-- INPUT_REPLAY 3 REPLAY starts a replay session of a total length; the start marker is judged when it is fed. -/
def replayReplay (r : Req) (rep : Reply) (s : State) : State :=
  if ijnBusy s then post rep stBusy [] s
  else post rep stOk [] { s with ijn := { ({} : InputJournal) with
    area := s.ijn.area, state := .replaying, total := leAt r.payload 4 8 } }

def execInputReplayReplay (r : Req) (s : State) : Res := .next (mbx (cmdReplay 3) false r (replayReplay r) s)

/-- The state's code (R393). -/
def ijnCode (st : IjnState) : Nat :=
  match st with | .idle => 0 | .recording => 1 | .full => 2 | .replaying => 3 | .diverged => 4 | .done => 5

/-- INPUT_REPLAY 5 STATUS. -/
def replayStatus (rep : Reply) (s : State) : State :=
  let j := s.ijn
  post rep stOk ([BitVec.ofNat 8 (ijnCode j.state), 0, 0, 0] ++ toLe 4 j.replayed.toNat ++ toLe 4 j.divSeq.toNat
    ++ toLe 4 j.divExp.toNat ++ toLe 4 j.divObs.toNat) s

def execInputReplayStatus (r : Req) (s : State) : Res := .next (mbx (cmdReplay 5) false r replayStatus s)

end Sys2Proof.Machine
end

