-- ==== Sys2Proof/Machine/Pens.lean ====
section
/-! DEFINITION. Pens, keys, attestation and identity (R340, R351, R355, R357, R360 to R372), but for teardown. -/

namespace Sys2Proof.Machine

/-! ## PEN_CREATE and PEN_SET_QUOTA -/

def cmdPenCreate : Cmd := { op := 0x10, fields := [(0, 2), (4, 8), (16, 16)] }

/-- The channels that a mask names, in ascending order (R340). -/
def maskChannels (mask : Nat) : List Nat := (List.range 128).filter fun c => mask.testBit c

/-- PEN_CREATE: the record, the seed, the channel bindings, every quota 0 (R351, R340). -/
def penCreate (r : Req) (rep : Reply) (s : State) : State :=
  let pl := r.payload
  let n := leAt pl 0 2
  let chs := maskChannels (leAt pl 16 16)
  if n = 0 ∨ 4095 < n ∨ chs.any (fun c => c % 64 == 0) then post rep stBadParam [] s
  else
    let p : BitVec 12 := BitVec.ofNat 12 n
    let cs : List ChanIx := chs.map fun c => Fin.ofNat 160 c
    if (pen s p).state ≠ .free ∨ cs.any (fun c => (chan s c).bound) then post rep stBusy [] s
    else
      let s := { s with pens := aSet s.pens p { state := .active, seed := fieldLe 64 pl 4 8, channels := cs } }
      let s := cs.foldl (fun s c => modChan c (fun q => { q with pen := p, bound := true }) s) s
      post rep stOk [] s

def execPenCreate (r : Req) (s : State) : Res := .next (mbx cmdPenCreate false r (penCreate r) s)

def cmdPenSetQuota : Cmd :=
  { op := 0x12, fields := [(0, 2), (4, 27), (32, 8)], named := fun r => some (leAt r.payload 0 2) }

/-! ## Keys (R360 to R364) -/

/-- The key ids a Pen holds. -/
def penKeys (s : State) (p : BitVec 12) : List (BitVec 8) := (s.sec.keys.filter fun k => k.1.1 = p).map (·.1.2)

/-- A key id is installed for a Pen (R360). -/
def keyInstalled (s : State) (p : BitVec 12) (k : BitVec 8) : Bool := (aGet s.sec.keys (p, k)).isSome

/-- The wrapped key's length, the length of the material it wraps, by TYPE (R363). -/
def wrapLen (ty : Nat) : Nat := if ty = 1 then 1688 else if ty = 2 then 1656 else 1816

/-- PEN_KEY_INSTALL's catalogue row; its payload's Pen is looked up at check 3 (R364). -/
def cmdPenKeyInstall : Cmd :=
  { op := 0x13, fields := [(0, 4)], blen := fun _ => true, named := fun r => some (leAt r.payload 0 2) }

/-- The header bytes that FORMAT, TYPE, CKN_LEN and the reserved bytes check (R364). -/
def keyFormatOk (b : List Byte) : Bool :=
  let ty := beAt b 1 1
  beAt b 0 1 == 1 && decide (1 ≤ ty ∧ ty ≤ 3)
    && (if ty = 2 then decide (1 ≤ beAt b 5 1 ∧ beAt b 5 1 ≤ 32) else beAt b 5 1 == 0)
    && allZero ((b.drop 6).take 10)
    && (if ty = 2 then allZero ((b.drop (16 + beAt b 5 1)).take (32 - beAt b 5 1)) else allZero ((b.drop 16).take 32))

/-- PEN and KEY_ID agree with the payload and lie in their TYPE's range (R363, R364). -/
def keyNamesOk (b pl : List Byte) : Bool :=
  let ty := beAt b 1 1
  let p := beAt b 2 2
  let k := beAt b 4 1
  p == leAt pl 0 2 && k == leAt pl 2 1
    && (if ty = 1 then decide (1 ≤ p ∧ p ≤ 4095 ∧ 1 ≤ k) else if ty = 2 then decide (p = 0 ∧ 1 ≤ k ∧ k ≤ 64)
        else decide (p = 0 ∧ (k = 1 ∨ k = 2)))

/-- The unwrapped key material (R364). -/
def unwrapKey (b : List Byte) : Option (List Byte) :=
  let ss := Config.kemDecap ((b.drop 48).take 1568)
  let kek := Config.shake32 (bytesOf ss ++ b.take 48 ++ bytesOf Config.deviceId)
  Config.keyUnwrap kek (b.drop 1616)

/-- A failed signature, digest or unwrap: counted, with its event (SEC_AUTH_FAIL_CNT, SEC_EVT). -/
def authFail (pen : Nat) (s : State) : State :=
  setSecEvt 0 pen { s with sec := { s.sec with authFail := satInc s.sec.authFail } }

/-- The key of a TYPE and id is installed already. -/
def keyHeld (s : State) (ty : Nat) (p : BitVec 12) (k : BitVec 8) : Bool :=
  if ty = 1 then keyInstalled s p k
  else if ty = 2 then s.sec.caks.any (fun c => c.keyId == k)
  else if k = 1 then s.sec.ideA.isSome else s.sec.ideB.isSome

/-- No slot is free for a key (R360). -/
def keyFull (s : State) (ty : Nat) (p : BitVec 12) : Bool :=
  if ty = 1 then decide (16384 ≤ s.sec.keys.length) || decide (16 ≤ (penKeys s p).length)
  else ty == 2 && decide (64 ≤ s.sec.caks.length)

/-- PEN_KEY_INSTALL with a buffer: R364's refusals in order, then the installation. -/
def keyInstall (r : Req) (rep : Reply) (s : State) : State :=
  let b := inBuf s r
  let pl := r.payload
  let ty := beAt b 1 1
  let p : BitVec 12 := BitVec.ofNat 12 (leAt pl 0 2)
  let k : BitVec 8 := BitVec.ofNat 8 (leAt pl 2 1)
  if keyFormatOk b = false then post rep stBadParam [] s
  else if r.blen.toNat ≠ wrapLen ty then post rep stBadBuffer [] s
  else if keyNamesOk b pl = false then post rep stBadParam [] s
  else match unwrapKey b with
    | none => post rep stAuthFail [] (authFail p.toNat s)
    | some m =>
      if keyHeld s ty p k then post rep stBusy [] s
      else if keyFull s ty p then post rep stNoSpace [] s
      else
        let sec :=
          if ty = 1 then { s.sec with keys := aSet s.sec.keys (p, k) m }
          else if ty = 2 then
            { s.sec with caks := s.sec.caks ++ [{ keyId := k, ckn := (b.drop 16).take (beAt b 5 1), key := m }] }
          else if k = 1 then { s.sec with ideA := some m } else { s.sec with ideB := some m }
        post rep stOk [] { s with sec }

/-- PEN_KEY_INSTALL: BLEN 0 is the row PEN_KEY_REMOVE's. -/
def execPenKeyInstall (r : Req) (s : State) : Res := .next (mbx cmdPenKeyInstall true r (keyInstall r) s)

/-! ## Identity and attestation (R370 to R372) -/

/-- The two identity records, 6,056 B (R370). -/
def identityRecords : List Byte :=
  let head (ty len : Nat) (iss : List Byte) : List Byte :=
    toLe 4 0x4D4C5043 ++ [BitVec.ofNat 8 ty, 1] ++ toLe 2 len ++ bytesOf Config.deviceId ++ padTo 32 iss
      ++ List.replicate 8 0
  let rec1 := head 1 1793 (bytesOf Config.issuer) ++ bytesOf Config.identityKey ++ List.replicate 7 0
    ++ bytesOf Config.identitySig
  let body2 := head 2 1568 (bytesOf (Config.digest (bytesOf Config.identityKey))) ++ bytesOf Config.kemKey
  rec1 ++ body2 ++ bytesOf (Config.falconSign (Config.digest body2))

def cmdIdentityGet : Cmd := { op := 0xF1, any := true, blen := fun _ => true }

/-- IDENTITY_GET writes the certificate chain; the result is its length. -/
def execIdentityGet (r : Req) (s : State) : Res :=
  .next (mbx cmdIdentityGet false r (fun rep s =>
    if r.blen.toNat < 6056 then tooShort rep 6056 s else answerOut rep r identityRecords (toLe 4 6056) s) s)

def cmdAttestQuote : Cmd := { op := 0xF0, p := true, f := true, fields := [(0, 36)], blen := fun _ => true }

/-- The Pen of a measurement log entry. -/
def entryPen (e : List Byte) : Nat := leAt e 2 2

/-- The entries of a quote: the whole log for 0xFFFF, else those of Pen 0 and of the Pen itself (R372). -/
def quoteEntries (s : State) (p : Nat) : List (List Byte) :=
  if p = 0xFFFF then s.sec.log else s.sec.log.filter fun e => entryPen e == 0 || entryPen e == p

/-- The quote (R372). -/
def quoteBytes (s : State) (p : Nat) (nonce : List Byte) : List Byte :=
  let es := quoteEntries s p
  let body := toLe 4 0x4D4C5051 ++ toLe 2 p ++ [0, 0] ++ toLe 4 es.length ++ [0, 0, 0, 0] ++ bytesOf Config.deviceId
    ++ padTo 32 nonce ++ es.flatten
  body ++ bytesOf (Config.falconSign (Config.digest body))

/-- ATTEST_QUOTE: a P caller may quote only its own Pen (R340); the result is the quote's length. -/
def attestQuote (r : Req) (rep : Reply) (s : State) : State :=
  let p := leAt r.payload 0 2
  let need := 64 + 80 * (quoteEntries s p).length + 1280
  if callerClass s r.chan = .pen ∧ p ≠ (chan s r.chan).pen.toNat then post rep stNotPermitted [] s
  else if p ≠ 0xFFFF ∧ penStatus s p = stNotFound then post rep stNotFound [] s
  else if r.blen.toNat < need then tooShort rep need s
  else answerOut rep r (quoteBytes s p ((r.payload.drop 4).take 32)) (toLe 4 need) s

def execAttestQuote (r : Req) (s : State) : Res := .next (mbx cmdAttestQuote false r (attestQuote r) s)

/-! ## SVN_RAISE (R369) and SAK_DISTRIBUTE, MKPDU_RECEIVE (R366) -/

/-- SVN_RAISE: an image with RAISE set that has run for 600 s programs the fuses so that MIN equals its SVN; the
programming is a non-volatile write, and MIN only rises. -/
def execSvnRaise (s : State) : Res :=
  if s.kpr.state = .running ∧ s.jnl.runRaise ∧ sagStops s = false then
    .next { s with fuses := { s.fuses with minSvn := max s.fuses.minSvn s.jnl.runSvn.toNat } }
  else .next s

/-- SAK_DISTRIBUTE: where the device is key server of a port's secure channel, the Keeper distributes a new SAK, a value
of its random source; its packet numbers begin again. -/
def execSakDistribute (p : PortIx) (s : State) : Res :=
  match (port s p).secy with
  | some c =>
    if s.kpr.state = .running ∧ c.server then
      let (k, s) := takeFree 256 s
      let sak := bytesOf k
      .next (emit (.mka p sak) (modPort p (fun q => { q with secy := some { c with sak, pn := 0 } }) s))
    else .next s
  | none => .next s

/-- MKPDU_RECEIVE: a frame under an installed CAK's CKN from the partner of a port that runs MACsec keeps the secure
channel or brings it up; the end with the lower priority value is key server, and a key server distributes a SAK. With
equal priorities the lower SCI decides, which the spec leaves to IEEE 802.1X: a free choice. -/
def execMkpduReceive (p : PortIx) (ckn : List Byte) (_mi : BitVec 96) (prio : BitVec 8) (sak : Option (List Byte))
    (s : State) : Res :=
  let q := port s p
  if s.kpr.state ≠ .running ∨ q.macsec = false ∨ s.sec.caks.any (fun c => c.ckn == ckn) = false then .next s
  else
    let (tie, s) := takePick s
    let server := decide (q.mka.toNat < prio.toNat) || (q.mka == prio && tie % 2 == 0)
    let s := modPort p (fun q => { q with peerMka := some prio }) s
    match q.secy with
    | some c =>
      let c' : Secy := { c with ckn, server, sak := if server then c.sak else sak.getD c.sak,
                                pn := if server ∨ sak.isNone then c.pn else 0 }
      .next (modPort p (fun q => { q with secy := some c' }) s)
    | none =>
      if server then
        let (k, s) := takeFree 256 s
        .next (emit (.mka p (bytesOf k)) (modPort p (fun q => { q with secy := some { ckn, sak := bytesOf k, server } }) s))
      else match sak with
        | some k => .next (modPort p (fun q => { q with secy := some { ckn, sak := k, server } }) s)
        | none => .next s

end Sys2Proof.Machine
end

