-- ==== Sys2Proof/Machine/Journal.lean ====
section
/-! DEFINITION. The journal at boot, the settings of the journal keys (R448, R449), CONFIG_GET and CONFIG_SET, the
firmware image (R369, R439 to R441), and the calibration commands (R415, R451, R452). -/

namespace Sys2Proof.Machine

/-! ## Mounting (R444, R445, R436) -/

/-- The boot ROM mounts the journal: the valid half with the higher HALF_GEN, any other half erased; with none valid it
formats half 0. With BOOT_SRC 2 the mount is read-only and no record applies. -/
def mountJournal (s : State) : State :=
  let a := halfValid s.nor.half0
  let b := halfValid s.nor.half1
  let ro := s.glb.bootSrc == 2
  let useB := b && (!a || decide (s.nor.half0.gen.toNat < s.nor.half1.gen.toNat))
  let nor := if ro then s.nor
    else if useB then { s.nor with half0 := {} }
    else if a then { s.nor with half1 := {} }
    else { s.nor with half0 := mkHalf 1 [], half1 := {} }
  let s := { s with nor, jnl := { s.jnl with mounted := true, active := useB, applied := !ro, nvLock := s.jnl.nvLock || ro } }
  let s := if !a && !b && !ro then coded 0x204 0 (setJnlEvt 2 s) else s
  let h := activeHalf s
  let ok := scanned h
  let bad := decide (ok.length < h.recs.length)
  let s := { s with jnl := { s.jnl with repair := bad, gen := ((ok.getLast?).map (·.seq)).getD 0 } }
  if bad then setJnlEvt 4 s else s

/-! ## Settings (R448, R449) -/

/-- A settings key: its key, default, and least and greatest value. -/
structure SettingRow where
  key : Nat
  dflt : Nat
  lo : Nat
  hi : Nat
deriving DecidableEq, Repr

/-- Chapters 2 to 7: pool, CMX, sharing, match and gather settings. -/
def poolSettings : List SettingRow :=
  [ ⟨0x20200, 4 * 2 ^ 30, 2 ^ 30, 16 * 2 ^ 30⟩, ⟨0x20201, 64 * 2 ^ 30, 0, 128 * 2 ^ 30⟩,
    ⟨0x20202, 32 * 2 ^ 30, 0, 128 * 2 ^ 30⟩, ⟨0x20203, 0, 0, 16 * 2 ^ 30⟩, ⟨0x20204, 25, 1, 100⟩,
    ⟨0x20205, 7, 3, 28⟩, ⟨0x20206, 2, 1, 10⟩, ⟨0x20207, 500, 100, 10000⟩, ⟨0x20208, 100000, 1000, 10000000⟩,
    ⟨0x20209, 90 * 86400 * 10 ^ 9, 7 * 86400 * 10 ^ 9, 365 * 86400 * 10 ^ 9⟩,
    ⟨0x2020A, 60 * 10 ^ 9, 10 * 10 ^ 9, 600 * 10 ^ 9⟩, ⟨0x2020B, 0, 0, 2 ^ 64 - 1⟩ ]

def cmxSettings : List SettingRow :=
  [ ⟨0x20300, 26448, 1024, 65535⟩, ⟨0x20301, 40000, 10000, 1000000⟩, ⟨0x20302, 5120000, 1000000, 100000000⟩,
    ⟨0x20303, 12, 4, 32⟩, ⟨0x20304, 1000, 250, 8000⟩, ⟨0x20305, 20000, 1000, 1000000⟩,
    ⟨0x20306, 50000000, 1000000, 1000000000⟩, ⟨0x20307, 0, 0, 255⟩,
    ⟨0x20400, 2000000000, 100000000, 60000000000⟩, ⟨0x20401, 100000000, 10000000, 1000000000⟩,
    ⟨0x20402, 20000000, 1000000, 1000000000⟩, ⟨0x20403, 10000000, 1000000, 1000000000⟩,
    ⟨0x20700, 16, 0, 64⟩, ⟨0x20701, 0, 0, 15⟩, ⟨0x20702, 64, 16, 4096⟩, ⟨0x20703, 32, 4, 64⟩,
    ⟨0x20800, 600000000000, 1000000000, 2 ^ 64 - 1⟩ ]

/-- Chapters 9 to 15: queuing, coherence, teardown, links and filters. -/
def fabricSettings : List SettingRow :=
  [ ⟨0x20900, 48 * 2 ^ 20, 16 * 2 ^ 20, 56 * 2 ^ 20⟩, ⟨0x20901, 4 * 2 ^ 20, 2 ^ 16, 2 ^ 27⟩, ⟨0x20902, 1, 0, 3⟩,
    ⟨0x20903, 2 ^ 17, 0, 2 ^ 26⟩, ⟨0x20904, 2 ^ 18, 0, 2 ^ 26⟩, ⟨0x20984, 192 * 2 ^ 10, 0, 2 ^ 26⟩,
    ⟨0x20905, 2 ^ 17, 0, 2 ^ 26⟩, ⟨0x20906, 100000000, 0, 65000000000⟩, ⟨0x20986, 1000000000, 10000000, 60000000000⟩,
    ⟨0x20907, 300000000000, 10000000000, 3600000000000⟩, ⟨0x20908, 0, 0, 2 ^ 64 - 1⟩, ⟨0x20909, 0, 0, 64⟩,
    ⟨0x2090A, 0, 0, 65535⟩, ⟨0x2090B, 0, 0, 65535⟩,
    ⟨0x20A00, 2 ^ 30, 2 ^ 28, 2 ^ 31⟩, ⟨0x20A01, 10000, 1000, 1000000⟩, ⟨0x20A02, 4096, 256, 65536⟩ ]

def serviceSettings : List SettingRow :=
  [ ⟨0x20C00, 100000000, 1000000, 10000000000⟩,
    ⟨0x20E00, 500000000, 10000000, 10000000000⟩, ⟨0x20E01, 15000000000, 1, 2 ^ 64 - 1⟩, ⟨0x20E02, 12000, 0, 16383⟩,
    ⟨0x20E03, 3000, 0, 16383⟩, ⟨0x20E04, 750, 0, 16383⟩, ⟨0x20E05, 2 ^ 34, 2 ^ 30, 2 ^ 34⟩,
    ⟨0x20F00, 64, 8, 1024⟩, ⟨0x20F01, 10000000, 1000000, 100000000⟩, ⟨0x20F02, 100000000, 10000000, 10000000000⟩,
    ⟨0x20F03, 1000000000, 100000000, 10000000000⟩,
    ⟨0x50000, 150, 0, 65535⟩, ⟨0x50001, 300, 0, 65535⟩, ⟨0x50002, 85, 0, 100⟩, ⟨0x50003, 95, 0, 100⟩,
    ⟨0x50004, 50, 0, 100⟩, ⟨0x50005, 30, 0, 100⟩, ⟨0x50006, 1000, 0, 2 ^ 32 - 1⟩, ⟨0x50007, 20000, 0, 2 ^ 32 - 1⟩,
    ⟨0x50008, 16, 0, 2 ^ 32 - 1⟩, ⟨0x50009, 64, 0, 2 ^ 32 - 1⟩, ⟨0x5000A, 1, 0, 2 ^ 32 - 1⟩,
    ⟨0x5000B, 3, 0, 2 ^ 32 - 1⟩, ⟨0x5000C, 2, 0, 2 ^ 32 - 1⟩ ]

/-- Every numeric setting of R448. -/
def settingRows : List SettingRow := poolSettings ++ cmxSettings ++ fabricSettings ++ serviceSettings

def settingRow (key : Nat) : Option SettingRow := settingRows.find? fun r => r.key == key

/-- A setting's number in effect, the default of its row where the journal holds none (R4). -/
def effective (s : State) (key : Nat) : Nat := setting s key (((settingRow key).map (·.dflt)).getD 0)

/-- A power of two. -/
def isPow2 (n : Nat) : Bool := (List.range 64).any fun i => 2 ^ i == n

/-- The rules of a setting's range that are not an interval: whole GiB, α's and the hole interval's values, XON < XOFF,
the BAR2 size, the sampling channel. -/
def settingFits (s : State) (key v : Nat) : Bool :=
  if key = 0x20200 then v % 2 ^ 30 == 0
  else if key = 0x20700 then v == 0 || decide (4 ≤ v)
  else if key = 0x20904 then decide (effective s 0x20984 < v)
  else if key = 0x20984 then decide (v < effective s 0x20904)
  else if key = 0x20E05 then isPow2 v
  else if key = 0x20909 then v == 0 || v == 64
  else true

/-- Calibration keys (R415): a slice item's or a laser item's value length; none outside them. -/
def calibLen (key : Nat) : Option Nat :=
  if 0x70000 ≤ key ∧ key ≤ 0x70F91 then
    let o := key % 0x100
    if o < 0x90 then some ([2, 2, 5, 13].getD (o % 4) 2) else if o = 0x90 ∨ o = 0x91 then some 2 else none
  else none

/-- The value length of a key of R448 that is not a numeric setting; none where the key lies outside the table. -/
def otherLen (key : Nat) : Option Nat :=
  if 0x10080 ≤ key ∧ key ≤ 0x1009F then some 2
  else if 0x20710 ≤ key ∧ key ≤ 0x2071F then some 8
  else if 0x60000 ≤ key ∧ key < 0x60040 ∧ key % 16 < 4 then some 4
  else if 0x60040 ≤ key ∧ key ≤ 0x6004F then some 8
  else if 0x80000 ≤ key ∧ key ≤ 0x800FF then some 64
  else calibLen key

/-- CONFIG_SET's verdict on a key and value: 0, NOT_FOUND or BAD_PARAM (R448). A length of 0 deletes the key, whose default
must then fit the settings that stand (XON below XOFF, R296). -/
def configVerdict (s : State) (key : Nat) (v : List Byte) : Nat :=
  match settingRow key with
  | some r =>
    if v.isEmpty then if settingFits s key r.dflt then stOk else stBadParam
    else if v.length ≠ 8 then stBadParam
    else if r.lo ≤ leNat v ∧ leNat v ≤ r.hi ∧ settingFits s key (leNat v) then stOk else stBadParam
  | none =>
    match otherLen key with
    | none => stNotFound
    | some n => if v.isEmpty ∨ v.length = n then stOk else stBadParam

/-! ## Settings that registers hold -/

/-- The Keeper writes a Shed's queuing registers from the settings of R296. -/
def queueRegs (s : State) (sh : ShedIx) : State :=
  let e := effective s
  modSched sh (fun c => { c with
    voqMib := BitVec.ofNat 7 (e 0x20900 / 2 ^ 20), voqMax := BitVec.ofNat 12 (e 0x20901 / 2 ^ 16),
    alpha := BitVec.ofNat 2 (e 0x20902), ecnThr := BitVec.ofNat 17 (e 0x20903 / 1024),
    xoff := BitVec.ofNat 17 (e 0x20904 / 1024), xon := BitVec.ofNat 16 (e 0x20984 / 1024),
    headroom := BitVec.ofNat 17 (e 0x20905 / 1024), watchdog := BitVec.ofNat 16 (e 0x20906 / 1000000) }) s

/-- The settings of R296 reach the registers of every Shed. -/
def applyQueueSettings (s : State) : State := allSheds.foldl queueRegs s

/-- A peer channel's binding follows its key (R321): a node id, or unbound. -/
def bindPeer (s : State) (i : Nat) : State :=
  let n : Node := BitVec.ofNat 16 (((jValue s (0x10080 + i)).map leNat).getD 0)
  modChan (Fin.ofNat 160 (128 + i)) (fun q => { q with peerNode := n, bound := n ≠ 0 }) s

/-- Every bank's MTB_CTL takes its protection mode and the scan spacing of R228. No rule lays out the key of the mode per
bank: bit s of its value is the mode of Shed s's bank (DESIGN CHOICE, log 176). -/
def applyMatchSettings (s : State) : State :=
  let gap : BitVec 13 := BitVec.ofNat 13 (effective s 0x20702)
  let banks := allSheds.foldl (fun b sh => aMod b sh {} fun q => { q with mode := (effective s 0x20701).testBit sh.val, gap }) s.work.banks
  { s with work := { s.work with banks } }

/-- Every home's COH_CTL takes the home timeout of R320. -/
def applyHomeSettings (s : State) : State :=
  let timeoutUs : BitVec 10 := BitVec.ofNat 10 (effective s 0x20A01 / 1000)
  let homes := allSheds.foldl (fun b sh => aMod b sh {} fun q => { q with timeoutUs }) s.coh.homes
  { s with coh := { s.coh with homes } }

/-- The Match Table partition that the journal defines, or R211's default. -/
def journalPart (s : State) (p : Nat) : MPart :=
  match jValue s (0x20710 + p) with
  | some v => { kind := BitVec.ofNat 2 (leAt v 0 1), rows16 := leAt v 4 4 / 16 }
  | none => if p = 0 then { kind := 1, rows16 := 512 } else if p = 1 then { kind := 1, rows16 := 2048 } else {}

/-- What a journal change takes effect on at once: bindings, queuing registers, MTB_CTL, COH_CTL. -/
def applySetting (key : Nat) (s : State) : State :=
  if 0x10080 ≤ key ∧ key ≤ 0x1009F then bindPeer s (key - 0x10080)
  else if 0x20900 ≤ key ∧ key < 0x20A00 then applyQueueSettings s
  else if key = 0x20701 ∨ key = 0x20702 then applyMatchSettings s
  else if key = 0x20A01 then applyHomeSettings s
  else s

/-- What the journal sets at boot: bindings, queuing, Match Table and home registers, the Match Table's partitions, the
VOQ buffer's size, the near-tier areas and device space, the size of a VF's BAR2, the UDP port (R42, R109, R211, R273, R297,
R321, R424). -/
def applyAtBoot (s : State) : State :=
  let s := (List.range 32).foldl bindPeer s
  let s := applyHomeSettings (applyMatchSettings (applyQueueSettings s))
  let parts := (List.range 16).map fun p => (Fin.ofNat 16 p, journalPart s p)
  let s := { s with work := { s.work with parts } }
  let s := allSheds.foldl (fun s sh => modSched sh (fun c => { c with bootMib := effective s 0x20900 / 2 ^ 20 }) s) s
  { s with ijn := { s.ijn with area := effective s 0x20203 }, udpPort := BitVec.ofNat 16 (effective s 0x20300)
           near := { s.near with ctl := effective s 0x20200, flashMap := effective s 0x20201,
                                 stagePool := effective s 0x20202, dsSize := effective s 0x20A00 }
           vfSize := effective s 0x20E05 }

/-! ## CONFIG_GET and CONFIG_SET (R345, R448, R337) -/

/-- A channel-local key: its value's length (R337). -/
def localLen (key : Nat) : Option Nat :=
  if key = 0xFFFF0000 ∨ key = 0xFFFF0003 then some 8
  else if key = 0xFFFF0001 ∨ key = 0xFFFF0002 then some 4 else none

/-- A channel-local key's value. -/
def localGet (ch : Channel) (key : Nat) : List Byte :=
  if key = 0xFFFF0000 then toLe 8 ch.ringBase.toNat
  else if key = 0xFFFF0001 then toLe 4 ch.ringEntries.toNat
  else if key = 0xFFFF0002 then toLe 4 ch.ntcKinds.toNat
  else toLe 8 ch.peerDb.toNat

/-- A channel-local key is written; the first two set the notice indices to 0 (R337). -/
def localSet (key : Nat) (v : List Byte) (ch : Channel) : Channel :=
  if key = 0xFFFF0000 then { ch with ringBase := fieldLe 64 v 0 8, ntcProd := 0, ntcCons := 0 }
  else if key = 0xFFFF0001 then { ch with ringEntries := fieldLe 32 v 0 4, ntcProd := 0, ntcCons := 0 }
  else if key = 0xFFFF0002 then { ch with ntcKinds := fieldLe 32 v 0 4 }
  else { ch with peerDb := fieldLe 64 v 0 8 }

/-- A channel-local value is in range: a 4 KiB aligned base; 0 or a power of two from 16 to 65,536 (R337). -/
def localOk (key v : Nat) : Bool :=
  if key = 0xFFFF0000 then v % 4096 == 0
  else if key = 0xFFFF0001 then v == 0 || (isPow2 v && decide (16 ≤ v ∧ v ≤ 65536)) else true

def reqKey (r : Req) : Nat := leAt r.payload 0 4

def cmdConfigGet (r : Req) : Cmd :=
  { op := 0x100, any := (localLen (reqKey r)).isSome, f := true, fields := [(0, 4)], blen := fun _ => true }

/-- The value in effect for a journal key (R448). -/
def configValue (s : State) (key : Nat) : List Byte :=
  match jValue s key with
  | some v => v
  | none => match settingRow key with
    | some r => toLe 8 r.dflt
    | none => []

/-- CONFIG_GET: length and value; a value of more than 240 B goes to the Out buffer. -/
def configGet (r : Req) (rep : Reply) (s : State) : State :=
  let key := reqKey r
  if (localLen key).isSome then
    let v := localGet (chan s r.chan) key
    post rep stOk (toLe 4 v.length ++ v) s
  else if (settingRow key).isNone ∧ (otherLen key).isNone then post rep stNotFound [] s
  else
    let v := configValue s key
    if v.length ≤ 240 then post rep stOk (toLe 4 v.length ++ v) s
    else if outTooShort r v then tooShort rep v.length s else answerOut rep r v (toLe 4 v.length) s

def execConfigGet (r : Req) (s : State) : Res := .next (mbx (cmdConfigGet r) false r (configGet r) s)

def cmdConfigSet (r : Req) : Cmd :=
  let n := leAt r.payload 4 4
  { op := 0x101, any := (localLen (reqKey r)).isSome, fields := [(0, 8 + if n ≤ 224 then n else 0)],
    blen := fun b => if n ≤ 224 then b == 0 else b == n }

/-- The value that a CONFIG_SET carries. -/
def setValue (s : State) (r : Req) : List Byte :=
  let n := leAt r.payload 4 4
  if n ≤ 224 then (r.payload.drop 8).take n else inBuf s r

/-- A journal write that non-volatile writes' stop refuses (R345, JNL_EVT). -/
def nvLocked (rep : Reply) (s : State) : State := post rep stNvLocked [] (setJnlEvt 3 s)

/-- CONFIG_SET: a channel-local key, or a journal append with its effect and its measurement (R371, R448). -/
def configSet (r : Req) (rep : Reply) (s : State) : State :=
  let key := reqKey r
  let v := setValue s r
  match localLen key with
  | some n =>
    if v.length ≠ n ∨ localOk key (leNat v) = false then post rep stBadParam [] s
    else post rep stOk [] (flushHeld r.chan (modChan r.chan (localSet key v) s))
  | none =>
    let st := configVerdict s key v
    if 4096 < v.length then post rep stBadParam [] s
    else if st ≠ stOk then post rep st [] s
    else if s.jnl.nvLock then nvLocked rep s
    else if 4 * 2 ^ 20 < liveAfter s (BitVec.ofNat 32 key) v then post rep stNoSpace [] s
    else post rep stOk [] (applySetting key (logConfig (journalAppend (BitVec.ofNat 32 key) v s)))

def execConfigSet (r : Req) (s : State) : Res := .next (mbx (cmdConfigSet r) true r (configSet r) s)

/-! ## The firmware image (R369, R439 to R441) -/

/-- The image's trailer (R369): its last 3,144 B. -/
def trailer (img : List Byte) : List Byte := img.drop (img.length - 3144)

/-- The SVN of an image, and its RAISE flag. -/
def imageSvn (img : List Byte) : Nat := leAt (trailer img) 4 4
def imageRaise (img : List Byte) : Bool := (leAt (trailer img) 12 1).testBit 0

/-- The checks of R369: the vendor key, the SVN, the signature; and that a trailer is there. -/
def imageOk (s : State) : Bool :=
  let img := s.nor.image
  let t := trailer img
  let pub := (t.drop 64).take 1793
  decide (3144 ≤ img.length) && leAt t 0 4 == 0x4D4C5046 && leAt t 8 4 == img.length - 3144
    && Config.digest pub == Config.vendorKeyDigest && decide (s.fuses.minSvn ≤ imageSvn img)
    && Config.falconVerify pub (Config.digest (img.take (img.length - 1280))) (t.drop 1864)

/-- The NOR image is loaded into Keeper memory: its SVN, RAISE, version and digest are the running ones. -/
def loadImage (s : State) : State :=
  let img := s.nor.image
  { s with jnl := { s.jnl with runSvn := BitVec.ofNat 8 (imageSvn img), runRaise := imageRaise img,
                               fwVersion := Config.fwVersion img, fwDigest := bytesOf (Config.digest img), fwiImage := 0 } }

/-- A staging is incomplete. -/
def staging (s : State) : Bool := s.jnl.fwiImage == 1

/-- The primary channel: channel 0 while HOST_PRIMARY is low (R440). -/
def primaryChan (s : State) : ChanIx := if s.glb.hostPrimary then 64 else 0

def cmdFwStage : Cmd := { op := 0xE0, fields := [(0, 8)], blen := fun n => n != 0 }

/-- FW_STAGE: ownership (R440), the rules of R439, then the bytes are programmed. -/
def fwStage (r : Req) (rep : Reply) (s : State) : State :=
  let off := leAt r.payload 0 4
  let tot := leAt r.payload 4 4
  let isB := decide (r.chan.val = 64)
  let mine := s.jnl.fwiOwner == isB
  let fromPrimary := off = 0 ∧ r.chan = primaryChan s
  if ¬ fromPrimary ∧ mine = false ∧ staging s ∧ r.now < s.jnl.stageTime + 10000000000 then post rep stBusy [] s
  else if tot < 3144 ∨ 32 * 2 ^ 20 < tot ∨ (off ≠ 0 ∧ (staging s = false ∨ off ≠ s.jnl.staged ∨ tot ≠ s.jnl.total))
       ∨ tot < off + r.blen.toNat then post rep stBadParam [] s
  else if sagStops s then nvLocked rep s
  else
    let img := (if off = 0 then [] else s.nor.image) ++ inBuf s r
    let n := off + r.blen.toNat
    post rep stOk [] { s with
      nor := { s.nor with image := img },
      jnl := { s.jnl with staged := n, total := tot, fwiOwner := isB, stageTime := r.now,
                          fwiImage := if n = tot then 2 else 1 } }

def execFwStage (r : Req) (s : State) : Res := .next (mbx cmdFwStage true r (fwStage r) s)

/-- The device holds the Keeper in reset for a restart (R347 steps 1 and 2): outbound bit 2 on every channel. -/
def beginRestart (cause : W32) (s : State) : State :=
  let s := { s with kpr := { s.kpr with state := .restarting, restartCause := cause } }
  (List.range 160).foldl (fun s c => setDbOut (Fin.ofNat 160 c) 2 s) s

def cmdFwActivate : Cmd := { op := 0xE1 }

/-- FW_ACTIVATE (R441): BUSY, AUTH_FAIL, or the image is loaded and the Keeper restarts; in recovery the boot goes on at
step 5 (R438), and the new image answers at once. Where a Keeper restart led into recovery, that restart goes on with the
new image (R347, R348). -/
def fwActivate (rep : Reply) (s : State) : State :=
  if staging s ∨ s.jnl.activating then post rep stBusy [] s
  else if imageOk s = false then
    post rep stAuthFail [] (authFail 0 { s with jnl := { s.jnl with fwiImage := 3 } })
  else if s.glb.boot = .recovery ∧ s.kpr.resume then
    let s := loadImage s
    let boot := if (s.isl.any fun i => 5 ≤ i.1.val && i.2.state != .off) then BootPhase.up else .firmware
    beginRestart 1 { s with glb := { s.glb with boot }, sec := { s.sec with verified := true, recovery := false },
                            kpr := { s.kpr with activateReply := some rep, resume := false }, jnl := { s.jnl with activating := true } }
  else if s.glb.boot = .recovery then
    post rep stOk [] (coded 0x209 1 (startFirmware (loadImage s)))
  else
    beginRestart 1 { loadImage s with kpr := { s.kpr with activateReply := some rep },
                                      jnl := { (loadImage s).jnl with activating := true } }

def execFwActivate (r : Req) (s : State) : Res := .next (mbx cmdFwActivate false r fwActivate s)

/-! ## Calibration (R415, R451, R452) -/

/-- The journal key of an item of a Lantern (R415). -/
def calibKey (l : StackIx) (o : Nat) : Nat := 0x70000 + l.val * 0x100 + o

/-- The items of a slice in their order in a record of R452: offset, length. -/
def sliceItems : List (Nat × Nat) := [(0, 2), (2, 2), (4, 5), (12, 13)]

/-- A slice's calibration record of 32 B (R452). -/
def calibSlice (s : State) (l : StackIx) (i : Nat) : List Byte :=
  let v (j : Nat) : Option (List Byte) := jValue s (calibKey l (i * 4 + j))
  let item (j n : Nat) : List Byte := padTo n ((v j).getD [])
  let valid := ((List.range 4).map fun j => bitNat (v j).isSome * 2 ^ j).sum
  item 0 2 ++ item 1 2 ++ item 2 5 ++ [0, 0, 0] ++ item 3 13 ++ [BitVec.ofNat 8 valid] ++ List.replicate 6 0

/-- The 1,168 B of CALIB_GET (R452). -/
def calibImage (s : State) (l : StackIx) : List Byte :=
  let v (j : Nat) : Option (List Byte) := jValue s (calibKey l (0x90 + j))
  ((List.range 36).map (calibSlice s l)).flatten ++ padTo 2 ((v 0).getD []) ++ padTo 2 ((v 1).getD [])
    ++ [BitVec.ofNat 8 (bitNat (v 0).isSome + 2 * bitNat (v 1).isSome)] ++ List.replicate 11 0

def cmdCalibGet : Cmd := { op := 0xD1, fields := [(0, 1)], blen := fun _ => true }

def execCalibGet (r : Req) (s : State) : Res :=
  .next (mbx cmdCalibGet false r (fun rep s =>
    if 15 < leAt r.payload 0 1 then post rep stBadParam [] s
    else if r.blen.toNat < 1168 then tooShort rep 1168 s
    else answerOut rep r (calibImage s (Fin.ofNat 16 (leAt r.payload 0 1))) [] s) s)

/-- The journal records that a CALIB_SET image gives: those whose VALID bit is 1. -/
def calibRecords (l : StackIx) (img : List Byte) : List (Nat × List Byte) :=
  let sl := (List.range 36).flatMap fun i =>
    let rec_ := (img.drop (32 * i)).take 32
    (List.range 4).filterMap fun j =>
      if (leAt rec_ 25 1).testBit j then
        let it := sliceItems.getD j (0, 0)
        some (calibKey l (i * 4 + j), (rec_.drop it.1).take it.2)
      else none
  let las := (List.range 2).filterMap fun j =>
    if (leAt img 1156 1).testBit j then some (calibKey l (0x90 + j), (img.drop (1152 + 2 * j)).take 2) else none
  sl ++ las

/-- Records appended one after another, with one measurement entry (R371). -/
def appendAll (recs : List (Nat × List Byte)) (s : State) : State :=
  logConfig (recs.foldl (fun s r => journalAppend (BitVec.ofNat 32 r.1) r.2 s) s)

def cmdCalibSet : Cmd := { op := 0xD2, fields := [(0, 1)], blen := fun n => n == 1168 }

/-- CALIB_SET writes the valid items, one record each. -/
def calibSet (r : Req) (rep : Reply) (s : State) : State :=
  if 15 < leAt r.payload 0 1 then post rep stBadParam [] s
  else if s.jnl.nvLock then nvLocked rep s
  else post rep stOk [] (appendAll (calibRecords (Fin.ofNat 16 (leAt r.payload 0 1)) (inBuf s r)) s)

def execCalibSet (r : Req) (s : State) : Res := .next (mbx cmdCalibSet true r (calibSet r) s)

def cmdCalibSetClear : Cmd := { op := 0xD2, flags := 1, fields := [(0, 1)] }

/-- The keys of a Lantern that the journal holds. -/
def calibHeld (s : State) (l : StackIx) : List Nat :=
  ((List.range 0x92).map (calibKey l)).filter fun k => (jValue s k).isSome

/-- CALIB_SET with CLEAR deletes every record of the Lantern. -/
def calibSetClear (r : Req) (rep : Reply) (s : State) : State :=
  if 15 < leAt r.payload 0 1 then post rep stBadParam [] s
  else if s.jnl.nvLock then nvLocked rep s
  else post rep stOk []
    (appendAll ((calibHeld s (Fin.ofNat 16 (leAt r.payload 0 1))).map fun k => (k, [])) s)

def execCalibSetClear (r : Req) (s : State) : Res := .next (mbx cmdCalibSetClear false r (calibSetClear r) s)

/-- A CALIB_RUN ends: its response gives the records written and the slices that failed. -/
def endCalib (st : Nat) (c : CalibRunning) (s : State) : State :=
  let s := c.todo.foldl (fun s l => modLantern l (fun q => { q with calibrating := false }) s) { s with calib := none }
  post c.reply st (toLe 4 c.written.toNat ++ toLe 4 c.failed.toNat) s

def cmdCalibRunAbort : Cmd := { op := 0xD0, flags := 1, fields := [(0, 2)] }

/-- CALIB_RUN with ABORT stops a run in progress; the run's own command ends with what it has written. -/
def calibRunAbort (rep : Reply) (s : State) : State :=
  match s.calib with
  | some c => post rep stOk [] (endCalib stOk c s)
  | none => post rep stOk [] s

def execCalibRunAbort (r : Req) (s : State) : Res := .next (mbx cmdCalibRunAbort false r calibRunAbort s)

/-- The records that a Lantern's measurement gives: four items for each slice that returned light, and the two laser
references (R451). -/
def measured (l : StackIx) (m : CalibFacts) : List (Nat × List Byte) :=
  let sl := (List.range 36).flatMap fun i =>
    match (m.slices.getD i none) with
    | some b => [(calibKey l (i * 4), padTo 2 b), (calibKey l (i * 4 + 1), padTo 2 (b.drop 2)),
                 (calibKey l (i * 4 + 2), padTo 5 (b.drop 4)), (calibKey l (i * 4 + 3), padTo 13 (b.drop 9))]
    | none => []
  sl ++ [(calibKey l 0x90, toLe 2 m.laserA.toNat), (calibKey l 0x91, toLe 2 m.laserB.toNat)]

/-- CALIB_LANTERN_DONE: the Lantern's records are written when it completes; the last Lantern ends the run with Daymark
event 0x020A. A Lantern whose LNI island does not run ends it with SERVICE_DOWN, a sag with NV_LOCKED (R451). -/
def execCalibLanternDone (l : StackIx) (m : CalibFacts) (s : State) : Res :=
  match s.calib with
  | none => .next s
  | some c =>
    if c.todo.contains l = false then .next s
    else if islRunning s (lniOf (stackShed l)) = false then .next (endCalib stServiceDown c s)
    else if s.jnl.nvLock then .next (endCalib stNvLocked c (setJnlEvt 3 s))
    else
      let recs := measured l m
      let failed := ((List.range 36).filter fun i => (m.slices.getD i none).isNone).length
      let c' := { c with todo := c.todo.erase l, written := c.written + BitVec.ofNat 32 recs.length,
                         failed := c.failed + BitVec.ofNat 32 failed }
      let s := modLantern l (fun q => { q with calibrating := false }) (appendAll recs { s with calib := some c' })
      .next (if c'.todo.isEmpty then coded 0x20A 0 (endCalib stOk c' s) else s)

end Sys2Proof.Machine
end

