-- ==== Sys2Proof/Machine/Links.lean ====
section
/-! DEFINITION. Lanterns, slices and laser inputs (R404 to R410), fabric links, flap damping and detach (R411 to R413,
R421, R422), LLDP (R417), partner health (R387), wear monitors (R386) and CALIB_RUN (R451). -/

namespace Sys2Proof.Machine

/-! ## Flap damping (R422) -/

/-- 2^(-1/2^k) in units of 2^-40, for k from 1 to 24. -/
def halfPowers : List Nat :=
  [777472127994, 924575386327, 1008256608221, 1052895941925, 1075951360882, 1087667703029, 1093573631100, 1096538610001, 1098024112669, 1098767618497, 1099139560184, 1099325578239, 1099418599072, 1099465112440, 1099488369862, 1099499998758, 1099505813251, 1099508720510, 1099510174142, 1099510900959, 1099511264367, 1099511446072, 1099511536924, 1099511582350]

/-- 2^(-f/2^24) in units of 2^-40. -/
def halfPow (f : Nat) : Nat :=
  (List.range 24).foldl (fun acc k => if f.testBit (23 - k) then acc * halfPowers.getD k 0 / 2 ^ 40 else acc) (2 ^ 40)

/-- A penalty after a time, halved in each half-life, rounded down. -/
def decayed (p dt hl : Nat) : Nat := p * halfPow (dt % hl * 2 ^ 24 / hl) / 2 ^ 40 / 2 ^ (dt / hl)

/-- A port's penalty at an LNI time. The spec does not say how PENALTY is rounded: a free choice of the two
neighbouring whole numbers, but for whole half-lives of a divisible penalty and for no time at all. -/
def penaltyNow (p : PortIx) (now : Nat) (s : State) : Nat × State :=
  let q := port s p
  let hl := max 1 (effective s 0x20E01)
  let dt := now - q.penaltyAt
  let d := decayed q.penalty.toNat dt hl
  if dt = 0 ∨ q.penalty = 0 ∨ (dt % hl = 0 ∧ q.penalty.toNat % 2 ^ (dt / hl) = 0) then (d, s)
  else
    let (k, s) := takePick s
    (d + k % 2, s)

/-- A link-down adds 1,000 up to the ceiling; at the suppress limit the port is suppressed, with event 0x0106. -/
def flap (p : PortIx) (now : Nat) (s : State) : State :=
  let (d, s) := penaltyNow p now s
  let n := min (d + 1000) (effective s 0x20E02)
  let q := port s p
  let s := modPort p (fun q => { q with penalty := BitVec.ofNat 14 n, penaltyAt := now }) s
  if effective s 0x20E03 ≤ n ∧ q.suppressed = false then
    coded 0x106 (lniOf (portShed p)) (setPrtEvt 3 0 p (modPort p (fun q => { q with suppressed := true }) s))
  else s

/-! ## Links and partners (R294, R421) -/

/-- Every frame queued for a port, in every Shed, is discarded and counted as LINK_DOWN (R294). -/
def discardPort (p : PortIx) (s : State) : State :=
  let mine (v : (ShedIx × Fin 4096) × Voq) : Bool := v.1.2.val / 8 == p.val
  let lost := (s.sw.voqs.filter mine).flatMap fun v => v.2.frames
  let s := { s with
    sw := { s.sw with voqs := s.sw.voqs.map fun v => if mine v then (v.1, { v.2 with frames := [] }) else v },
    routes := { s.routes with linkDown := satAdd s.routes.linkDown lost.length } }
  pfcSettle (lost.foldl (fun s f => finishFrame f s) (clearDeficits s))

/-- A partner changed by a function. -/
def modPartner (n : Node) (f : Partner → Partner) (s : State) : State := { s with partners := aAdjust s.partners n f }

/-- The partner whose port this is, when one is recorded. -/
def portPartner (s : State) (p : PortIx) : Option (Node × Partner) :=
  s.partners.find? fun q => q.2.ports.contains p && q.2.state ≠ .absent

/-- When every port of an admitted partner is down, it enters Holding, with event 0x0104 (R421). -/
def holdIfDown (n : Node) (p : Partner) (isl : IslandIx) (s : State) : State :=
  if p.state = .admitted ∧ p.ports.all (fun q => !linkUp s q) then
    let s := modPartner n (fun q => { q with state := .holding }) s
    let s := p.ports.foldl (fun s q => modPort q (fun x => { x with partner := 2 }) s) s
    codedD 0x104 isl 0 n.toNat 0 0 s
  else s

/-- A port's link goes down at an LNI time: its queued frames are discarded, its penalty rises, its partner may enter
Holding, and the service level is evaluated (R294, R421, R422, R26). -/
def portDown (p : PortIx) (now : Nat) (s : State) : State :=
  if (port s p).link ≠ 2 then modPort p (fun q => { q with link := 0, llr := false }) s
  else
    let isl := lniOf (portShed p)
    let s := modPort p (fun q => { q with link := 0, llr := false }) s
    let s := setPrtEvt 0 0 p (discardPort p s)
    let s := flap p now s
    let s := match portPartner s p with
      | some (n, q) => holdIfDown n q isl
          (modPartner n (fun q => { q with linkDowns := satInc q.linkDowns, wDowns := q.wDowns + 1 }) s)
      | none => s
    evalLevel s

/-- A port's link goes down at a time that the command does not give: a free time after the last one known. -/
def portDownFree (p : PortIx) (s : State) : State :=
  let (k, s) := takePick s
  portDown p ((port s p).penaltyAt + k) s

/-- FABRIC_LINK_DOWN (R421). -/
def execFabricLinkDown (p : PortIx) (now : Nat) (s : State) : Res := .next (portDown p now s)

/-- The lanes of a port's group. -/
def groupLanes (s : State) (p : PortIx) : List PortIx :=
  (List.range (lanesOf (port s p).width)).map fun i => Fin.ofNat 512 (p.val + i)

/-- No lane of the port's group is down or being calibrated. -/
def lanesLit (s : State) (p : PortIx) : Bool :=
  (groupLanes s p).all fun q =>
    let l := lantern s (portLantern q)
    !l.calibrating && !l.down.contains (portLane q) && !(if l.input then l.lostB else l.lostA)

/-- FABRIC_LINK_UP: the port's link is up, with link-level retry where both ends offer it (R413); a holding partner is
admitted again without a Hello (R421). A port whose LNI island does not run, whose lanes are not lit or that is a later
lane of a wider port brings up no link. -/
def execFabricLinkUp (p : PortIx) (peerLlr : Bool) (s : State) : Res :=
  if islRunning s (lniOf (portShed p)) = false ∨ lanesLit s p = false ∨ isMember s p ∨ linkUp s p then .next s
  else
    let s := modPort p (fun q => { q with link := 2, llr := peerLlr && !q.llrOff }) s
    let s := match portPartner s p with
      | some (n, q) =>
        if q.state = .holding ∧ (port s p).suppressed = false then
          let s := modPartner n (fun q => { q with state := .admitted }) s
          q.ports.foldl (fun s k => modPort k (fun x => { x with partner := 1 }) s) s
        else s
      | none => s
    .next (evalLevel s)

/-- FLAP_SUPPRESS_END: the penalty has decayed to the reuse limit, and the suppression ends with event 0x0107. -/
def execFlapSuppressEnd (p : PortIx) (now : Nat) (s : State) : Res :=
  if (port s p).suppressed = false then .next s
  else
    let (d, s) := penaltyNow p now s
    if effective s 0x20E04 < d then .next s
    else
      let s := modPort p (fun q => { q with suppressed := false, penalty := BitVec.ofNat 14 d, penaltyAt := now }) s
      .next (coded 0x107 (lniOf (portShed p)) s)

/-! ## LLDP (R417) -/

/-- The capability word of the device's Hello on a port (R418, R419). -/
def capsWord (s : State) (p : PortIx) : W32 := pack [(0, bitNat (!(port s p).llrOff)), (1, 1), (3, 1)]

/-- LLDP_TRANSMIT: an up port sends its LLDP frame. -/
def execLldpTransmit (p : PortIx) (s : State) : Res :=
  if linkUp s p then .next (emit (.lldp p (capsWord s p)) s) else .next s

/-- LLDP_RECEIVE: the chassis ID, the port ID and any Molup TLV of a frame are stored. -/
def execLldpReceive (p : PortIx) (chassis portId : List Byte) (molup : Option (List Byte)) (ttl : BitVec 16)
    (s : State) : Res :=
  if linkUp s p then .next (modPort p (fun q => { q with lldp := some { chassis, portId, molup, ttl } }) s) else .next s

/-- LLDP_TTL_EXPIRY: the stored information is discarded. -/
def execLldpTtlExpiry (p : PortIx) (s : State) : Res := .next (modPort p (fun q => { q with lldp := none }) s)

/-! ## Link-level retry (R412) and partner health (R387) -/

/-- LLR_REPLAY: codewords replayed and lost are counted, for the port and for its partner. -/
def execLlrReplay (p : PortIx) (codewords lost : Nat) (s : State) : Res :=
  if (port s p).llr = false then .next s
  else
    let s := modPort p (fun q => { q with retryCnt := satAdd q.retryCnt codewords, lostCw := satAdd q.lostCw lost }) s
    match portPartner s p with
    | some (n, _) =>
      .next (modPartner n (fun q => { q with retries := satAdd q.retries codewords, wRetries := q.wRetries + codewords }) s)
    | none => .next s

/-- The window score W (R387). -/
def windowScore (p : Partner) : Nat :=
  255 - (min (p.wRetries / 4096) 64 + min (2 * p.wExpiries) 96 + 64 * p.wFails + 32 * p.wDowns + 16 * p.wActs)

/-- PARTNER_HEALTH_WINDOW: W, and H := floor((3 H + W) / 4). -/
def execPartnerHealthWindow (n : Node) (s : State) : Res :=
  if admitted s n then
    .next (modPartner n (fun p => { p with
      last := BitVec.ofNat 8 (windowScore p), score := BitVec.ofNat 8 ((3 * p.score.toNat + windowScore p) / 4),
      wRetries := 0, wExpiries := 0, wFails := 0, wDowns := 0, wActs := 0 }) s)
  else .next s

/-! ## Slices (R405 to R408, R383) -/

/-- The free spare slices of a Lantern. -/
def freeSpares (l : Lantern) : List (Fin 36) :=
  ((List.range 4).map fun k => Fin.ofNat 36 (32 + k)).filter fun i => (slice l i).state == 2

/-- SPARES_FREE of LNT_STAT: the free spare slices; 4 while the slices are Off, its reset value. -/
def sparesFree (l : Lantern) : Nat :=
  (((List.range 4).map fun k => Fin.ofNat 36 (32 + k)).filter fun i => (slice l i).state == 2 || (slice l i).state == 0).length

/-- A slice is retired: bit i of the Lantern's mask is journalled (R383), unless the journal has it. -/
def retireSlice (l : StackIx) (i : Fin 36) (s : State) : State :=
  let key := 0x60040 + l.val
  let m := ((jValue s key).map leNat).getD 0
  let s := modLantern l (modSlice i fun q => { q with wear := orBit q.wear 2 }) s
  if m.testBit i.val then s else ownAppend (BitVec.ofNat 32 key) (toLe 8 (Nat.lor m (2 ^ i.val))) s

/-- A lane's channel moves to a spare slice that is tuned to it: LNT_SLICE_MAP, the old slice Fenced, event 0x0100
(R407). A hardware cause retires the old slice; a host request (cause 5) does not (R383). -/
def finishMove (l : StackIx) (a : Fin 32) (new : Fin 36) (cause : BitVec 8) (s : State) : State :=
  let old := laneSlice (lantern s l) a
  let s := modLantern l (fun q => { q with map := aSet q.map a new, down := q.down.erase a }) s
  let s := modLantern l (modSlice old fun q => { q with state := 5, cause, link := some new }) s
  let s := modLantern l (modSlice new fun q => { q with state := 3, link := some old }) s
  let s := coded 0x100 (lniOf (stackShed l)) (setLntEvt 0 l s)
  if cause = 5 then s else retireSlice l old s

/-- A lane moves to a spare slice (R407): the spare tuned to its wavelength, else another free one that is retuned
first. With none free NO_SPARE is set. A slice that has died leaves its lane down until a move completes (R408). -/
def moveLane (l : StackIx) (a : Fin 32) (cause : BitVec 8) (died : Bool) (s : State) : State :=
  let q := lantern s l
  let lam := (slice q (laneSlice q a)).lambda
  let down (s : State) : State :=
    if died then modLantern l (fun q => { q with down := q.down.erase a ++ [a] }) s else s
  if q.retuning.any (fun r => r.2.1 = a) then down s
  else
    let spares := freeSpares q
    match takeOne (spares.filter fun i => (slice q i).lambda == lam) s with
    | (some i, s) => finishMove l a i cause s
    | (none, s) =>
      match takeOne spares s with
      | (some i, s) =>
        let s := modLantern l (modSlice i fun x => { x with state := 4 }) s
        down (modLantern l (fun x => { x with retuning := x.retuning ++ [(i, a, cause)] }) s)
      | (none, s) => down (setLntEvt 2 l s)

/-- SLICE_MOVE: a lane's slice reports loss of lock or transmit power below its floor. -/
def execSliceMove (l : StackIx) (a : Fin 32) (s : State) : Res :=
  if (slice (lantern s l) (laneSlice (lantern s l) a)).state = 0 then .next s else .next (moveLane l a 6 true s)

/-- SLICE_RETUNE_DONE: a retuned spare takes its lane's wavelength, and the move is made. -/
def execSliceRetuneDone (l : StackIx) (i : Fin 36) (s : State) : Res :=
  match (lantern s l).retuning.find? (fun r => r.1 = i) with
  | none => .next s
  | some (_, a, cause) =>
    let lam := (slice (lantern s l) (laneSlice (lantern s l) a)).lambda
    let s := modLantern l (fun q => { q with retuning := q.retuning.filter fun r => ¬ r.1 = i }) s
    let s := modLantern l (modSlice i fun q => { q with lambda := lam }) s
    let s := finishMove l a i cause s
    .next (match aGet (lantern s l).moveReplies a with
    | some rep => post rep stOk [] (modLantern l (fun q => { q with moveReplies := aErase q.moveReplies a }) s)
    | none => s)

/-! ## Laser inputs (R409) -/

/-- LASER_INPUT_CHANGEOVER: the active input's light is lost, and the Lantern changes to its standby; the level is
evaluated (R26). With both inputs lost the Lantern's lanes go dark (R380). -/
def execLaserInputChangeover (l : StackIx) (s : State) : Res :=
  let onB := (lantern s l).input
  let s := modLantern l (fun q => if onB then { q with lostB := true } else { q with lostA := true }) s
  .next (evalLevel (changeLaser l s))

/-- A caller may write the Shed blocks' KW fields: Keeper firmware alone (R462); PF0's write is discarded (R7). -/
def isKeeper (c : Caller) : Bool := c == .keeper

/-- LASER_INPUT_FORCE: FORCE in LNT_CTL is a KW field; the Keeper's write changes to the standby input. -/
def execLaserInputForce (c : Caller) (l : StackIx) (s : State) : Res :=
  if isKeeper c then .next (evalLevel (changeLaser l s)) else .next s

/-! ## Wear monitors of a Lantern (R386) -/

/-- Events 0x000C and 0x000D when a WARN or an ACT threshold is reached. -/
def wearEvents (l : StackIx) (was now : BitVec 2) (s : State) : State :=
  let isl := lniOf (stackShed l)
  let s := if now.getLsbD 0 ∧ was.getLsbD 0 = false then codedD 0xC isl 0 0 l.val 0 s else s
  if now.getLsbD 1 ∧ was.getLsbD 1 = false then codedD 0xD isl 0 0 l.val 0 s else s

/-- A signed 16-bit power. -/
def powerOf (v : BitVec 16) : Int := v.toInt

/-- The calibrated power of a laser input (R415), or the design value (R416). -/
def laserRef (s : State) (l : StackIx) (j : Nat) : Int :=
  match jValue s (calibKey l (0x90 + j)) with
  | some v => powerOf (fieldLe 16 v 0 2)
  | none => Config.designLaser

/-- WARN and ACT of a laser input by its shortfall in 0.01 dB. -/
def laserFlags (s : State) (l : StackIx) (j : Nat) (p : BitVec 16) : BitVec 2 :=
  let short := laserRef s l j - powerOf p
  BitVec.ofNat 2 (bitNat (decide ((effective s 0x50000 : Int) ≤ short)) + 2 * bitNat (decide ((effective s 0x50001 : Int) ≤ short)))

/-- The laser inputs' monitors: registers, thresholds, and the change to the other input at ACT, unless that input is
lower, or 6 dB below its calibrated power (R386, R409). -/
def evalLasers (l : StackIx) (m : WearFacts) (s : State) : State :=
  let q := lantern s l
  let fa := laserFlags s l 0 m.laserA
  let fb := laserFlags s l 1 m.laserB
  let s := wearEvents l (q.laserWear.setWidth 2) fa s
  let s := wearEvents l ((q.laserWear >>> 2).setWidth 2) fb s
  let s := modLantern l (fun q => { q with
             laserA := m.laserA, laserB := m.laserB, lostA := q.lostA && fa.getLsbD 1, lostB := q.lostB && fb.getLsbD 1,
             laserWear := fa.setWidth 4 ||| (fb.setWidth 4 <<< 2) }) s
  let act := if q.input then fb.getLsbD 1 else fa.getLsbD 1
  let mine := if q.input then powerOf m.laserB else powerOf m.laserA
  let other := if q.input then powerOf m.laserA else powerOf m.laserB
  let fell := decide (600 ≤ laserRef s l (bitNat q.input) - mine)
  if (act ∧ mine ≤ other) ∨ fell then changeLaser l s else s

/-- WARN and ACT of a slice: heater share, eye margin share, bit error ratio. -/
def sliceFlags (s : State) (w : Nat × Nat × Nat) : BitVec 2 :=
  let e := effective s
  let warn := decide (e 0x50002 ≤ w.1) || decide (w.2.1 ≤ e 0x50004) || decide (e 0x50006 ≤ w.2.2)
  let act := decide (e 0x50003 ≤ w.1) || decide (w.2.1 ≤ e 0x50005) || decide (e 0x50007 ≤ w.2.2)
  BitVec.ofNat 2 (bitNat warn + 2 * bitNat act)

/-- The lane that a slice drives. -/
def sliceLane (l : Lantern) (i : Fin 36) : Option (Fin 32) :=
  ((List.range 32).map fun a => Fin.ofNat 32 a).find? fun a => laneSlice l a = i

/-- One slice's monitors: registers, thresholds, and the lane's move at ACT; a lane that reaches ACT counts in its
partner's health window (R387). -/
def evalSlice (l : StackIx) (i : Fin 36) (w : Nat × Nat × Nat) (s : State) : State :=
  let q := slice (lantern s l) i
  let f := sliceFlags s w
  let was : BitVec 2 := q.wear.setWidth 2
  let s := wearEvents l was f s
  let s := modLantern l (modSlice i fun x => { x with
    heater := BitVec.ofNat 7 w.1, eye := BitVec.ofNat 7 w.2.1, wear := (x.wear &&& 4) ||| f.setWidth 3 }) s
  if f.getLsbD 1 ∧ was.getLsbD 1 = false then
    match sliceLane (lantern s l) i with
    | some a =>
      let s := match portPartner s (lanePort l a) with
        | some (n, _) => modPartner n (fun p => { p with wActs := p.wActs + 1 }) s
        | none => s
      moveLane l a 4 false s
    | none => s
  else s

/-- The slices' monitors, in slice order. -/
def evalSlices (l : StackIx) : Nat → List (Nat × Nat × Nat) → State → State
  | _, [], s => s
  | i, w :: ws, s =>
    let st := (slice (lantern s l) (Fin.ofNat 36 i)).state
    evalSlices l (i + 1) ws (if i < 36 ∧ st ≠ 0 ∧ st ≠ 5 then evalSlice l (Fin.ofNat 36 i) w s else s)

/-- WEAR_MONITOR_EVAL (R386): every 100 ms of the LNI island, which must run. -/
def execWearMonitorEval (l : StackIx) (m : WearFacts) (s : State) : Res :=
  if islRunning s (lniOf (stackShed l)) then .next (evalSlices l 0 m.slices (evalLasers l m s)) else .next s

/-! ## CALIB_RUN (R451) -/

def cmdCalibRun : Cmd := { op := 0xD0, fields := [(0, 2)] }

/-- CALIB_RUN: the ports of the Lanterns concerned go down, and the run waits for each Lantern's completion. A Lantern
whose LNI island does not run ends the command with SERVICE_DOWN. -/
def calibRun (r : Req) (rep : Reply) (s : State) : State :=
  let one := leAt r.payload 0 1
  let l := leAt r.payload 1 1
  if 1 < one ∨ 15 < l then post rep stBadParam [] s
  else if s.calib.isSome then post rep stBusy [] s
  else if s.jnl.nvLock then nvLocked rep s
  else
    let ls : List StackIx := if one = 1 then [Fin.ofNat 16 l] else (List.range 16).map fun i => Fin.ofNat 16 i
    if ls.any (fun l => !islRunning s (lniOf (stackShed l))) then post rep stServiceDown [] s
    else
      let s := ls.foldl (fun s l => modLantern l (fun q => { q with calibrating := true }) s) s
      let ps := ls.flatMap fun l => (List.range 32).map fun a => lanePort l (Fin.ofNat 32 a)
      let s := ps.foldl (fun s p => if linkUp s p then portDown p r.now s else s) s
      { s with calib := some { reply := rep, todo := ls } }

def execCalibRun (r : Req) (s : State) : Res := .next (mbx cmdCalibRun false r (calibRun r) s)

end Sys2Proof.Machine
end

