-- ==== Sys2Proof/Machine/Near.lean ====
section
/-! DEFINITION. The near tier (R37 to R51, R491): where a block lies, which locations can be read and written, page
retirement, failed stacks, the mirrored control area, and the frames that hold NEAR homes. -/

namespace Sys2Proof.Machine

/-! ## Stacks and their events -/

def stk (s : State) (k : StackIx) : Stack := aGetD s.near.stks k {}
def modStk (k : StackIx) (f : Stack → Stack) (s : State) : State :=
  { s with near := { s.near with stks := aMod s.near.stks k {} f } }

/-- The stack block of a stack: Shed offset +0x2C_0000 + k × 0x1_0000. -/
def stkBase (k : StackIx) : Nat := shedBase (stackShed k) + 0x2C0000 + k.val % 4 * 0x10000

def setNtsEvt (bit : Nat) (k : StackIx) (s : State) : State :=
  evtBit (stkBase k + 0x18) bit (shcOf (stackShed k)) (modStk k (fun q => { q with evt := orBit q.evt bit }) s)

def allStacks : List StackIx := (List.range 16).map (Fin.ofNat 16)

/-- The stack is Failed (R46). -/
def stackFailed (s : State) (k : StackIx) : Bool := (stk s k).state == 3

/-- The stack is Online and its NTM island runs. -/
def stackUp (s : State) (k : StackIx) : Bool := (stk s k).state == 2 && islRunning s (ntmOf k)

/-! ## Locations (R43, R49) -/

/-- Locations of a stack, its reserve locations (2 %), the first of them, and the blocks of a control-area copy on it. -/
def stackLocs : Nat := 12582912
def reserveCount : Nat := 251658
def reserveBase : Nat := stackLocs - reserveCount
def ctlPerStack (s : State) : Nat := s.near.ctl / 4096 / 8
/-- The rows of the striped space. -/
def stripeRows (s : State) : Nat := reserveBase - ctlPerStack s

/-- The row of a near block, the stack of its row's parity, and the stack that holds it (R43). -/
def blockRow (b : Nat) : Nat := b / 15
/-- The stack of a row's parity. -/
def parityStack (r : Nat) : StackIx := Fin.ofNat 16 (15 - r % 16)
/-- The stack of a block. -/
def blockStack (b : Nat) : StackIx :=
  let j := b % 15
  if j < (parityStack (blockRow b)).val then Fin.ofNat 16 j else Fin.ofNat 16 (j + 1)

/-- What the device can do with a location now. -/
inductive LocSt where
  /-- It is read and written. -/
  | up
  /-- Its retirement copy runs (R49). -/
  | copying
  /-- Missing: on a Failed stack, or under R50. -/
  | gone
  /-- On a fenced island, or on a stack that is not Online. -/
  | away
deriving DecidableEq, Repr

/-- The state of location r of a stack. -/
def locSt (s : State) (r : Nat) (k : StackIx) : LocSt :=
  let q := stk s k
  if q.state = 3 ∨ q.missing.contains r then .gone
  else if stackUp s k = false then .away
  else if q.copying.any (fun c => c.1 == r) then .copying
  else .up

/-- The states of the row's other locations. -/
def others (s : State) (r : Nat) (but : List StackIx) : List LocSt :=
  (allStacks.filter fun k => ¬ but.contains k).map (locSt s r)

/-- The location that holds a row's part on a stack now. -/
def locOf (s : State) (k : StackIx) (row : Nat) : Nat := aGetD (stk s k).remap row row

/-- What a location's ECC reports when it is read now. -/
def eccAt (s : State) (k : StackIx) (row : Nat) : EccResult := aGetD s.near.flaws (k, locOf s k row) .clean

/-- A location whose read now would report an uncorrectable error: its block must be rebuilt. -/
def badLoc (s : State) (k : StackIx) (row : Nat) : Bool := locSt s row k == .up && eccAt s k row == .uncorrectable

/-- What a read or a write of a near block meets. -/
inductive NearSt where
  | fine
  | wait
  | away
  | poisoned
deriving DecidableEq, Repr

/-- The first of the hindrances that a list of locations shows: one out of reach, one missing, one being copied. -/
def hindrance (ls : List LocSt) : NearSt :=
  if ls.contains .away then .away else if ls.contains .gone then .poisoned
  else if ls.contains .copying then .wait else .fine

/-- A read of block b (R45 to R48, R50): its own location, or the rebuild from the other 15 locations of the row, as also
where its own location reports an uncorrectable error. -/
def readSt (s : State) (b : Nat) : NearSt :=
  let r := blockRow b
  let k := blockStack b
  match locSt s r k with
  | .up => if badLoc s k r then hindrance (others s r [k]) else .fine
  | .copying => .wait
  | .gone => if (others s r [k]).contains .gone then .poisoned else hindrance (others s r [k])
  | .away => if hindrance (others s r [k]) = .fine then .fine else .away

/-- A write of block b (R44, R46, R48, R50, R491). With the parity location missing only the data is written; with the
data location missing, or old data or old parity that cannot be read, the parity needs the other 14 data blocks of the
row. -/
def writeSt (s : State) (b : Nat) : NearSt :=
  let r := blockRow b
  let k := blockStack b
  let p := parityStack r
  let d := locSt s r k
  let q := locSt s r p
  if d = .away ∨ q = .away then .away
  else if d = .copying ∨ q = .copying then .wait
  else if d = .gone ∧ q = .gone then .poisoned
  else if d = .gone ∨ (q = .up ∧ (badLoc s k r ∨ badLoc s p r)) then hindrance (others s r [k, p])
  else .fine

/-- A near block's bytes. -/
def nearBlock (s : State) (b : Nat) : List Byte := readBytes s.near.mem (b * 4096) 4096

/-- A near block's bytes written. -/
def putNear (b : Nat) (bs : List Byte) (s : State) : State :=
  { s with near := { s.near with mem := writeBytes s.near.mem (b * 4096) bs } }

/-! ## Reserve locations, retirement, failure (R46, R49, R50) -/

/-- The stack's reserve locations that are free. -/
def reserveFree (q : Stack) : Nat := reserveCount - q.taken.length

/-- RES_LOW and RES_EMPTY of NTS_STAT. -/
def resLow (q : Stack) : Bool := decide (reserveFree q * 10 < reserveCount)
/-- RES_EMPTY of NTS_STAT. -/
def resEmpty (q : Stack) : Bool := reserveFree q == 0

/-- A free reserve location: any, or none where none is left. -/
def freeReserve (q : Stack) (s : State) : Option Nat × State :=
  let (n, s) := takePick s
  let c := reserveBase + n % reserveCount
  (if q.taken.contains c then
    ((List.range (q.taken.length + 1)).map fun i => reserveBase + i).find? fun r =>
      decide (r < stackLocs) && !q.taken.contains r
  else some c, s)

/-- A reserve location is taken, with the events of RES_LOW and RES_EMPTY. -/
def takeReserve (k : StackIx) (r : Nat) (s : State) : State :=
  let old := stk s k
  let s := modStk k (fun q => { q with taken := q.taken ++ [r] }) s
  let s := if resLow (stk s k) ∧ resLow old = false then setNtsEvt 3 k s else s
  if resEmpty (stk s k) ∧ resEmpty old = false then setNtsEvt 4 k s else s

/-! ## The control area's copies (R37, R38, R492) -/

/-- The stack of control block i in a copy: stack (i mod 8) of the copy's half. -/
def ctlStack (half : Bool) (i : Nat) : StackIx := Fin.ofNat 16 ((if half then 8 else 0) + i % 8)

/-- Where control block i of a copy lies: on its own stack just below the reserve, or in the reserve location of another
stack where it has been placed. -/
def ctlAt (s : State) (half : Bool) (i : Nat) : StackIx × Nat :=
  (aGet s.near.placed (half, i)).getD (ctlStack half i, stripeRows s + i / 8)

/-- The control block, with its copy, that a location of a stack holds. -/
def ctlBlockAt (s : State) (k : StackIx) (row : Nat) : Option (Bool × Nat) :=
  if stripeRows s ≤ row ∧ row < reserveBase then some (decide (8 ≤ k.val), (row - stripeRows s) * 8 + k.val % 8)
  else (s.near.placed.find? fun p => p.2 == (k, row)).map (·.1)

/-- The resynchronisation map holds control block i of a copy. -/
def inResync (s : State) (half : Bool) (i : Nat) : Bool :=
  s.near.unplaced.contains (half, i)
    || ((aGet s.near.placed (half, i)).isNone && match aGet s.near.resync (ctlStack half i) with
        | some left => !left.contains i
        | none => false)

/-- What can be done with control block i of a copy now: a block in the map waits for its copy. -/
def ctlSt (s : State) (half : Bool) (i : Nat) : LocSt :=
  let (k, row) := ctlAt s half i
  let st := locSt s row k
  if st = .up ∧ inResync s half i then .away else st

/-- Control block i of a copy can be read. -/
def ctlCopyUp (s : State) (half : Bool) (i : Nat) : Bool := ctlSt s half i == .up

/-- Control block i can be read from one of its copies. -/
def ctlUp (s : State) (i : Nat) : Bool := ctlCopyUp s false i || ctlCopyUp s true i

/-- CTL_SINGLE of the stacks of a half (R38). -/
def ctlSingle (s : State) (half : Bool) : Bool :=
  (s.near.resync.any fun p => decide (8 ≤ p.1.val) == half) || s.near.unplaced.any fun p => p.1 == half

/-- Blocks that are placed on a stack enter the map. -/
def unplace (k : StackIx) (s : State) : State :=
  let bs := (s.near.placed.filter fun p => p.2.1 = k).map (·.1)
  { s with near := { s.near with unplaced := s.near.unplaced ++ bs.filter fun b => ¬ s.near.unplaced.contains b } }

/-- The control-area blocks of a stack that cannot be written enter the map (R38): those whose other copy can be written
meanwhile. A block that can be written in neither copy stays as it is. -/
def enterResync (k : StackIx) (s : State) : State :=
  let mate : StackIx := Fin.ofNat 16 (k.val + 8)
  let s := unplace k s
  if stackUp s mate = false ∧ s.near.placed = [] then s
  else
    let kept : List Nat := if (aGet s.near.resync mate).isNone ∧ s.near.placed = [] then []
      else ((List.range (ctlPerStack s)).map fun r => r * 8 + k.val % 8).filter fun i => !ctlCopyUp s (decide (k.val < 8)) i
    { s with near := { s.near with resync := aSet s.near.resync k kept } }

/-- A stack is declared Failed (R46), and its control-area blocks enter the resynchronisation map (R38), to be placed on
other stacks. -/
def failStack (k : StackIx) (s : State) : State :=
  if stackFailed s k then s
  else
    let s := unplace k (modStk k (fun q => { q with state := 3, copying := [] }) s)
    setNtsEvt 2 k { s with near := { s.near with
      resync := aSet s.near.resync k [], placed := s.near.placed.filter fun p => ¬ p.2.1 = k } }

/-- The striped location that a location stands for: itself, or the one that a reserve location replaces. -/
def standsFor (q : Stack) (loc : Nat) : Nat := ((q.remap.find? fun p => p.2 == loc).map (·.1)).getD loc

/-- What the block of a location is rebuilt from: the other locations of its row, or the other copy of a control block
(R37, R45). -/
def rebuildFrom (s : State) (k : StackIx) (row : Nat) : List LocSt :=
  if row < stripeRows s then others s row [k]
  else match ctlBlockAt s k row with
    | some (half, i) => [ctlSt s (!half) i]
    | none => []

/-- A reserve location that holds no block. -/
def idleReserve (q : Stack) (loc : Nat) : Bool := decide (reserveBase ≤ loc) && !q.taken.contains loc

/-- A location is no longer to be used (R49, R50): its retirement starts where retirement is enabled, a reserve location
is free and its block can be rebuilt, else, after an uncorrectable error, it is missing. A reserve location that holds no
block is set aside. -/
def retire (k : StackIx) (loc : Nat) (ue : Bool) (s : State) : State :=
  let q := stk s k
  let row := standsFor q loc
  let lost := ue && (rebuildFrom s k row).contains .gone
  if idleReserve q loc then takeReserve k loc s
  else match freeReserve q s with
    | (some r, s) =>
      if q.retireEn ∧ lost = false then modStk k (fun q => { q with copying := q.copying ++ [(row, r, ue)] }) (takeReserve k r s)
      else if ue then modStk k (fun q => { q with missing := q.missing ++ [row] }) s
      else s
    | (none, s) => if ue then modStk k (fun q => { q with missing := q.missing ++ [row] }) s else s

/-- The patrol reads a location (R51): a retired, missing or copying one is passed by. -/
def patrolReads (q : Stack) (loc : Nat) : Bool :=
  let row := standsFor q loc
  decide (loc < stackLocs) && !(q.remap.any fun p => p.1 == loc && p.2 ≠ loc) && !q.missing.contains row
    && !(q.copying.any fun c => c.1 == row)

/-- An uncorrectable error at a location (R45, R46, R49): counted; the 64th of a pass fails the stack. -/
def uncorrectable (k : StackIx) (loc : Nat) (s : State) : State :=
  let s := setNtsEvt 1 k (modStk k (fun q => { q with ue := satInc q.ue, passUe := q.passUe + 1 }) s)
  if 64 ≤ (stk s k).passUe then failStack k s else retire k loc true s

/-- A corrected error at a location: counted; at CE_THR in a pass the location is retired (R49). -/
def correctedErr (k : StackIx) (loc : Nat) (s : State) : State :=
  let s := modStk k (fun q => { q with ce := satInc q.ce, passCe := aMod q.passCe loc 0 (· + 1) }) s
  let q := stk s k
  if q.ceThr ≠ 0 ∧ q.ceThr.toNat ≤ aGetD q.passCe loc 0 then retire k loc false s else s

/-- A patrol read and, at the end of a pass, the counts of the pass cleared. -/
def patrol (k : StackIx) (loc : Nat) (ecc : EccResult) (last : Bool) (s : State) : State :=
  let q := stk s k
  if q.patrolEn = false ∨ stackUp s k = false then s
  else
    let s := if patrolReads q loc then
        match ecc with
        | .clean => s
        | .corrected => correctedErr k loc s
        | .uncorrectable => uncorrectable k loc s
      else s
    if last then modStk k (fun q => { q with passUe := 0, passCe := [] }) s else s

/-- A retirement's copy completes (R49): the table names the reserve location. A block that can no longer be rebuilt
leaves the location missing; a copy that needs a fenced island's locations has not completed. -/
def copyDone (k : StackIx) (loc : Nat) (s : State) : State :=
  match (stk s k).copying.find? (fun c => c.1 == loc) with
  | none => s
  | some (row, r, ue) =>
    let drop (q : Stack) : Stack := { q with copying := q.copying.filter fun c => ¬ c.1 = row }
    let rest := rebuildFrom s k row
    if stackUp s k = false ∨ (ue ∧ rest.contains .away) then s
    else if ue ∧ rest.contains .gone then modStk k (fun q => { drop q with missing := q.missing ++ [row] }) s
    else setNtsEvt 0 k (modStk k (fun q => { drop q with remap := aSet q.remap row r, retired := q.retired + 1 }) s)

/-! ## Errors that reads meet (R37, R45, R49) -/

/-- A location that can be read is read: what its ECC reports is counted, once, and followed by its retirement. -/
def meetLoc (k : StackIx) (row : Nat) (s : State) : State :=
  if locSt s row k ≠ .up then s
  else
    let loc := locOf s k row
    let s' : State := { s with near := { s.near with flaws := aErase s.near.flaws (k, loc) } }
    match eccAt s k row with
    | .clean => s
    | .corrected => correctedErr k loc s'
    | .uncorrectable => uncorrectable k loc s'

/-- A near block that an access has used: the errors of its own location, and, for a store, of its row's parity. -/
def meetBlock (b : Nat) (store : Bool) (s : State) : State :=
  let r := blockRow b
  let s := meetLoc (blockStack b) r s
  if store then meetLoc (parityStack r) r s else s

/-- Control block i is read from one of its copies: an uncorrectable error there turns to the other copy (R37). -/
def meetCtl (i : Nat) (s : State) : State :=
  let half := !ctlCopyUp s false i
  let (k, row) := ctlAt s half i
  if ctlCopyUp s half i then meetLoc k row s else s

/-! ## The resynchronisation map (R38) -/

/-- Block i of a copy leaves the map, and the stack's entry with its last block. -/
def leaveResync (half : Bool) (i : Nat) (s : State) : State :=
  let k := ctlStack half i
  let m := match aGet s.near.resync k with
    | some left =>
      if left.contains i then s.near.resync
      else if left.length + 1 = ctlPerStack s then aErase s.near.resync k else aSet s.near.resync k (left ++ [i])
    | none => s.near.resync
  { s with near := { s.near with resync := m, unplaced := s.near.unplaced.filter fun b => ¬ b = (half, i) } }

/-- A mapped block is copied from the surviving copy into the returning copy. -/
def resyncBlock (half : Bool) (i : Nat) (s : State) : State :=
  if inResync s half i ∧ i < s.near.ctl / 4096 ∧ stackUp s (ctlAt s half i).1 ∧ ctlCopyUp s (!half) i then leaveResync half i s
  else s

/-- A write of control block i: a mapped block is written to both copies where its location can be written again, and
leaves the map. -/
def writeCtl (i : Nat) (s : State) : State :=
  let s := if stackUp s (ctlAt s false i).1 then resyncBlock false i s else s
  if stackUp s (ctlAt s true i).1 then resyncBlock true i s else s

/-- The stacks of a half on which a control block of another stack can be placed. -/
def placeStacks (s : State) (half : Bool) : List StackIx :=
  allStacks.filter fun k => (decide (8 ≤ k.val) == half) && stackUp s k && !resEmpty (stk s k)

/-- A block whose location lies on a Failed stack is placed in a reserve location of another stack of its half. Which
stack receives it is free. -/
def placeBlock (half : Bool) (i : Nat) (s : State) : State :=
  let k := (ctlAt s half i).1
  if inResync s half i ∧ i < s.near.ctl / 4096 ∧ stackFailed s k ∧ islRunning s (ntmOf k) ∧ ctlCopyUp s (!half) i then
    let c := placeStacks s half
    let (n, s) := takePick s
    match (c.drop (n % c.length)).head? with
    | none => s
    | some j =>
      match freeReserve (stk s j) s with
      | (none, s) => s
      | (some r, s) =>
        let s := takeReserve j r s
        leaveResync half i { s with near := { s.near with placed := aSet s.near.placed (half, i) (j, r) } }
  else s

/-! ## Frames of NEAR homes (R41, R42) -/

/-- The FLASH map area: 1 GiB for each started TiB of the logical capacity of the flash trays (R42). -/
def flashLogical (s : State) (n : Node) : Nat :=
  Config.flashSlots n * (100 - effective s 0x20205) / 100 / 512

/-- The GiB of map that a tray needs. -/
def trayMapGib (s : State) (n : Node) : Nat := (flashLogical s n * 2 ^ 21 + 2 ^ 40 - 1) / 2 ^ 40

/-- The map bytes of the mounted trays. -/
def flashMapUsed (s : State) : Nat :=
  ((s.pool.trays.filter fun t => t.2.mounted).map fun t => trayMapGib s t.1).sum * 2 ^ 30

/-- The frames for NEAR homes: the striped space without the session records, the FLASH map area, the stage pool and
the Input Journal (R42). -/
def nearFrames (s : State) : Nat :=
  (stripeRows s * 15 * 4096 - (2 ^ 28 + flashMapUsed s + s.near.stagePool + s.ijn.area)) / 2 ^ 21

/-- A NEAR frame can be written whole: every NTM island runs, and fewer than two stacks are Failed (R41). -/
def nearWhole (s : State) : Bool :=
  (List.range 8).all (fun i => islRunning s (islNo (17 + i))) && decide ((allStacks.filter (stackFailed s)).length < 2)

/-- No row of the frame has two missing locations (R41). Frame f holds near blocks 512 f to 512 f + 511. -/
def frameOk (s : State) (f : Nat) : Bool :=
  let r0 := blockRow (512 * f)
  let r1 := blockRow (512 * f + 511)
  (List.range (r1 + 1 - r0)).all fun i => decide (((others s (r0 + i) []).filter (· == .gone)).length < 2)

end Sys2Proof.Machine
end

