-- ==== Sys2Proof/Machine/Pool.lean ====
section
/-! DEFINITION. Extents (R30 to R42): leaf entries and their directory, the Extent Translation Caches, the control
area's budget (R492), quotas (R355 to R357), and the frames of the four tiers. -/

namespace Sys2Proof.Machine

/-! ## Addresses (R30) -/

/-- The extent number of a Pool Address, and the block number in bits [55:12]. -/
def addrExt (a : BitVec 56) : BitVec 35 := BitVec.ofNat 35 (a.toNat / 2 ^ 21)
/-- The Pool Address of an extent. -/
def extAddr (e : BitVec 35) : Nat := e.toNat * 2 ^ 21
/-- The byte's place in its extent. -/
def addrOff (a : BitVec 56) : Nat := a.toNat % 2 ^ 21

/-! ## Codes -/

def tierCode (t : Tier) : Nat := match t with | .near => 0 | .lent => 1 | .tray => 2 | .flash => 3
def tierOf (n : Nat) : Option Tier :=
  match n with | 0 => some .near | 1 => some .lent | 2 => some .tray | 3 => some .flash | _ => none
def clsOf (n : Nat) : Option Cls := match n with | 0 => some .ordinary | 1 => some .rebuildable | 2 => some .sealed | _ => none

/-- The classes that a tier holds (R39): LENT takes Rebuildable only. -/
def tierAllows (t : Tier) (c : Cls) : Bool := t ≠ .lent || c == .rebuildable

/-! ## Leaf entries and their homes (R34, R35) -/

/-- What is kept of an extent, allocated or not; its GEN outlives it. -/
def extAt (s : State) (k : ExtKey) : Extent := aGetD s.pool.exts k {}

/-- The valid leaf entry of an extent. -/
def leaf (s : State) (k : ExtKey) : Option Extent := if (extAt s k).v then some (extAt s k) else none

/-- Home state that is no part of the leaf entry changes: owner record, reader set, reclaim. -/
def modExt (k : ExtKey) (f : Extent → Extent) (s : State) : State :=
  { s with pool := { s.pool with exts := aMod s.pool.exts k {} f } }

/-- The home Shed changes a leaf entry: every Extent Translation Cache drops it first, and GEN rises (R35). The entry's
control block is written (R38). -/
def setLeaf (k : ExtKey) (f : Extent → Extent) (s : State) : State :=
  writeCtl (Config.leafBlock k.1 k.2 % (s.near.ctl / 4096)) { s with pool := { s.pool with
    exts := aMod s.pool.exts k {} fun e => { f e with gen := e.gen + 1 },
    etc := s.pool.etc.map fun c => (c.1, c.2.filter fun x => ¬ x = k) } }

/-- The home slot, the home Shed of an extent (R13). -/
def keySlot (k : ExtKey) : Fin 4 := extentSlot k.1 k.2
def keyHome (s : State) (k : ExtKey) : ShedIx := homeMap s (keySlot k)

/-- An ingress Shed translates (R36): the leaf entry becomes the most recently used of its cache, which holds 65,536. -/
def touchEtc (sh : ShedIx) (k : ExtKey) (s : State) : State :=
  { s with pool := { s.pool with
    etc := aMod s.pool.etc sh [] fun l => (k :: l.filter fun x => ¬ x = k).take 65536 } }

/-- The cache of a Shed holds a leaf entry. -/
def etcHit (s : State) (sh : ShedIx) (k : ExtKey) : Bool := (aGetD s.pool.etc sh []).contains k

/-! ## The control area's remainder (R492) -/

/-- The free bytes of each copy of the control area. -/
def ctlFree (s : State) : Nat :=
  s.near.ctl - (s.near.dsSize + Config.ctlOwn + s.near.ctlUsed + 80 * s.sec.log.length)

def ctlTake (n : Nat) (s : State) : State := { s with near := { s.near with ctlUsed := s.near.ctlUsed + n } }
def ctlGive (n : Nat) (s : State) : State := { s with near := { s.near with ctlUsed := s.near.ctlUsed - n } }

/-! ## Directory entries (R32, R33) -/

def dir1Key (k : ExtKey) : BitVec 12 × BitVec 12 := (k.1, BitVec.ofNat 12 (k.2.toNat / 2 ^ 23))
def dir2Key (k : ExtKey) : BitVec 12 × BitVec 24 := (k.1, BitVec.ofNat 24 (k.2.toNat / 2 ^ 11))

/-- The Pen has a level-1 table: one of its level-1 entries is valid. -/
def hasL1 (s : State) (p : BitVec 12) : Bool := s.pool.dir1.any fun d => d.1.1 == p && d.2.v

/-- The bytes of the tables that a new leaf entry needs: level 1, 2 and 3, where absent, and a descriptor plane. -/
def tablesNeed (s : State) (k : ExtKey) (comp : Bool) : Nat :=
  (if hasL1 s k.1 then 0 else 65536) + (if (aGetD s.pool.dir1 (dir1Key k) {}).v then 0 else 65536)
    + (if (aGetD s.pool.dir2 (dir2Key k) {}).v then 0 else 32768) + (if comp then 2048 else 0)

/-- A directory entry with one more valid leaf below it; a new table's address is free. -/
def dirAdd (ptr : BitVec 49) (d : DirEntry) : DirEntry :=
  { v := true, ptr := if d.v then d.ptr else ptr, count := d.count + 1, gen := d.gen + 1 }

/-- A directory entry with one valid leaf less: its table is freed with the last (R33). -/
def dirSub (d : DirEntry) : DirEntry :=
  { d with v := d.count ≠ 1, ptr := if d.count = 1 then 0 else d.ptr, count := d.count - 1, gen := d.gen + 1 }

/-- A leaf entry becomes valid: directories and the budget follow. -/
def dirAlloc (k : ExtKey) (comp : Bool) (s : State) : State :=
  let need := tablesNeed s k comp
  let (p0, s) := takeFree 48 s
  let s := if hasL1 s k.1 then s else modPen k.1 (fun q => { q with l1 := p0.setWidth 64 <<< 16 }) s
  let (p1, s) := takeFree 49 s
  let (p2, s) := takeFree 49 s
  ctlTake need { s with pool := { s.pool with
    dir1 := aMod s.pool.dir1 (dir1Key k) {} (dirAdd (p1 &&& ~~~1)), dir2 := aMod s.pool.dir2 (dir2Key k) {} (dirAdd p2) } }

/-- A leaf entry's V is cleared: the tables left empty are freed, and the descriptor plane. -/
def dirFree (k : ExtKey) (comp : Bool) (s : State) : State :=
  let s := { s with pool := { s.pool with
    dir1 := aMod s.pool.dir1 (dir1Key k) {} dirSub, dir2 := aMod s.pool.dir2 (dir2Key k) {} dirSub,
    desc := s.pool.desc.filter fun d => ¬ (d.1.1 = k.1 ∧ d.1.2 / 512 = k.2.toNat) } }
  let s := if hasL1 s k.1 then s else modPen k.1 (fun q => { q with l1 := 0 }) s
  ctlGive (tablesNeed s k comp) s

/-! ## Quotas (R355 to R357) -/

/-- The extents of a Pen that count in a tier: its homes there and the targets of its migrations (R356). -/
def tierUse (s : State) (p : BitVec 12) (t : Tier) : Nat :=
  (s.pool.exts.filter fun e => e.1.1 = p && e.2.v && e.2.tier == t).length
    + (s.pool.migs.filter fun m => m.key.1 = p && m.target == t).length

/-- The Pen's quota of a tier; 0xFFFF_FFFF is no limit. -/
def tierQuota (s : State) (p : BitVec 12) (t : Tier) : W32 :=
  match t with
  | .near => (pen s p).qNear
  | .lent => (pen s p).qLent
  | .tray => (pen s p).qTray
  | .flash => (pen s p).qFlash

/-- A count lies under a 32-bit quota. -/
def underQuota (q : W32) (n : Nat) : Bool := q == 0xFFFFFFFF || decide (n < q.toNat)

/-- The Pen may have one more extent in a tier. -/
def quotaRoom (s : State) (p : BitVec 12) (t : Tier) : Bool := underQuota (tierQuota s p t) (tierUse s p t)

/-- Station 7 (R357): the Pen's use of the tier exceeds its quota. -/
def overQuota (s : State) (p : BitVec 12) (t : Tier) : Bool :=
  tierQuota s p t ≠ 0xFFFFFFFF && decide ((tierQuota s p t).toNat < tierUse s p t)

/-! ## Frames (R41, R57, R61) -/

/-- Frames of a tier and node that are not free: homes, but for those of Lost LENT extents, which their lender has taken
back or taken away; migration targets, fills and scrubs in progress. -/
def usedFrames (s : State) (t : Tier) (n : Node) : List Nat :=
  ((s.pool.exts.filter fun e => e.2.v && e.2.tier == t && e.2.node == n && !(e.2.st == .lost && t == .lent)).map fun e =>
      e.2.frame.toNat)
    ++ (s.pool.migs.filterMap fun m => if m.target = t ∧ m.node = n then m.frame else none)
    ++ (s.pool.scrubs.filterMap fun c => if c.frm.tier = t ∧ c.frm.node = n then some c.frm.frame else none)
    ++ (s.pool.allocs.filterMap fun a =>
        match a.frm with | some f => if f.tier = t ∧ f.node = n then some f.frame else none | none => none)

/-- The lowest number below a bound that is not in use and passes a test, among the first that suffice. -/
def lowestFree (used : List Nat) (bound extra : Nat) (ok : Nat → Bool) : Option Nat :=
  (List.range (min bound (used.length + extra + 1))).find? fun i => !used.contains i && ok i

/-- NEAR frames that rows with two missing locations spoil, at most: the search goes past as many. -/
def spoiled (s : State) : Nat := (s.near.stks.map fun k => k.2.missing.length).sum * 2

/-- A frame of a tier and node that can be used: there is one, or none. -/
def freeFrame (s : State) (t : Tier) (n : Node) : Option Nat :=
  let used := usedFrames s t n
  match t with
  | .near => lowestFree used (nearFrames s) (spoiled s) (frameOk s)
  | .tray => lowestFree used (Config.trayFrames n) 0 fun _ => true
  | .flash => lowestFree used (flashLogical s n) 0 fun _ => true
  | .lent => (aGetD s.pool.lent n []).find? fun f => !used.contains f

/-- The nodes that can hold a frame of a lower tier now: admitted partners of the tier's role (R39), a flash tray
mounted. -/
def tierNodes (s : State) (t : Tier) : List Node :=
  match t with
  | .near => [0]
  | .lent => partnersOf s 4
  | .tray => partnersOf s 1
  | .flash => (partnersOf s 2).filter fun n => ((aGet s.pool.trays n).map (·.mounted)) == some true

/-- A free frame of a tier and node: any that can be used (R41). -/
def takeFrame (t : Tier) (n : Node) (s : State) : Option Nat × State :=
  let (i, s) := takePick s
  let l := aGetD s.pool.lent n []
  let c : Nat := match t with
    | .near => i % nearFrames s
    | .tray => i % Config.trayFrames n
    | .flash => i % flashLogical s n
    | .lent => l.getD (i % l.length) 0
  let ok : Bool := match t with
    | .near => decide (c < nearFrames s) && frameOk s c
    | .tray => decide (c < Config.trayFrames n)
    | .flash => decide (c < flashLogical s n)
    | .lent => l.contains c
  (if ok ∧ (usedFrames s t n).contains c = false then some c else freeFrame s t n, s)

/-- The node and frame for an extent in a tier: the named node, or any with a free frame, which one being free. -/
def chooseFrame (t : Tier) (named : Node) (s : State) : Option Frm × State :=
  if t = .near then
    let (f, s) := takeFrame .near 0 s
    (f.map fun f => ⟨.near, 0, f⟩, s)
  else
    let c := (tierNodes s t).filter fun n => (named == 0 || n == named) && (freeFrame s t n).isSome
    let (i, s) := takePick s
    match (c.drop (i % c.length)).head? with
    | none => (none, s)
    | some n =>
      let (f, s) := takeFrame t n s
      (f.map fun f => ⟨t, n, f⟩, s)

/-! ## Requests of the device's own to trays and lenders (R79) -/

/-- A tray or lender can be reached: it is admitted, has pair state and a port that carries data (R63, R421). -/
def nodeUp (s : State) (n : Node) : Bool :=
  admitted s n && (aGet s.pairs n).isSome
    && match aGet s.partners n with | some p => p.ports.any (portUsable s) | none => false

/-- The device sends a TRAY_ADDR READ of the first `len` bytes of a block, or a WRITE of ciphertext, with a TAG of its own. -/
def devSendLen (len : Nat) (n : Node) (addr : Nat) (cipher : Option (List Byte)) (cls : BitVec 4) (owner : DevFor)
    (s : State) : State :=
  let (tag, s) := freshId (s.pool.devReqs.map (·.tag)) s
  let p : Pkt := { op := if cipher.isSome then 0x03 else 0x01, flags := 0x20, cls, epoch := s.routes.current.epoch,
                   length := BitVec.ofNat 16 len, addr := BitVec.ofNat 56 addr, tag, payload := cipher.getD [] }
  send n p { s with pool := { s.pool with
    devReqs := s.pool.devReqs ++ [{ node := n, tag, write := cipher.isSome, addr, owner }] } }

/-- The same for a whole block. -/
def devSend (n : Node) (addr : Nat) (cipher : Option (List Byte)) (cls : BitVec 4) (owner : DevFor) (s : State) : State :=
  devSendLen 4096 n addr cipher cls owner s

/-- The key of a Pen's key id (R358), when it is installed. -/
def memKey (s : State) (p : BitVec 12) (k : BitVec 8) : Option (List Byte) := aGet s.sec.keys (p, k)

/-- The tweak of a block: the block number of its Pool Address (R358). -/
def tweakOf (k : ExtKey) (blk : Nat) : Nat := k.2.toNat * 512 + blk

/-- The ciphertext of a block, wherever it is stored (R358): under its extent's key, by the block number of its Pool Address. A
block keeps it when it moves from one tier to another or is staged. -/
def blockCipher (key : List Byte) (k : ExtKey) (blk : Nat) (bytes : List Byte) : List Byte := Config.xtsEnc key (tweakOf k blk) bytes

/-- What the near tier stores of a block of an extent (R358). DESIGN CHOICE: the model keeps the bytes themselves (log 45). -/
def nearStored (s : State) (k : ExtKey) (keyId : BitVec 8) (blk : Nat) (bytes : List Byte) : Option (List Byte) :=
  (memKey s k.1 keyId).map fun key => blockCipher key k blk bytes

/-- What the near tier stores of a block of a reserved area: its bytes under the device key, by its near block number (R359). -/
def areaStored (s : State) (area blk : Nat) (bytes : List Byte) : Option (List Byte) :=
  s.sec.devKey.map fun k => Config.xtsEnc (bytesOf k) (Config.areaStart area + blk) bytes

/-- The Input Journal's blocks as they are stored. -/
def journalStored (s : State) (blk : Nat) : Option (List Byte) :=
  areaStored s 2 blk (padTo 4096 ((s.ijn.bytes.drop (4096 * blk)).take 4096))

/-- A discarded block at an encryption point (R361). -/
def discardBlock (s : State) : State := { s with sec := { s.sec with discard := satInc s.sec.discard } }

end Sys2Proof.Machine
end

