-- ==== Sys2Proof/Machine/Flash.lean ====
section
/-! DEFINITION. The flash translation layer (R65 to R69, R442, R450): the map, slots and erase blocks, pages, the
journal and the checkpoints, relocation, and the mount. What the tray itself does on a relocation (its page reads,
programs and erases) has no packet in the spec and is not listed as output. -/

namespace Sys2Proof.Machine

def tray (s : State) (n : Node) : Tray := aGetD s.pool.trays n {}
def modTray (n : Node) (f : Tray → Tray) (s : State) : State :=
  { s with pool := { s.pool with trays := aMod s.pool.trays n {} f } }

def unmapped : W32 := 0xFFFFFFFF
def poisonedSlot : W32 := 0xFFFFFFFE

/-- The map entry of a unit (R65). -/
def slotOf (t : Tray) (u : Nat) : W32 := aGetD t.map u unmapped

/-- The erase block of a slot, and its metadata; an unlisted block is erased and has never been used. -/
def blockOf (n : Node) (slot : W32) : Nat := slot.toNat / Config.eraseSlots n
def ebAt (t : Tray) (b : Nat) : EraseBlock :=
  (t.blocks.find? fun e => e.block == b).getD { block := b, erases := 0, reads := 0, hour := 0, valid := 0, state := 0 }
def modEb (b : Nat) (f : EraseBlock → EraseBlock) (t : Tray) : Tray :=
  { t with blocks := f (ebAt t b) :: t.blocks.filter fun e => ¬ e.block = b }

/-- A real slot, neither unmapped nor poisoned. -/
def realSlot (v : W32) : Bool := v ≠ unmapped && v ≠ poisonedSlot

/-- A unit's map entry changes: the valid units of the erase blocks follow, and a journal record (R65, R67). -/
def mapUnit (n : Node) (u : Nat) (slot : W32) (t : Tray) : Tray :=
  let old := slotOf t u
  let t := if realSlot old then modEb (blockOf n old) (fun e => { e with valid := e.valid - 1 }) t else t
  let t := if realSlot slot then modEb (blockOf n slot) (fun e => { e with valid := e.valid + 1 }) t else t
  let seq := t.seq + 1
  let crc := crc32c (toLe 4 seq.toNat ++ toLe 4 u ++ toLe 4 slot.toNat)
  { t with map := if slot = unmapped then aErase t.map u else aSet t.map u slot, seq,
           journal := t.journal ++ [{ seq, unit := BitVec.ofNat 32 u, slot, crc }] }

/-- Erase blocks in the tray. -/
def eraseBlocks (n : Node) : Nat := Config.flashSlots n / Config.eraseSlots n

/-- A free erase block with the lowest erase count: any such (R65). -/
def freeBlock (n : Node) (t : Tray) : Option Nat :=
  let listed := t.blocks.filter fun e => e.state == 0
  let fresh := ((List.range (t.blocks.length + 1)).find? fun b =>
    decide (b < eraseBlocks n) && !t.blocks.any fun e => e.block == b).map fun b => ebAt t b
  let least := leastBy (fun e => e.erases.toNat) (listed ++ fresh.toList)
  let c := ebAt t (Config.eraseChoice n t.opens % eraseBlocks n)
  match least with
  | [] => none
  | e :: _ => some (if c.state = 0 ∧ c.block < eraseBlocks n ∧ c.erases = e.erases then c.block else e.block)

/-- The number of free erase blocks. -/
def freeBlocks (n : Node) (t : Tray) : Nat := eraseBlocks n - (t.blocks.filter fun e => e.state ≠ 0).length

/-- The next slot for new data: in the open erase block, or in a free one opened for it; none where all are full. -/
def takeSlot (n : Node) (t : Tray) : Option W32 × Tray :=
  let here (b i : Nat) : W32 := BitVec.ofNat 32 (b * Config.eraseSlots n + i)
  let opened : Option Nat := if t.openBlk.isSome ∧ t.slotNo < Config.eraseSlots n then t.openBlk else none
  match opened with
  | some b => (some (here b t.slotNo), { t with slotNo := t.slotNo + 1 })
  | none =>
    match freeBlock n t with
    | none => (none, t)
    | some b =>
      let t := match t.openBlk with
        | some o => modEb o (fun e => { e with state := 2 }) t
        | none => t
      (some (here b 0), modEb b (fun e => { e with state := 1, hour := t.hour }) { t with openBlk := some b, slotNo := 1, opens := t.opens + 1 })

/-- Slots for a list of writes, and the tray; a write that finds no slot stays gathered. -/
def takeSlots (n : Node) : List UnitWrite → Tray → List (UnitWrite × W32) × Tray
  | [], t => ([], t)
  | w :: ws, t =>
    match takeSlot n t with
    | (some v, t) => let (r, t) := takeSlots n ws t; ((w, v) :: r, t)
    | (none, t) => takeSlots n ws { t with gather := t.gather ++ [w] }

/-- The gathered writes are programmed as one page, padded to its size: each takes its slot and goes to the tray. -/
def programPage (n : Node) (s : State) : State :=
  let (ws, t) := takeSlots n (tray s n).gather { tray s n with gather := [] }
  if ws.isEmpty then s
  else
    let pad := Config.pageSlots n - ws.length
    let s := modTray n (fun _ => { t with slotNo := t.slotNo + pad,
                                          pages := t.pages ++ [{ writes := ws, unacked := ws.map (·.2) }] }) s
    ws.foldl (fun s w => devSend n (w.2.toNat * 4096) (some w.1.cipher) 0 (.page n) s) s

/-- A write joins the page being gathered; a full page is programmed (R67). -/
def gatherWrite (n : Node) (w : UnitWrite) (s : State) : State :=
  let s := modTray n (fun t => { t with gather := t.gather ++ [w] }) s
  if Config.pageSlots n ≤ (tray s n).gather.length then programPage n s else s

/-- The bytes of a unit that wait in the Loft or in a page being programmed, the latest. -/
def pendingUnit (t : Tray) (u : Nat) : Option (List Byte) :=
  ((t.pages.flatMap fun p => p.writes.map (·.1)) ++ t.gather).reverse.findSome? fun w =>
    if w.unit = u then some w.bytes else none

/-- FLASH_PAGE_PAD_TIMEOUT: a partial page is padded and programmed after 100 µs without new writes (R67). -/
def execFlashPagePadTimeout (n : Node) (s : State) : Res := .next (programPage n s)

/-! ## Checkpoints and relocation (R65, R66) -/

/-- FTL_CHECKPOINT: the full map goes to one of two slots in turn; the journal restarts after it. -/
def execFtlCheckpoint (n : Node) (s : State) : Res :=
  if (tray s n).mounted = false then .next s
  else .next (modTray n (fun t => { t with
    checkpoints := ({ seq := t.seq, map := t.map, blocks := t.blocks, hour := t.hour } :: t.checkpoints).take 2
    journal := [] }) s)

/-- The units whose data lies in an erase block. -/
def unitsIn (n : Node) (t : Tray) (b : Nat) : List Nat :=
  (t.map.filter fun m => realSlot m.2 && blockOf n m.2 == b).map (·.1)

/-- Units take fresh slots, while there are any. -/
def moveUnits (n : Node) : List Nat → Tray → Tray
  | [], t => t
  | u :: us, t =>
    match takeSlot n t with
    | (some v, t) => moveUnits n us (mapUnit n u v t)
    | (none, t) => t

/-- All valid units of an erase block move, and the emptied block is erased. -/
def relocate (n : Node) (b : Nat) (t : Tray) : Tray :=
  let t := moveUnits n (unitsIn n t b) t
  if (unitsIn n t b).isEmpty ∧ t.openBlk ≠ some b then
    modEb b (fun e => { e with erases := e.erases + 1, reads := 0, valid := 0, state := 0 }) t
  else t

/-- A mounted tray's erase block is relocated. -/
def relocateOn (n : Node) (b : Option Nat) (s : State) : State :=
  match b with
  | some b => modTray n (relocate n b) s
  | none => s

/-- The full erase blocks at which a measure is least. -/
def leastBlocks (t : Tray) (key : EraseBlock → Nat) : List Nat :=
  (leastBy key (t.blocks.filter fun e => e.state == 2)).map (·.block)

/-- One of some erase blocks is relocated. -/
def relocateOne (n : Node) (bs : List Nat) (s : State) : State :=
  let (b, s) := takeOne bs s
  relocateOn n b s

/-- FTL_GARBAGE_COLLECT: with free erase blocks below the threshold, the block with the fewest valid units is collected. -/
def execFtlGarbageCollect (n : Node) (s : State) : Res :=
  let t := tray s n
  if t.mounted = true ∧ freeBlocks n t * 100 < effective s 0x20206 * eraseBlocks n then
    .next (relocateOne n (leastBlocks t fun e => e.valid.toNat) s)
  else .next s

/-- FTL_WEAR_LEVEL: where erase counts differ by more than the limit, cold data, that of the least erased block, moves. An
erase block that has never been used counts 0. -/
def execFtlWearLevel (n : Node) (s : State) : Res :=
  let t := tray s n
  let hi := (t.blocks.map fun e => e.erases.toNat).foldl max 0
  let lo := if t.blocks.length < eraseBlocks n then 0 else (t.blocks.map fun e => e.erases.toNat).foldl min hi
  if t.mounted = true ∧ effective s 0x20207 < hi - lo then
    .next (relocateOne n (leastBlocks t fun e => e.erases.toNat) s)
  else .next s

/-- A block is due for relocation (R65, R450): it has reached the read limit, a read of it took more than 75 % of the
tray's correction limit, or the refresh scan covers it. -/
def relocateDue (s : State) (n : Node) (b : ReadBlock) : Bool :=
  b.hard || decide (effective s 0x20208 ≤ (ebAt (tray s n) b.block).reads.toNat)
    || (effective s 0x2020B ≠ 0 && !(unitsIn n (tray s n) b.block).isEmpty)

/-- FTL_READ_RELOCATE. -/
def execFtlReadRelocate (n : Node) (b : ReadBlock) (s : State) : Res :=
  if (tray s n).mounted = true ∧ relocateDue s n b = true then .next (relocateOn n (some b.block) s) else .next s

/-- FTL_AGE_REFRESH: at a powered-on hour, data programmed longer ago than the refresh age moves (R66). -/
def execFtlAgeRefresh (n : Node) (hour : W32) (s : State) : Res :=
  if (tray s n).mounted = false then .next s
  else
    let s := modTray n (fun t => { t with hour }) s
    let age := effective s 0x20209 / (3600 * 10 ^ 9)
    let old := (tray s n).blocks.filter fun e => decide (0 < e.valid.toNat) && decide (e.hour.toNat + age < hour.toNat)
    .next (old.foldl (fun s e => relocateOn n (some e.block) s) s)

/-- FTL_REFRESH_SCAN_DONE: every mounted tray has been scanned; the key is deleted, with event 0x020B (R450). -/
def execFtlRefreshScanDone (s : State) : Res :=
  if effective s 0x2020B = 0 then .next s
  else .next (coded 0x20B 1 (logConfig (ownAppend 0x2020B [] s)))

/-! ## The mount (R68, R442) -/

/-- The journal records that follow a sequence, up to the first with a bad CRC or a gap. -/
def followOn : W32 → List FtlRecord → List FtlRecord
  | _, [] => []
  | q, r :: rs =>
    if r.seq ≠ q + 1 then (if seqLe r.seq q then followOn q rs else [])
    else if r.crc = crc32c (toLe 4 r.seq.toNat ++ toLe 4 r.unit.toNat ++ toLe 4 r.slot.toNat) then r :: followOn r.seq rs
    else []

/-- The checkpoint with the higher sequence. -/
def bestCheckpoint (cs : List Checkpoint) : Checkpoint :=
  ((cs.mergeSort fun a b => b.seq.toNat ≤ a.seq.toNat).head?).getD { seq := 0, map := [], blocks := [] }

/-- A tray's layer as its mount rebuilds it. The first mount after a boot unmaps every unit, keeps the metadata and takes
up the powered-on hour (R66, R442). DESIGN CHOICE (log entry 172): an erase block that the checkpoint shows open is closed,
new data opens a fresh one, and one first used after the checkpoint keeps the state that the checkpoint shows, though
replayed records map units into it. -/
def mountedTray (n : Node) (old : Tray) (im : TrayImage) : Tray :=
  let c := bestCheckpoint im.checkpoints
  let base : Tray := { old with mounted := true, seen := true, map := c.map,
                                blocks := c.blocks.map fun e => if e.state = 1 then { e with state := 2 } else e, seq := c.seq,
                                checkpoints := im.checkpoints, journal := [], openBlk := none, slotNo := 0,
                                gather := [], pages := [], hour := if old.seen then old.hour else c.hour }
  let t := (followOn c.seq im.journal).foldl (fun t r => mapUnit n r.unit.toNat r.slot t) base
  if old.seen then t else { t with map := [], blocks := t.blocks.map fun e => { e with valid := 0 } }

/-- FLASH_TRAY_MOUNT_DONE: an admitted flash tray's checkpoint and journal have been replayed, and its data is served,
where the FLASH map area has room for its map (R42); the service level is evaluated (R26). -/
def execFlashTrayMountDone (n : Node) (im : TrayImage) (s : State) : Res :=
  if (partnersOf s 2).contains n = false ∨ (tray s n).mounted
     ∨ s.near.flashMap < flashMapUsed s + trayMapGib s n * 2 ^ 30 then .next s
  else .next (evalLevel (modTray n (fun t => mountedTray n t im) s))

end Sys2Proof.Machine
end

