-- ==== Sys2Proof/Machine/Access.lean ====
section
/-! DEFINITION. Pool accesses (R22 station 9, R31, R44, R53, R67, R70, R71, R80, R97): one engine that carries a read, a
store or an atomic through the blocks of its range, whatever tier holds them, and the answers it gives. -/

namespace Sys2Proof.Machine

/-! ## Answers to CMX requests (R82, R83, R105) -/

/-- The opcode of the response to a request. -/
def respOp (op : BitVec 8) : BitVec 8 :=
  if op = 0x01 then 0x02 else if op = 0x03 ∨ op = 0x05 then 0x04 else if op = 0x08 then 0x09
  else if op = 0x10 then 0x11 else if op = 0x40 then 0x41 else op

/-- A response: it echoes the request's fields and travels in its class and epoch (R78, R83). ATOMIC_RESP has GROUP 0, and
WRITE_ACK, ATOMIC_RESP, INVAL_ACK and REDUCE_RESULT have HANDLE 0. -/
def respPkt (op : BitVec 8) (rx : Rx) : Pkt :=
  { op, pen := rx.pen, cls := rx.cls, epoch := rx.epoch, addr := rx.addr, keyId := rx.keyId,
    group := if op = 0x09 then 0 else rx.group,
    handle := if op = 0x04 ∨ op = 0x09 ∨ op = 0x11 ∨ op = 0x21 then 0 else rx.handle, tag := rx.tag }

/-- A stored request whose pair has failed or restarted since: its VERSION is kept as 0, and its responses are discarded
(R85, R89). -/
def muted (rx : Rx) : Bool := rx.version ≠ 1
def mute (rx : Rx) : Rx := { rx with version := 0 }

/-- The last response to a request that station 4 admitted. -/
def respond (rx : Rx) (p : Pkt) (s : State) : State :=
  if muted rx then finishEpoch rx.epoch s else sendVia rx.src p { fin := some rx.epoch } s

/-- A NACK (R105): reason and station in FLAGS, the detail word in STEP. -/
def nackPkt (rx : Rx) (reason : BitVec 8) (station : Nat) (detail : W32) : Pkt :=
  { respPkt 0x48 rx with flags := reason.setWidth 16 + BitVec.ofNat 16 (station * 256), step := detail }

/-- The request ends with a NACK; `fin` where station 4 had admitted it. -/
def nack (rx : Rx) (reason : BitVec 8) (station : Nat) (detail : W32) (s : State) : State :=
  respond rx (nackPkt rx reason station detail) s

/-- The reasons of R105. -/
def rStaleEpoch : BitVec 8 := 0x01
def rLeaseRevoked : BitVec 8 := 0x02
def rPenClosed : BitVec 8 := 0x03
def rStaleBase : BitVec 8 := 0x04
def rTierError : BitVec 8 := 0x05
def rPoisoned : BitVec 8 := 0x06
def rNotOwner : BitVec 8 := 0x07
def rQuota : BitVec 8 := 0x08

/-- TIER_ERROR's detail: the tier code, 0xF for cause 1, and the cause. -/
def tierDetail (t : Nat) (cause : Nat) : W32 := BitVec.ofNat 32 (t + 16 * cause)
def noExtent : W32 := tierDetail 15 1

/-- A store of a pair has been applied or has ended with a NACK; STORE_SETTLED counts it (R93). -/
def endStore (n : Node) (seq : W32) (s : State) : State := modPair n (fun p => { p with ended := p.ended ++ [seq] }) s

/-- WRITE, WRITE_RELEASE and ATOMIC are stores (R93). -/
def isStore (op : BitVec 8) : Bool := op == 0x03 || op == 0x05 || op == 0x08

def endIfStore (op : BitVec 8) (rx : Rx) (s : State) : State :=
  if isStore op ∧ muted rx = false then endStore rx.src rx.seq s else s

/-! ## The aperture's answers (R426) -/

/-- A discarded write or an aborted read of a function. -/
def aprError (f : FnIx) (s : State) : State :=
  let isl : IslandIx := if f.val < 64 then 3 else 4
  coded 0x109 isl (evtBit 0x03810004 0 isl (modFn f (fun g => { g with errCnt := satInc g.errCnt, aprEvt := true }) s))

/-! ## Where a block is (R34, R43, R53, R58) -/

inductive Place where
  | near (b : Nat)
  | remote (n : Node) (addr : Nat)
  | flash (n : Node) (unit : Nat)
deriving DecidableEq, Repr

/-- Block blk of a frame. -/
def frmPlace (f : Frm) (blk : Nat) : Place :=
  match f.tier with
  | .near => .near (512 * f.frame + blk)
  | .lent => .remote f.node (f.frame * 2 ^ 21 + blk * 4096)
  | .tray => .remote f.node (f.frame * 2 ^ 21 + blk * 4096)
  | .flash => .flash f.node (f.frame * 512 + blk)

/-- An extent's own frame. -/
def extFrm (e : Extent) : Frm := { tier := e.tier, node := e.node, frame := e.frame.toNat }

def migOf (s : State) (k : ExtKey) : Option Migration := s.pool.migs.find? fun m => m.key = k
def modMig (k : ExtKey) (f : Migration → Migration) (s : State) : State :=
  { s with pool := { s.pool with migs := s.pool.migs.map fun m => if m.key = k then f m else m } }

/-- The frame that is a block's home (R52, R53). -/
def blockFrm (s : State) (k : ExtKey) (blk : Nat) : Frm :=
  let e := extAt s k
  match migOf s k with
  | some m => match m.frame with
    | some f => if m.bits.contains blk then { tier := m.target, node := m.node, frame := f } else extFrm e
    | none => extFrm e
  | none => extFrm e

/-- The block is Moving (R53). -/
def isMoving (s : State) (k : ExtKey) (blk : Nat) : Bool :=
  match migOf s k with | some m => m.moving == some blk | none => false

/-- The extent of a window's layer block: its key and the block in it. -/
def layerBlock (w : Window) (layer block : Nat) : ExtKey × Nat :=
  ((w.ext.1, BitVec.ofNat 35 (w.ext.2.toNat + layer * w.stride + block / 512)), block % 512)

/-- The block of the pool that a staged image is of. -/
def imageHome (s : State) (i : Staged) : Option (ExtKey × Nat) :=
  (aGet s.pool.windows i.window).map fun w => layerBlock w i.layer i.block

/-- The staged image of a block of a Sealed extent, once its staging has completed (R58). -/
def imageOf (s : State) (k : ExtKey) (blk : Nat) : Option (List Byte) :=
  if (extAt s k).v = false ∨ (extAt s k).cls ≠ .sealed then none
  else (s.pool.images.find? fun i => imageHome s i == some (k, blk)).map (·.bytes)

/-- The staged images of an extent are discarded. -/
def dropImages (k : ExtKey) (s : State) : State :=
  { s with pool := { s.pool with images := s.pool.images.filter fun i => ((imageHome s i).map (·.1)) ≠ some k } }

/-! ## The blocks of an access -/

def jobAt (s : State) (id : Nat) : Option Job := s.pool.jobs.find? fun j => j.id == id
def modJob (id : Nat) (f : Job → Job) (s : State) : State :=
  { s with pool := { s.pool with jobs := s.pool.jobs.map fun j => if j.id = id then f j else j } }
def dropJob (id : Nat) (s : State) : State :=
  { s with pool := { s.pool with jobs := s.pool.jobs.filter fun j => ¬ j.id = id } }

/-- Blocks that the range touches. -/
def jobBlocks (j : Job) : Nat := if j.len = 0 then 0 else (j.off + j.len - 1) / 4096 + 1 - j.off / 4096
/-- The block now. -/
def jobBlk (j : Job) : Nat := j.off / 4096 + j.done
/-- The range's first byte in that block, and the range's bytes before the block. -/
def jobLo (j : Job) : Nat := if j.done = 0 then j.off % 4096 else 0
/-- The range's bytes in blocks already done. -/
def jobPast (j : Job) : Nat := if j.done = 0 then 0 else 4096 - j.off % 4096 + (j.done - 1) * 4096
/-- The range's bytes in the block. -/
def jobPart (j : Job) : Nat := min (4096 - jobLo j) (j.len - jobPast j)
/-- The store covers the whole block. -/
def jobWhole (j : Job) : Bool := jobPart j == 4096 && j.atomic.isNone

/-- Bytes laid over a block. -/
def patch (old : List Byte) (lo : Nat) (new : List Byte) : List Byte := old.take lo ++ new ++ old.drop (lo + new.length)

/-- The value that an ATOMIC writes (R97). AOP: 0 fetch-add, 1 compare-swap, 2 minimum, 3 maximum. -/
def atomicNew (aop : BitVec 2) (signed : Bool) (old : W64) (operand : List Byte) : W64 :=
  let a : W64 := fieldLe 64 operand 0 8
  let less : Bool := if signed then a.slt old else a.ult old
  if aop = 0 then old + a
  else if aop = 1 then (if old = a then fieldLe 64 operand 8 8 else old)
  else if aop = 2 then (if less then a else old)
  else if less then old else a

/-- The block after a store. -/
def jobNew (j : Job) (old : List Byte) : List Byte :=
  match j.atomic with
  | some (aop, sg) => patch old (jobLo j) (toLe 8 (atomicNew aop sg (fieldLe 64 old (jobLo j) 8) j.data).toNat)
  | none => patch old (jobLo j) ((j.data.drop (jobPast j)).take (jobPart j))

/-- What the access takes from the old block: the bytes read, or an ATOMIC's old value. -/
def jobTaken (j : Job) (old : List Byte) : List Byte :=
  if j.store then (if j.atomic.isSome then (old.drop (jobLo j)).take 8 else []) else (old.drop (jobLo j)).take (jobPart j)

/-- RAW with CLEN 4,096 (R153, R154). -/
def rawDesc : W32 := 0x00011000

/-- A block's side descriptor. -/
def descOf (s : State) (k : ExtKey) (blk : Nat) : W32 := aGetD s.pool.desc (k.1, k.2.toNat * 512 + blk) rawDesc

/-- A block is done: the descriptor goes with its data (R80, R153). -/
def blockDone (j : Job) (taken : List Byte) (s : State) : State :=
  let s := match j.desc with
    | some d => if j.store ∧ (extAt s j.key).comp then
        { s with pool := { s.pool with desc := aSet s.pool.desc (j.key.1, j.key.2.toNat * 512 + jobBlk j) d } } else s
    | none => s
  modJob j.id (fun q => { q with done := q.done + 1, acc := q.acc ++ taken, got := descOf s j.key (jobBlk j), phase := .waiting }) s

/-! ## The end of an access -/

/-- READ_RESP's CODED and STEP: a whole block of a COMP extent carries its descriptor (R80). -/
def readResp (j : Job) (rx : Rx) (bytes : List Byte) (s : State) : Pkt :=
  let coded := (extAt s j.key).comp && decide (j.off % 4096 = 0) && decide (j.len = 4096)
  { respPkt 0x02 rx with flags := if coded then 0x2 else 0, length := BitVec.ofNat 16 bytes.length,
                         step := if coded then descOf s j.key (j.off / 4096) else 0, payload := bytes }

/-- The packet that ends a CMX access well. -/
def okPkt (j : Job) (op : BitVec 8) (rx : Rx) (bytes : List Byte) (s : State) : Pkt :=
  if op = 0x01 then readResp j rx bytes s
  else if op = 0x08 then { respPkt 0x09 rx with length := BitVec.ofNat 16 bytes.length, payload := bytes }
  else respPkt 0x04 rx

/-- The access ends and its request is answered: a response, a NACK of station 9, a PCIe completion; or, for a unit of the
device, the result stays until the unit takes it. A request whose data met a removed key ends with no response (R361). -/
def endJob (j : Job) (r : PoolRes) (s : State) : State :=
  match j.orig with
  | .cmx op rx =>
    let s := endIfStore op rx (dropJob j.id s)
    match r with
    | .ok bytes => respond rx (okPkt j op rx bytes s) s
    | .err reason d => nack rx reason 9 d s
    | .refused reason st d => nack rx reason st d s
    | .discarded => finishEpoch rx.epoch s
  | .apr f =>
    let s := dropJob j.id s
    match r with
    | .ok bytes => if j.store then s else emit (.completion f 0 bytes) s
    | .discarded => s
    | _ => let s := aprError f s; if j.store then s else emit (.completion f 4 []) s
  | .gone => dropJob j.id s
  | _ => modJob j.id (fun q => { q with result := some r }) s

/-! ## Steps of an access (R53, R70, R491) -/

/-- A store at this block that is under way on a tray or a lender: later accesses to the block wait for it. A store waits
for a read under way too, so that a block and its descriptor are read as one (R153). -/
def busyBlock (s : State) (j : Job) : Bool :=
  s.pool.jobs.any fun q => q.id ≠ j.id && q.key = j.key && (q.store || j.store) && q.phase ≠ .waiting && q.result.isNone
    && jobBlk q == jobBlk j

/-- An aperture access waits for the earlier writes of its function (R425). -/
def aprWaits (s : State) (j : Job) : Bool :=
  match j.orig with
  | .apr f => s.pool.jobs.any fun q => q.id < j.id && q.orig == .apr f && (q.store || j.store)
  | _ => false

/-- The class in which the device's own requests for an access travel. -/
def jobCls (j : Job) : BitVec 4 := match j.orig with | .cmx _ rx => rx.cls | _ => 0

/-- What an access does next at its block. -/
inductive Turn where
  /-- It waits. -/
  | wait
  /-- It ends. -/
  | fin (r : PoolRes)
  /-- The block's old bytes are at hand. -/
  | hold (bytes : List Byte)
  /-- A tray's or lender's block must be read. -/
  | fetch (n : Node) (addr : Nat)
  /-- A whole-block store needs no old bytes. -/
  | over
deriving DecidableEq, Repr

/-- What an access meets at a near block: a store of part of a block needs its old data too, and cannot rebuild it without
the row's parity (R491). -/
def nearSt (s : State) (j : Job) (b : Nat) : NearSt :=
  let r := blockRow b
  if j.store = false then readSt s b
  else if jobWhole j = false ∧ badLoc s (blockStack b) r ∧ locSt s r (parityStack r) = .gone then .poisoned
  else writeSt s b

/-- The turn at a near block. -/
def turnNear (s : State) (j : Job) (b blk : Nat) : Turn :=
  match nearSt s j b with
  | .fine => .hold (nearBlock s b)
  | .wait => .wait
  | .away => .fin (.err rTierError (tierDetail 0 3))
  | .poisoned => .fin (.err rPoisoned (BitVec.ofNat 32 blk))

/-- The turn at a block of a tray or a lender. -/
def turnRemote (s : State) (j : Job) (t : Nat) (n : Node) (addr : Nat) : Turn :=
  if nodeUp s n = false then .fin (.err rTierError (tierDetail t 3))
  else if j.store ∧ jobWhole j then .over else .fetch n addr

/-- The turn at a flash unit (R65, R67, R69). -/
def turnFlash (s : State) (j : Job) (n : Node) (u blk : Nat) : Turn :=
  let t := tray s n
  if t.mounted = false then .fin (.err rTierError (tierDetail 3 5))
  else if j.store ∧ jobWhole j then .over
  else match pendingUnit t u with
    | some bytes => .hold bytes
    | none =>
      if slotOf t u = unmapped then .hold (List.replicate 4096 0)
      else if slotOf t u = poisonedSlot then .fin (.err rPoisoned (BitVec.ofNat 32 blk))
      else if nodeUp s n then .fetch n ((slotOf t u).toNat * 4096)
      else .fin (.err rTierError (tierDetail 3 3))

/-- The turn of an access: a home slot that is being rebuilt (R15), freed and Lost extents (R64, R105), a removed key (R361), a
Moving block (R53), a staged image (R58), then its tier. -/
def turn (s : State) (j : Job) : Turn :=
  let e := extAt s j.key
  let blk := jobBlk j
  let f := blockFrm s j.key blk
  if j.held ∨ slotMoving s (keySlot j.key) then .wait
  else if e.v = false then .fin (.err rTierError noExtent)
  else if e.st = .lost then .fin (.err rTierError (tierDetail (tierCode e.tier) 2))
  else if (memKey s j.key.1 e.keyId).isNone then .fin .discarded
  else if aprWaits s j ∨ busyBlock s j ∨ (j.store ∧ isMoving s j.key blk) then .wait
  else match (if j.store then none else imageOf s j.key blk) with
    | some bytes => .hold bytes
    | none =>
      match frmPlace f blk with
      | .near b => turnNear s j b blk
      | .remote n a => turnRemote s j (tierCode f.tier) n a
      | .flash n u => turnFlash s j n u blk

/-- The near location that an access has read reports its errors (R45, R49); a staged image is no location of the near
tier's rows. -/
def meetJob (j : Job) (s : State) : State :=
  if j.store = false ∧ (imageOf s j.key (jobBlk j)).isSome then s
  else match frmPlace (blockFrm s j.key (jobBlk j)) (jobBlk j) with
    | .near b => meetBlock b j.store s
    | _ => s

/-- An access ended with POISONED. -/
def spoilt (r : PoolRes) : Bool := match r with | .err reason _ => reason == rPoisoned | _ => false

/-- What a unit fetches of a coded block: CLEN rounded up to 64 B; any other read takes the whole block (R80, R159). -/
def fetchLen (s : State) (j : Job) : Nat :=
  let decodes : Bool := match j.orig with | .fetch _ | .yardIn _ _ | .table _ _ => true | _ => false
  let d := descOf s j.key (jobBlk j)
  if decodes ∧ (extAt s j.key).comp ∧ d.getLsbD 16 = false then min 4096 ((d.toNat % 8192 + 63) / 64 * 64) else 4096

/-- A store's new block goes to its home. -/
def storeBlock (j : Job) (old : List Byte) (s : State) : State :=
  let blk := jobBlk j
  let e := extAt s j.key
  let new := jobNew j old
  let key := (memKey s j.key.1 e.keyId).getD []
  let cipher := blockCipher key j.key blk new
  let taken := jobTaken j old
  match frmPlace (blockFrm s j.key blk) blk with
  | .near b => blockDone j taken (putNear b new s)
  | .remote n a =>
    devSend n a (some cipher) (jobCls j) (.job j.id) (modJob j.id (fun q => { q with phase := .writing, acc := q.acc ++ taken }) s)
  | .flash n u =>
    gatherWrite n { unit := u, bytes := new, cipher, job := some j.id }
      (modJob j.id (fun q => { q with phase := .writing, acc := q.acc ++ taken }) s)

/-- The access with its block's old bytes at hand. -/
def haveBlock (j : Job) (old : List Byte) (s : State) : State :=
  if j.store then storeBlock j old s else blockDone j (jobTaken j old) s

/-- A discarded access counts its block (R361). -/
def countDiscard (r : PoolRes) (s : State) : State := match r with | .discarded => discardBlock s | _ => s

/-- An access runs until it waits, awaits a tray or a lender, or ends; at most `n` turns. -/
def advance : Nat → Nat → State → State
  | 0, _, s => s
  | n + 1, id, s =>
    match jobAt s id with
    | none => s
    | some j =>
      if j.result.isSome ∨ j.phase ≠ .waiting then s
      else if jobBlocks j ≤ j.done then endJob j (.ok j.acc) s
      else match turn s j with
        | .wait => s
        | .fin r => endJob j r (countDiscard r (if spoilt r then meetJob j s else s))
        | .hold old => advance n id (haveBlock j old (meetJob j s))
        | .over => advance n id (storeBlock j [] s)
        | .fetch m a =>
          devSendLen (fetchLen s j) m a none (jobCls j) (.job id) (modJob id (fun q => { q with phase := .reading }) s)

/-- Turns that suffice for an access. -/
def jobFuel (j : Job) : Nat := jobBlocks j + 2

/-- A job by its number runs. -/
def runJob (id : Nat) (s : State) : State :=
  match jobAt s id with
  | some j => advance (jobFuel j) id s
  | none => s

/-- Every access that waits runs again, the oldest first. -/
def rerunJobs (s : State) : State := (s.pool.jobs.map (·.id)).foldl (fun s id => runJob id s) s

/-- A new access begins (R22 station 9). -/
def startJob (j : Job) (s : State) : State :=
  let id := s.pool.nextJob
  runJob id { s with pool := { s.pool with nextJob := id + 1, jobs := s.pool.jobs ++ [{ j with id }] } }

/-! ## Tables, and a TABLE_BUILD that counts extents (R160 to R162) -/

def tableAt (s : State) (p : BitVec 12) (id : BitVec 3) : Option Table := aGet s.work.tables (p, id)

/-- The Bound table of an id. -/
def boundTable (s : State) (p : BitVec 12) (id : BitVec 3) : Option Table :=
  match tableAt s p id with
  | some t => if t.retiring then none else some t
  | none => none

/-- The tag after a tag: it skips 0 (R160). -/
def nextTag (t : BitVec 16) : BitVec 16 := if t + 1 = 0 then 1 else t + 1

/-- A table is built from counts under the Pen's next tag, and the command answered with the tag and the lengths. -/
def bindTable (rep : Reply) (p : BitVec 12) (id : BitVec 3) (counts : List Nat) (s : State) : State :=
  let lens := buildLens counts
  let tag := (pen s p).tagNext
  let s := ctlTake 128 (modPen p (fun q => { q with tagNext := nextTag tag }) s)
  post rep stOk (toLe 2 tag.toNat ++ [0, 0] ++ lensBytes lens)
    { s with work := { s.work with tables := aSet s.work.tables (p, id) { lens, tag } } }

/-- Counts with the bytes of a block added. -/
def countBytes (counts : List Nat) (bs : List Byte) : List Nat :=
  (List.range 256).map fun i => counts.getD i 0 + bs.countP fun b => b.toNat == i

/-- The bytes that a block of an extent adds: those of a scale plane do not count, a coded block is decoded first; what a
block that cannot be read or decoded adds is free. -/
def builtBytes (b : Build) (k : ExtKey) (r : PoolRes) (d : W32) (s : State) : List Byte × State :=
  let stored : Option (List Byte) := match r with
    | .ok bytes =>
      if (extAt s k).comp = false then some bytes
      else if descScale d then some []
      else if descRaw d then some bytes
      else (boundTable s b.pen (descTable d)).bind fun t => decodeBlock t.lens t.tag d bytes
    | _ => none
  match stored with
  | some bytes => (bytes, s)
  | none => let (f, s) := takeFree (8 * 4096) s; (bytesOf f, s)

/-- The builds that go on, with one of them changed or ended. -/
def putBuild (b : Build) (on : Bool) (s : State) : State :=
  let bs := s.work.builds.filter fun x => ¬ (x.pen = b.pen ∧ x.id = b.id)
  { s with work := { s.work with builds := if on then bs ++ [b] else bs } }

/-- A build goes on: its block's read is begun, or taken when it has ended; at most `n` turns. -/
def runBuild : Nat → Build → State → State
  | 0, b, s => putBuild b true s
  | n + 1, b, s =>
    match b.todo with
    | [] => bindTable b.reply b.pen b.id b.counts (putBuild b false s)
    | k :: ks =>
      match b.job with
      | none =>
        let j : Job := { id := 0, orig := .table b.pen b.id, pen := b.pen, key := k, off := b.blk * 4096, len := 4096 }
        runBuild n { b with job := some s.pool.nextJob } (startJob j s)
      | some id =>
        match jobAt s id with
        | none => runBuild n { b with job := none } s
        | some j =>
          match j.result with
          | none => putBuild b true s
          | some r =>
            let (bytes, s) := builtBytes b k r j.got (dropJob id s)
            let b := { b with job := none, counts := countBytes b.counts bytes }
            runBuild n (if b.blk + 1 < 512 then { b with blk := b.blk + 1 } else { b with blk := 0, todo := ks }) s

/-- Turns that suffice for a build: three for each block. -/
def buildFuel (b : Build) : Nat := 3 * 512 * b.todo.length + 2

/-- Every build goes on as far as its reads let it. -/
def settleBuilds (s : State) : State := s.work.builds.foldl (fun s b => runBuild (buildFuel b) b s) s

/-- Every access that waits runs again, and the builds go on. -/
def wakeJobs (s : State) : State := settleBuilds (rerunJobs s)

/-! ## What trays and lenders answer (R67, R69, R70, R79) -/

/-- A READ_RESP's ciphertext reaches an access: discarded where its key is gone (R361), else what was fetched is decrypted
and used (R159). -/
def jobData (id : Nat) (cipher : List Byte) (s : State) : State :=
  match jobAt s id with
  | none => s
  | some j =>
    match memKey s j.key.1 (extAt s j.key).keyId with
    | none => endJob j .discarded (discardBlock s)
    | some key =>
      let old := Config.xtsDec key (tweakOf j.key (jobBlk j)) cipher
      runJob id (haveBlock { j with phase := .waiting } old (modJob id (fun q => { q with phase := .waiting }) s))

/-- The write of an access's block is done: acknowledged, or durable on flash. -/
def jobWritten (id : Nat) (s : State) : State :=
  match jobAt s id with
  | none => s
  | some j => if j.phase = .writing then wakeJobs (runJob id (blockDone j [] s)) else s

/-- An access's tray or lender has failed it: TIER_ERROR with a cause, or POISONED (R69, R70). -/
def jobFailed (id : Nat) (r : PoolRes) (s : State) : State :=
  match jobAt s id with
  | none => s
  | some j => wakeJobs (endJob j r s)

/-- The erase block of a flash slot counts a read (R65). -/
def countRead (n : Node) (addr : Nat) (s : State) : State :=
  let t := tray s n
  if t.mounted then modTray n (modEb (blockOf n (BitVec.ofNat 32 (addr / 4096))) fun e => { e with reads := e.reads + 1 }) s
  else s

/-- The slot that a request to a flash tray names. -/
def slotAt (addr : Nat) : W32 := BitVec.ofNat 32 (addr / 4096)

/-- The write to a slot of a page being programmed has been answered. -/
def pageAck (n : Node) (addr : Nat) (s : State) : State :=
  modTray n (fun t => { t with pages := t.pages.map fun p => { p with unacked := p.unacked.filter fun v => ¬ v = slotAt addr } }) s

/-- FLASH_WRITE_DURABLE: the oldest page and the journal records of its writes are durable: the map takes the new slots,
and the writes are acknowledged (R67). The page's WRITEs must have been answered. -/
def execFlashWriteDurable (n : Node) (s : State) : Res :=
  match (tray s n).pages with
  | [] => .next s
  | p :: ps =>
    if p.unacked ≠ [] then .next s
    else
      let s := modTray n (fun t => p.writes.foldl (fun t w => mapUnit n w.1.unit w.2 t) { t with pages := ps }) s
      .next ((p.writes.filterMap fun w => w.1.job).foldl (fun s id => jobWritten id s) s)

/-- R69: the units of a flash page that cannot be corrected are poisoned. DESIGN CHOICE (log entry 171): no journal record
is written and the erase block's count of valid units stays, so that a mount from an older checkpoint may show the old
slots again. -/
def poisonPage (n : Node) (addr : Nat) (s : State) : State :=
  let ps := Config.pageSlots n
  let hit (v : W32) : Bool := realSlot v && v.toNat / ps == addr / 4096 / ps
  modTray n (fun t => { t with map := t.map.map fun m => if hit m.2 then (m.1, poisonedSlot) else m }) s

/-! ## The patrol and retirements, which release what waits (R49, R51) -/

/-- PATROL_READ (R51). -/
def execPatrolRead (k : StackIx) (loc : Nat) (ecc : EccResult) (last : Bool) (s : State) : Res :=
  .next (patrol k loc ecc last s)


/-- A caller may write a W1S field that R462 opens to PF0 of either port, and Keeper firmware. -/
def isPf0 (c : Caller) : Bool := match c with | .fn f => f.val % 64 = 0 | .board => false | .keeper => true

/-- FORCE_FAIL (R46): PF0 of either port, or Keeper firmware, declares a stack Failed. -/
def execForceFail (c : Caller) (k : StackIx) (s : State) : Res :=
  if isPf0 c = true then .next (wakeJobs (failStack k (modStk k (fun q => { q with forceFail := true }) s))) else .next s

end Sys2Proof.Machine
end

