-- ==== Sys2Proof/Machine/Sample.lean ====
section
/-! DEFINITION. The samplers of a port (R292, R293). -/

namespace Sys2Proof.Machine

/-- What a sample says of its frame. -/
structure SampleOf where
  ingress : Nat
  egress : Nat
  cls : Nat
  dropped : Bool := false
  len : Nat
  depth : Nat := 0
  /-- The first 256 bytes. -/
  head : List Byte
deriving DecidableEq, Repr

/-- The 32 B header and the frame's first 256 B. -/
def sampleBytes (f : SampleOf) (tx : Bool) (seq : Nat) (time : W64) : List Byte :=
  toLe 2 f.ingress ++ toLe 2 f.egress ++ [BitVec.ofNat 8 f.cls, BitVec.ofNat 8 (bitNat tx + 2 * bitNat f.dropped)] ++ toLe 2 f.len
    ++ toLe 4 f.depth ++ toLe 4 seq ++ toLe 8 time.toNat ++ toLe 8 0 ++ padTo 256 (f.head.take 256)

/-- The Shed passes 1,000,000 samples in a second; those beyond are counted and dropped. -/
def passSample (sh : ShedIx) (now : Nat) (s : State) : Bool × State :=
  let sec := now / 10 ^ 9
  let c := sched s sh
  let n := if c.sampleSec = sec then c.sampleN else 0
  if n < 1000000 then (true, modSched sh (fun c => { c with sampleSec := sec, sampleN := n + 1 }) s)
  else (false, setSchEvt 4 sh (modSched sh (fun c => { c with sampleDrop := satInc c.sampleDrop }) s))

/-- A sample goes to the admin channel named in the journal, or in one datagram to the collector node. While the Keeper is
away a sample for it is dropped and counted (R349). -/
def deliverSample (sh : ShedIx) (dest : BitVec 2) (bytes : List Byte) (s : State) : State :=
  if dest = 1 ∧ s.kpr.state ≠ .running then { s with kpr := { s.kpr with sampleDrop := satInc s.kpr.sampleDrop } }
  else if dest = 1 then shedNotice sh (if effective s 0x20909 = 64 then 64 else 0) 8 bytes s
  else
    let node : Node := BitVec.ofNat 16 (effective s 0x2090A)
    let (k, s) := takePick s
    match nodeEntry s.routes.current node with
    | none => s
    | some e => match pickPort s e k with
      | none => s
      | some q => enqueueOwn q 0
          { body := .sample node bytes (wrapOf s s.routes.current e q 0 (BitVec.ofNat 16 k) (BitVec.ofNat 16 (effective s 0x2090B))
              fun _ => bytes),
            ingress := none, len := 14 + (if e.tagged then 4 else 0) + (if e.ipv6 then 40 else 20) + 8 + bytes.length + 4 } s

/-- One of a port's samplers, changed. -/
def modSampler (p : PortIx) (tx : Bool) (f : Sampler → Sampler) (s : State) : State :=
  modPortQ p (fun q => if tx then { q with tx := f q.tx } else { q with rx := f q.rx }) s

/-- A port's sampler counts a frame, and samples it when its countdown reaches zero. The countdown before the first sample
is open. -/
def sampleFrame (p : PortIx) (tx : Bool) (now : Nat) (time : W64) (f : SampleOf) (s : State) : State :=
  let m := if tx then (portQ s p).tx else (portQ s p).rx
  let n := m.n.toNat
  if n = 0 ∨ m.dest = 0 ∨ m.dest = 3 then s
  else
    let (k, s) := match m.countdown with
      | some k => (k, s)
      | none => let (k, s) := takePick s; (1 + k % (2 * n - 1), s)
    if 1 < k then modSampler p tx (fun m => { m with countdown := some (k - 1) }) s
    else
      let u := (stepMix (BitVec.ofNat 64 (effective s 0x20908)) m.count
        (BitVec.ofNat 16 (0xC000 + p.val + 512 * bitNat tx)) 0).toNat % 2 ^ 32
      let s := modSampler p tx (fun m => { m with countdown := some (1 + u % (2 * n - 1)), count := m.count + 1 }) s
      let (ok, s) := passSample (portShed p) now s
      if ok then deliverSample (portShed p) m.dest (sampleBytes f tx m.count.toNat time) s else s

/-- A port's gate control block (R285 to R287), and port time, in ns, at an LNI time. -/
def gate (s : State) (p : PortIx) : Gate := aGetD s.sw.gates p {}
def portTime (g : Gate) (now : Nat) : Nat := ((now : Int) + g.off.toInt).toNat

/-- The port time at an LNI time, as a sample shows it. -/
def stampOf (s : State) (p : PortIx) (lni : Nat) : W64 := BitVec.ofNat 64 (portTime (gate s p) lni)

/-- A packet for the device is received. -/
def sampleRx (p : Rx) (dropped : Bool) (s : State) : State :=
  sampleFrame p.port false p.now (stampOf s p.port p.l2.lni)
    { ingress := p.port.val, egress := 0xFFFF, cls := p.cls.toNat, dropped, len := rxLen p, head := p.l2.head } s

end Sys2Proof.Machine
end

