-- ==== Sys2Proof/Machine/Cmx.lean ====
section
/-! DEFINITION. The ingress pipeline of R22: stations 2 and 3, the pair's check (R84 to R91), station 4 (R99 to R102),
stations 5 to 8 (R333, R360, R34, R36, R357, R119 to R131), and what waits for a moved home or the control area. -/

namespace Sys2Proof.Machine

/-! ## Stations 2 and 3 (R72 to R81) -/

/-- A packet reaches station 2: its port's link is up and not suppressed (R422), and its Shed's SHC runs (R294). -/
def rxArrives (s : State) (p : Rx) : Bool := portUsable s p.port && islRunning s (shcOf (portShed p.port))

/-- Flag bits of R77. -/
def flagBit (p : Rx) (b : Nat) : Bool := p.flags.getLsbD b

/-- The headers of station 3: frames with two tags, fragments, IPv4 options, another UDP port, a bad checksum or length
are dropped, and so are reserved versions, header types, classes and source nodes. -/
def headersOk (s : State) (op : BitVec 8) (ht : BitVec 4) (p : Rx) : Bool :=
  decide (p.l2.vlanTags ≤ 1) && !p.l2.ipFragment && !p.l2.ipOptions && p.l2.udpPort == s.udpPort && p.l2.udpSumOk
    && p.version == 1 && p.htype == ht && decide (p.length.toNat ≤ 4096) && decide (p.cls.toNat < 8)
    && p.src ≠ 0 && p.src ≠ 0xFFFF
    && (if op = 0x01 then p.payload.isEmpty && decide (1 ≤ p.length.toNat)
        else decide (p.payload.length = p.length.toNat))
    && decide (p.l2.udpLen = 40 + p.payload.length)

/-- A packet is dropped at station 2. -/
def drop2 (p : Rx) (s : State) : State := modPort p.port (fun q => { q with dropMacsec := satInc q.dropMacsec }) s
/-- A packet is dropped at station 3. -/
def drop3 (p : Rx) (s : State) : State := modPort p.port (fun q => { q with dropHeader := satInc q.dropHeader }) s

/-- A request's range lies within one extent (R81). -/
def inExtent (p : Rx) : Bool := decide (addrOff p.addr + p.length.toNat ≤ 2 ^ 21)

/-- The forms that station 3 drops by opcode (R79, R80, R81, R83); a chunk carries exactly 4,096 B (R172). -/
def formOk (s : State) (op : BitVec 8) (p : Rx) : Bool :=
  if op = 0x01 then !flagBit p 5 && inExtent p
  else if op = 0x03 ∨ op = 0x05 then
    !(op == 0x03 && flagBit p 5) && decide (1 ≤ p.length.toNat) && inExtent p
      && !(flagBit p 1 && (extAt s (p.pen, addrExt p.addr)).v && (extAt s (p.pen, addrExt p.addr)).comp
           && !(decide (p.addr.toNat % 4096 = 0) && decide (p.length = 4096)))
  else if op = 0x08 then
    decide (p.addr.toNat % 8 = 0)
      && decide (p.length.toNat = if bitsOf p.flags.toNat 7 6 = 1 then 16 else 8)
  else if op = 0x20 ∨ op = 0x21 then decide (p.length = 4096)
  else true

/-! ## The pair's check (R84 to R87, R93) -/

/-- A cumulative value moved up over the numbers listed beyond it. -/
def absorb : Nat → W32 → List W32 → W32 × List W32
  | 0, c, l => (c, l)
  | n + 1, c, l => if l.contains (c + 1) then absorb n (c + 1) (l.filter fun x => ¬ x = c + 1) else (c, l)

/-- A packet or a store counts as settled (R93). -/
def settle (n : Node) (seq : W32) (s : State) : State :=
  modPair n (fun p =>
    let (t, l) := absorb (p.settledSel.length + 1) p.settled (p.settledSel ++ [seq])
    { p with settled := t, settledSel := l }) s

/-- What the pair's check makes of a Sequenced packet. -/
inductive Arrival where
  | fresh | duplicate | beyond
deriving DecidableEq, Repr

def arrivalOf (pr : Pair) (seq : W32) : Arrival :=
  let d := (seq - pr.rxCum).toNat
  if d = 0 ∨ 2 ^ 31 ≤ d ∨ pr.rxSel.contains seq then .duplicate else if 2048 < d then .beyond else .fresh

/-- A packet from a node without pair state: event 0x0011, once in each second of its transport Shed (R86). -/
def stranger (n : Node) (now : Nat) (s : State) : State :=
  let sec := now / 10 ^ 9
  if aGet s.strangers n = some sec then s
  else codedD 0x11 (shcOf (homeMap s (nodeSlot n))) 0 n.toNat 0 0 { s with strangers := aSet s.strangers n sec }

/-- A packet has arrived: S moves, and an Acknowledgement goes after 16 arrivals or beyond a gap (R87). -/
def noteArrival (n : Node) (seq : W32) (ce : Bool) (pr : Pair) (s : State) : State :=
  let gap := seq ≠ pr.rxCum + 1
  let s := modPair n (fun p =>
    let (c, l) := absorb (p.rxSel.length + 1) p.rxCum (p.rxSel ++ [seq])
    { p with rxCum := c, rxSel := l, arrivals := p.arrivals + 1, ceEcho := p.ceEcho || ce }) s
  if gap ∨ 16 ≤ pr.arrivals + 1 then sendAck n s else s

/-- The transport Shed's check: a packet that goes on, and the state with its arrival noted; a duplicate is
acknowledged and discarded, a packet beyond the window dropped and counted. -/
def pairCheck (p : Rx) (s : State) : Bool × State :=
  match aGet s.pairs p.src with
  | none => (false, stranger p.src p.now s)
  | some pr =>
    match arrivalOf pr p.seq with
    | .fresh => (true, noteArrival p.src p.seq p.l2.ce pr s)
    | .duplicate =>
      (false, sendAck p.src (modPair p.src (fun q => { q with duplicates := satInc q.duplicates, ceEcho := q.ceEcho || p.l2.ce }) s))
    | .beyond => (false, modPair p.src (fun q => { q with beyond := satInc q.beyond, ceEcho := q.ceEcho || p.l2.ce }) s)

/-- The locations that have come to hold an error (R45). -/
def noteFlaws (p : Rx) (s : State) : State :=
  { s with near := { s.near with flaws := p.flaws.foldl (fun m f => aSet m f.1 f.2) s.near.flaws } }

/-- Stations 2 and 3 and the pair's check of a Sequenced packet: whether it goes on, and the state. -/
def letIn (op : BitVec 8) (p : Rx) (s : State) : Bool × State :=
  if rxArrives s p = false then (false, s)
  else if (port s p.port).macsec ∧ p.l2.macsecOk = false then (false, sampleRx p true (drop2 p s))
  else if headersOk s op 0 p = false ∨ formOk s op p = false then (false, sampleRx p true (drop3 p s))
  else pairCheck p (sampleRx p false (noteFlaws p s))

/-! ## Leases (R123 to R125) -/

def leaseAt (s : State) (p : BitVec 12) (h : Holder) : Option Lease := aGet s.share.leases (p, h)
def modLease (p : BitVec 12) (h : Holder) (f : Lease → Lease) (s : State) : State :=
  { s with share := { s.share with leases := aAdjust s.share.leases (p, h) f } }

/-- A lease is Revoked. -/
def leaseRevoked (s : State) (p : BitVec 12) (h : Holder) : Bool := ((leaseAt s p h).map (·.st)) == some .revoked

/-- A lease's duration in ms: the value set for the holder, or the default (R124, R138). -/
def leaseDur (s : State) (p : BitVec 12) (h : Holder) : Nat := aGetD s.share.durations (p, h) (effective s 0x20400 / 10 ^ 6)

/-- A creating event's lease can be made: it exists, or fewer than 262,144 do (R139). -/
def leaseRoom (s : State) (p : BitVec 12) (h : Holder) : Bool :=
  (leaseAt s p h).isSome || decide (s.share.leases.length < 262144)

/-- A creating event of R124: a holder without a lease gets one, Active. -/
def createLease (p : BitVec 12) (h : Holder) (s : State) : State :=
  match leaseAt s p h with
  | some _ => s
  | none => { s with share := { s.share with leases := aSet s.share.leases (p, h) { dur := leaseDur s p h } } }

/-- A renewal (R125): the timer restarts at its full duration; in Grace it counts a late renewal. -/
def renewLease (p : BitVec 12) (h : Holder) (s : State) : State :=
  let d := leaseDur s p h
  modLease p h (fun l =>
    if l.st = .grace then { l with st := .active, late := satInc l.late, dur := d } else { l with dur := d }) s

/-! ## Handles (R119, R120, R122) -/

def handleAt (s : State) (h : W32) : Option Handle := aGet s.share.handles h

/-- The handle is open in a Pen. -/
def handleOpen (s : State) (p : BitVec 12) (h : W32) : Option Handle :=
  match handleAt s h with
  | some x => if x.isOpen ∧ x.pen = p then some x else none
  | none => none

/-- The handle is granted: its region is another Pen's (R122). -/
def isGranted (x : Handle) : Bool := x.rpen ≠ x.pen

def regionAt (s : State) (p : BitVec 12) (r : W32) : Option Region := aGet s.share.regions (p, r)

/-- STALE_BASE's detail for a handle that is not open (R120, R122): the latest version of its region, or 0 where the region
or the granting Pen is gone. -/
def staleDetail (s : State) (h : W32) : W32 :=
  match handleAt s h with
  | some x => match regionAt s x.rpen x.region with
    | some r => if x.void then 0 else r.latest
    | none => 0
  | none => 0

/-- A version's map names a block of an extent. -/
def versionHas (s : State) (x : Handle) (e : BitVec 35) : Bool :=
  match regionAt s x.rpen x.region with
  | some r => (aGetD r.versions x.version []).any fun m => m.2 / 512 == e.toNat
  | none => false

/-- A version's map names a block. -/
def versionBlock (s : State) (x : Handle) (b : Nat) : Bool :=
  match regionAt s x.rpen x.region with
  | some r => (aGetD r.versions x.version []).any fun m => m.2 == b
  | none => false

/-! ## Station 4 (R100 to R102) -/

/-- STALE_EPOCH's detail word (R105). -/
def epochDetail (s : State) (ahead noRoute : Bool) : W32 :=
  BitVec.ofNat 32 (s.routes.current.epoch.toNat * 65536 + bitNat ahead + 2 * bitNat noRoute)

/-- Station 4's outcome: none where the request goes on, else the detail of its NACK. -/
def epochCheck (s : State) (e : BitVec 16) : Option W32 :=
  let d := (e - s.routes.current.epoch).toNat
  if d = 0 then none
  else if d = 0xFFFF ∧ s.routes.previous.isSome then none
  else some (epochDetail s (decide (d < 0x8000)) false)

/-! ## Stations 5 to 8 -/

/-- What the stations make of a request. -/
inductive Verdict where
  | pass
  | nack (reason : BitVec 8) (station : Nat) (detail : W32)
  /-- It waits for a home slot's rebuild (R15), or, with none, for the control area (R38). -/
  | wait (slot : Option (Fin 4))
deriving DecidableEq, Repr

/-- The window of R333 that an address of Pen 0 lies in: channel and offset. -/
def peerWindow (a : BitVec 56) : Option (ChanIx × Nat) :=
  let base := 0x00FFFFFFF0000000
  if base ≤ a.toNat ∧ a.toNat < base + 32 * 0x4000 then
    some (Fin.ofNat 160 (128 + (a.toNat - base) / 0x4000), (a.toNat - base) % 0x4000)
  else none

/-- An INVALIDATE names a region: its GROUP holds a region id, which is never 0 (R110, R128). -/
def namesRegion (p : Rx) : Bool := p.group ≠ 0

/-- Requests that name an extent of the pool. -/
def namesExtent (op : BitVec 8) (p : Rx) : Bool :=
  op == 0x01 || isStore op || op == 0x58 || op == 0x59 || op == 0x5A || (op == 0x10 && !namesRegion p)
    || (op == 0x40 && p.addr ≠ 0)

/-- Requests whose form carries no address and no key: gathers and filters (R195), lending, and a LEASE_RENEW or an
INVALIDATE that names no extent (R83). -/
def keyFree (op : BitVec 8) (p : Rx) : Bool :=
  op == 0x28 || op == 0x30
    || (p.keyId == 0 && (op == 0x44 || op == 0x45 || ((op == 0x40 || op == 0x10) && !namesExtent op p)))

/-- The KEY_ID of a gather's or filter's descriptor, where the request carries a granted handle: it serves the writes into
the reader Pen, and is checked when it is not 0 (R122). -/
def grantKey (op : BitVec 8) (p : Rx) (s : State) : BitVec 8 :=
  match handleOpen s p.pen p.handle with
  | some x => if isGranted x ∧ op = 0x28 then p.payload.getD 14 0
              else if isGranted x ∧ op = 0x30 then p.payload.getD 10 0 else 0
  | none => 0

/-- Station 5 (R333, R360, R375): the Pen's state and the key id. -/
def gate5 (op : BitVec 8) (p : Rx) (s : State) : Verdict :=
  if p.pen = 0 then
    match peerWindow p.addr with
    | some (c, _) => if p.keyId = 0 ∧ (chan s c).peerNode = p.src then .pass else .nack rPenClosed 5 0
    | none => if p.keyId = 0 then .pass else .nack rPenClosed 5 0
  else if (pen s p.pen).state ≠ .active then .nack rPenClosed 5 0
  else
    let loose : Bool := match handleAt s p.handle with
      | some x => x.pen == p.pen && isGranted x
      | none => false
    if grantKey op p s ≠ 0 ∧ keyInstalled s p.pen (grantKey op p s) = false then .nack rPenClosed 5 0
    else if keyFree op p ∨ (loose ∧ p.keyId = 0) ∨ keyInstalled s p.pen p.keyId then .pass else .nack rPenClosed 5 0

/-- The extent that a request names, in the table that translates it (R122). -/
def rxKey (s : State) (p : Rx) : ExtKey :=
  match handleOpen s p.pen p.handle with
  | some x => (x.rpen, addrExt p.addr)
  | none => (p.pen, addrExt p.addr)

/-- The handle that a request carries is not open in its Pen: it ends at station 8, and no table translates it. -/
def unopened (s : State) (p : Rx) : Bool := p.handle ≠ 0 && (handleOpen s p.pen p.handle).isNone

/-- The tier of an extent is absent, with R105's cause: a tray or lender away or not admitted, or a flash tray that is not
mounted. An extent that migrates has blocks in two tiers, and a staged image is read whatever its home (R58): station 9
finds what is absent there. -/
def tierAbsent (s : State) (op : BitVec 8) (k : ExtKey) (p : Rx) (e : Extent) : Option Nat :=
  if e.st = .migrating ∨ (op = 0x01 ∧ (imageOf s k (addrOff p.addr / 4096)).isSome) then none
  else match e.tier with
    | .near => none
    | .lent | .tray => if nodeUp s e.node then none else some 3
    | .flash => if (tray s e.node).mounted = false then some 5 else if nodeUp s e.node then none else some 3

/-- The extent's key id and its tier (R22, R34): under a granted handle the extent must be Sealed and in the granted version
instead (R122). -/
def gateExtent (op : BitVec 8) (p : Rx) (e : Extent) (s : State) : Verdict :=
  let granted : Option Handle := (handleOpen s p.pen p.handle).filter isGranted
  if (granted.any fun x => decide (¬ (e.cls = .sealed)) || !versionHas s x (addrExt p.addr)) then .nack rTierError 6 noExtent
  else if e.st = .lost then .nack rTierError 6 (tierDetail (tierCode e.tier) 2)
  else if granted.isNone ∧ e.keyId ≠ p.keyId then .nack rPenClosed 6 1
  else match tierAbsent s op (rxKey s p) p e with
    | some c => .nack rTierError 6 (tierDetail (tierCode e.tier) c)
    | none => .pass

/-- Station 6 (R22, R34, R36, R64, R122): translation, the extent's key id and its tier. In Pen 0 it admits the accesses
that a peer mailbox takes (R333). -/
def gate6 (op : BitVec 8) (p : Rx) (s : State) : Verdict :=
  if p.pen = 0 then
    (if (op = 0x01 ∨ isStore op) ∧ (peerWindow p.addr).isSome then .pass else .nack rTierError 6 noExtent)
  else if namesExtent op p = false ∨ unopened s p then .pass
  else match leaf s (rxKey s p) with
    | none => .nack rTierError 6 noExtent
    | some e => gateExtent op p e s

/-- A lease that a request would create, for its sender: a READ with TRACK, a LEASE_RENEW, an OWNER_ACCEPT (R124). -/
def createsLease (op : BitVec 8) (p : Rx) : Bool := (op == 0x01 && flagBit p 0) || op == 0x40 || op == 0x59

/-- The home slots on whose state a request rests (R15): its extent's, its sender's lease, its region's, its group's. -/
def rxSlots (s : State) (op : BitVec 8) (p : Rx) : List (Fin 4) :=
  if p.pen = 0 then []
  else (if namesExtent op p then [keySlot (rxKey s p)] else [])
    ++ (if createsLease op p then [nodeSlot p.src] else [])
    ++ (if op = 0x10 ∧ namesRegion p then [Fin.ofNat 4 (p.pen.toNat + p.group.toNat)] else [])
    ++ (if op = 0x20 then [Fin.ofNat 4 p.group.toNat] else [])

/-- The wait for a home slot that is being rebuilt (R15). -/
def gateSlots (op : BitVec 8) (p : Rx) (s : State) : Verdict :=
  match (rxSlots s op p).find? (slotMoving s) with
  | some n => .wait (some n)
  | none => .pass

/-- R131: who may store to an extent with an owner record. -/
def ownerAllows (e : Extent) (n : Node) : Option W32 :=
  match e.owner with
  | none => none
  | some o => if o.epoch.getLsbD 0 ∨ o.owner ≠ n then some o.epoch else none

/-- An extent is held under a node's lease (R123). -/
def heldByNode (e : Extent) (n : Node) : Bool := match e.owner with | some o => o.owner == n | none => false

/-- Station 7 (R139, R357): the Pen's quota of the tier, and the limit of the lease records. -/
def gate7 (op : BitVec 8) (p : Rx) (s : State) : Verdict :=
  let t := (extAt s (rxKey s p)).tier
  if isStore op ∧ overQuota s p.pen t then .nack rQuota 7 (BitVec.ofNat 32 (tierCode t))
  else if createsLease op p ∧ leaseRoom s p.pen (.node p.src) = false then .nack rQuota 7 0 else .pass

/-- Station 8's handle check (R120), last of the three. -/
def gate8base (p : Rx) (s : State) : Verdict :=
  if p.handle = 0 ∨ (handleOpen s p.pen p.handle).isSome then .pass else .nack rStaleBase 8 (staleDetail s p.handle)

/-- The owner part of station 8: Sealed extents (R40), granted handles (R122), owner records (R131). -/
def gate8owner (op : BitVec 8) (p : Rx) (s : State) : Verdict :=
  let e := extAt s (rxKey s p)
  let granted : Bool := match handleOpen s p.pen p.handle with | some x => isGranted x | none => false
  let named := namesExtent op p && !unopened s p
  if granted ∧ (isStore op ∨ op = 0x40 ∨ (op = 0x01 ∧ flagBit p 0)) then .nack rNotOwner 8 0xFFFFFFFF
  else if named ∧ e.cls = .sealed ∧ (isStore op ∨ op = 0x58 ∨ op = 0x59 ∨ op = 0x5A) then .nack rNotOwner 8 0xFFFFFFFF
  else if named ∧ isStore op then
    match ownerAllows e p.src with
    | some d => .nack rNotOwner 8 d
    | none => .pass
  else .pass

/-- The lease part of station 8: a Revoked holder, a Draining or Scrubbing extent (R125, R126). An OWNER_ACCEPT of an
extent that waits in Draining for its transfer passes: R126 step 4 lets the transfer end with an accept. -/
def gate8lease (op : BitVec 8) (p : Rx) (s : State) : Verdict :=
  let e := extAt s (rxKey s p)
  let moving : Bool := match e.owner with | some o => o.epoch.getLsbD 0 | none => false
  if leaseRevoked s p.pen (.node p.src) then .nack rLeaseRevoked 8 0
  else if op = 0x59 ∧ moving ∧ e.st = .draining then .pass
  else if namesExtent op p ∧ e.v ∧ (e.st = .draining ∨ e.st = .scrubbing) then .nack rLeaseRevoked 8 0
  else .pass

/-- The first gate that does not pass. -/
def firstGate : List Verdict → Verdict
  | [] => .pass
  | .pass :: gs => firstGate gs
  | g :: _ => g

/-- What the home of an extent checks of an access (R22 stations 7 and 8), but for the access's handle. -/
def homeGates (op : BitVec 8) (p : Rx) (s : State) : List Verdict := [gate7 op p s, gate8lease op p s, gate8owner op p s]

/-- A request's address is translated by a Pen's extent table: not in Pen 0 (R333), nor under a handle that is not open. -/
def translated (s : State) (op : BitVec 8) (p : Rx) : Bool := p.pen ≠ 0 && namesExtent op p && !unopened s p

/-- Stations 6 to 8 in order, with the waits of R15 and R38 before and after station 6. `walk` is the control block that a
translation which misses its cache reads. Stations 7 and 8 do not apply to Pen 0 (R333). -/
def lateGates (op : BitVec 8) (p : Rx) (walk : Nat) (s : State) : List Verdict :=
  let ctl : Verdict := if translated s op p ∧ etcHit s (portShed p.port) (rxKey s p) = false ∧ ctlUp s walk = false
    then .wait none else .pass
  let late := if p.pen = 0 then [] else homeGates op p s ++ [gate8base p s]
  [ctl, gate6 op p s, gateSlots op p s] ++ late

/-- Stations 5 to 8 in order. -/
def gates (op : BitVec 8) (p : Rx) (walk : Nat) (s : State) : Verdict :=
  firstGate (gate5 op p s :: lateGates op p walk s)

/-! ## A request (R22) -/

/-- The 40 B header of a packet (R76). -/
def hdrBytes (op : BitVec 8) (p : Rx) : List Byte :=
  [p.version.setWidth 8 <<< 4 ||| p.htype.setWidth 8, op] ++ toBe 2 p.flags.toNat ++ toBe 2 (p.pen.toNat * 16 + p.cls.toNat)
    ++ toBe 2 p.src.toNat ++ toBe 4 p.seq.toNat ++ toBe 2 p.epoch.toNat ++ toBe 2 p.length.toNat
    ++ toBe 8 (p.addr.toNat * 256 + p.keyId.toNat) ++ toBe 4 p.group.toNat ++ toBe 4 p.step.toNat
    ++ toBe 4 p.handle.toNat ++ toBe 4 p.tag.toNat

/-- The control requests that the Input Journal records (R391). -/
def isControl (op : BitVec 8) : Bool := [0x10, 0x11, 0x40, 0x44, 0x45, 0x50, 0x58, 0x59, 0x5A].contains op.toNat

/-- The KIND 3 record of a control packet. -/
def recordPacket (op : BitVec 8) (p : Rx) (s : State) : State :=
  if isControl op then ijnAppend 3 (portShed p.port).val p.src.toNat (hdrBytes op p ++ p.payload) s else s

/-- A request of a Closing or quarantined Pen counts (R375). -/
def countPenDrop (p : Rx) (s : State) : State :=
  let st := (pen s p.pen).state
  if p.pen ≠ 0 ∧ (st = .closing ∨ st = .quarantine) then { s with sec := { s.sec with penDrop := satInc s.sec.penDrop } } else s

/-- The ingress Shed has translated a request: the leaf entry is the most recently used of its cache (R36). -/
def touchRx (op : BitVec 8) (p : Rx) (s : State) : State :=
  if translated s op p ∧ (leaf s (rxKey s p)).isSome then touchEtc (portShed p.port) (rxKey s p) s else s

/-- What the stations' verdict makes of a request: its wait, its NACK, or its own effect. -/
def byVerdict (v : Verdict) (op : BitVec 8) (p : Rx) (act : Rx → State → State) (s : State) : State :=
  match v with
  | .wait n =>
    let s := if n.isSome then touchRx op p s else s
    pfcSettle { s with share := { s.share with waiting := s.share.waiting ++ [(n, .cmx op p)] } }
  | .nack reason st d =>
    let s := if st = 5 then countPenDrop p s else touchRx op p s
    nack p reason st d (endIfStore op p s)
  | .pass => act p (recordPacket op p (touchRx op p s))

/-- A translation that misses its cache reads a control block, and meets the errors of its location (R37). -/
def walkCtl (op : BitVec 8) (p : Rx) (walk : Nat) (s : State) : State :=
  if translated s op p ∧ etcHit s (portShed p.port) (rxKey s p) = false then meetCtl walk s else s

/-- A request after station 4: stations 5 to 8, then its own effect. -/
def afterStation4 (op : BitVec 8) (p : Rx) (act : Rx → State → State) (s : State) : State :=
  let (k, s) := takePick s
  let w := k % (s.near.ctl / 4096)
  let s := if gate5 op p s = .pass then walkCtl op p w s else s
  byVerdict (gates op p w s) op p act s

/-- A request that waited goes on: it has passed station 5, and is in flight for its Pen's teardown (R376). -/
def afterStation5 (op : BitVec 8) (p : Rx) (act : Rx → State → State) (s : State) : State :=
  let (k, s) := takePick s
  let w := k % (s.near.ctl / 4096)
  let s := walkCtl op p w s
  byVerdict (firstGate (lateGates op p w s)) op p act s

/-- A request from station 4 on (R100). -/
def fromStation4 (op : BitVec 8) (p : Rx) (act : Rx → State → State) (s : State) : State :=
  match epochCheck s p.epoch with
  | some d => send p.src (nackPkt p rStaleEpoch 4 d) (endIfStore op p s)
  | none => afterStation4 op p act (admitEpoch p.epoch s)

/-- A CMX request arrives (R22): stations in order, the first failing check deciding. -/
def request (op : BitVec 8) (p : Rx) (act : Rx → State → State) (s : State) : State :=
  match letIn op p s with
  | (false, s) => s
  | (true, s) =>
    let s := if isStore op then s else settle p.src p.seq s
    fromStation4 op p act s

/-- A response arrives: no station 4 and no key check (R101, R360); its own effect follows. -/
def response (op : BitVec 8) (p : Rx) (act : Rx → State → State) (s : State) : State :=
  match letIn op p s with
  | (false, s) => s
  | (true, s) => act p (settle p.src p.seq s)

/-- The request is over without a response of its own still to come: its epoch's count falls. -/
def doneQuietly (p : Rx) (s : State) : State := finishEpoch p.epoch s

end Sys2Proof.Machine
end

