-- ==== Sys2Proof/Machine/Aperture.lean ====
section
/-! DEFINITION. The pool aperture of a PCIe function (R424 to R427): BAR2 reads and writes that act as pool requests of the
device's node. -/

namespace Sys2Proof.Machine

/-- The size of a function's aperture: 16 GiB of a PF0, the size applied at boot of a VF (R424). -/
def aprSize (s : State) (f : FnIx) : Nat := if f.val % 64 = 0 then 2 ^ 34 else s.vfSize

/-- The Active Pen to which a VF's channel is bound. -/
def vfPen (s : State) (f : FnIx) : Option (BitVec 12) :=
  let c := chan s (Fin.ofNat 160 f.val)
  if c.bound ∧ (pen s c.pen).state = .active then some c.pen else none

/-- The entry through which an access at an offset goes, its Pen that of the VF's channel; none beyond the aperture, at V = 0,
and for a VF without an Active Pen (R426, and the table of APR_LO). -/
def aprEntry (s : State) (f : FnIx) (off : Nat) : Option AprEntry :=
  if aprSize s f ≤ off then none
  else
    let e := aGetD (fnSt s f).apr (Fin.ofNat 8192 (off / 2 ^ 21)) {}
    if e.v = false then none
    else if f.val % 64 = 0 then some e
    else (vfPen s f).map (fun p => { e with pen := p })

/-- The request that an aperture access makes of the device's node (R425). -/
def aprRx (s : State) (sh : ShedIx) (p : BitVec 12) (key : BitVec 8) (addr : BitVec 56) (len : Nat) : Rx :=
  { port := Fin.ofNat 512 (128 * sh.val), l2 := { udpLen := 40 }, src := localNode s, pen := p, keyId := key,
    length := BitVec.ofNat 16 len, addr }

/-- The end of an access that a station refuses: a counted Completer Abort, or a counted discard (R426). -/
def aprFails (f : FnIx) (store : Bool) (s : State) : State :=
  let s := aprError f s
  if store then s else emit (.completion f 4 []) s

/-- What the access of a function that waits longest waits for: later accesses of the function keep their order (R425). -/
def aprQueued (s : State) (f : FnIx) : Option (Option (Fin 4)) :=
  (s.share.waiting.find? fun w => match w.2 with | .apr g _ _ _ _ _ => g == f | _ => false).map (·.1)

/-- A translated access goes through stations 5 to 9 of R22. Which Shed translates it is a free choice. Pen 0 holds no
extents, so an entry of Pen 0 reaches nothing. -/
def aprGo (f : FnIx) (p : BitVec 12) (key : BitVec 8) (addr : BitVec 56) (len : Nat) (data : Option (List Byte)) (s : State) : State :=
  let (k, s) := takePick s
  let sh := shedOf k
  let rx := aprRx s sh p key addr len
  let op : BitVec 8 := if data.isSome then 0x03 else 0x01
  let hold (n : Option (Fin 4)) : State :=
    { s with share := { s.share with waiting := s.share.waiting ++ [(n, .apr f p key addr len data)] } }
  match aprQueued s f with
  | some n => hold n
  | none =>
    if p = 0 then aprFails f data.isSome s
    else match gates op rx (k / 4 % (s.near.ctl / 4096)) s with
      | .wait n => hold n
      | .nack _ st _ => aprFails f data.isSome (if st = 5 then countPenDrop rx s else s)
      | .pass =>
        startJob { id := 0, orig := .apr f, pen := p, key := rxKey s rx, off := addrOff addr, len, store := data.isSome,
                   data := data.getD [] } (touchEtc sh (rxKey s rx) s)

/-- A TLP's pieces, split at each 4 KiB boundary: offset and length (R425). -/
def aprPieces : Nat → Nat → Nat → List (Nat × Nat)
  | 0, _, _ => []
  | n + 1, off, len =>
    let room := 4096 - off % 4096
    if len ≤ room then [(off, len)] else (off, room) :: aprPieces n (off + room) (len - room)

/-- The Pool Address that an entry gives an offset (R425). -/
def aprAddr (e : AprEntry) (off : Nat) : BitVec 56 := BitVec.ofNat 56 (e.ext.toNat * 2 ^ 21 + off % 2 ^ 21)

/-- A piece of a read: Unsupported Request without an entry. -/
def aprRead (f : FnIx) (s : State) (q : Nat × Nat) : State :=
  match aprEntry s f q.1 with
  | none => emit (.completion f 1 []) s
  | some e => aprGo f e.pen e.keyId (aprAddr e q.1) q.2 none s

/-- A piece of a write, `base` the TLP's first offset: discarded without an entry that accepts writes. -/
def aprWrite (f : FnIx) (base : Nat) (data : List Byte) (s : State) (q : Nat × Nat) : State :=
  match aprEntry s f q.1 with
  | none => aprError f s
  | some e =>
    if e.write then aprGo f e.pen e.keyId (aprAddr e q.1) q.2 (some ((data.drop (q.1 - base)).take q.2)) s
    else aprError f s

/-- APERTURE_READ. -/
def execApertureRead (f : FnIx) (offset : BitVec 34) (length : Nat) (s : State) : Res :=
  .next ((aprPieces (length / 4096 + 2) offset.toNat length).foldl (aprRead f) s)

/-- APERTURE_WRITE. -/
def execApertureWrite (f : FnIx) (offset : BitVec 34) (data : List Byte) (s : State) : Res :=
  .next ((aprPieces (data.length / 4096 + 2) offset.toNat data.length).foldl (aprWrite f offset.toNat data) s)

/-! ## The aperture table (R427) -/

/-- APR_LO as a function reads it: a VF's PEN field reads as the bound Pen. -/
def aprLoWord (s : State) (f : FnIx) (w : Fin 8192) : W32 :=
  let v : W32 := aGetD (fnSt s f).aprLo w 0
  if f.val % 64 = 0 then v
  else
    let c := chan s (Fin.ofNat 160 f.val)
    pack [(0, bitsOf v.toNat 15 0), (16, if c.bound then c.pen.toNat else 0), (28, bitsOf v.toNat 30 28)]

/-- A write of APR_LO: its fields are kept; the entry does not change yet. -/
def aprLoWrite (f : FnIx) (w : Fin 8192) (v : W32) (s : State) : State :=
  modFn f (fun g => { g with aprLo := aSet g.aprLo w (v &&& 0x7FFFFF03) }) s

/-- A write of APR_HI: the entry's two halves take effect together. -/
def aprHiWrite (f : FnIx) (w : Fin 8192) (v : W32) (s : State) : State :=
  let lo := (aprLoWord s f w).toNat
  let e : AprEntry := { v := lo.testBit 0, write := lo.testBit 1, keyId := BitVec.ofNat 8 (bitsOf lo 15 8),
                        pen := BitVec.ofNat 12 (bitsOf lo 27 16), ext := BitVec.ofNat 35 (bitsOf lo 30 28 * 2 ^ 32 + v.toNat) }
  modFn f (fun g => { g with apr := aSet g.apr w e }) s

/-- APR_HI_WRITE: only a function has an aperture table. -/
def execAprHiWrite (c : Caller) (w : Fin 8192) (value : W32) (s : State) : Res :=
  match c with
  | .fn f => .next (aprHiWrite f w value s)
  | _ => .next s

end Sys2Proof.Machine
end

