-- ==== Sys2Proof/Machine/Expand.lean ====
section
/-! DEFINITION. Expanders (R163 to R166) and the two table commands (R160 to R162, R342). -/

namespace Sys2Proof.Machine

/-! ## Queues and table slots (R164) -/

def expander (s : State) (e : ExpRef) : Expander := aGetD s.work.expanders e {}
def modExpander (e : ExpRef) (f : Expander → Expander) (s : State) : State :=
  { s with work := { s.work with expanders := aMod s.work.expanders e {} f } }

/-- A table slot changed by a function. -/
def modExpSlot (i : Fin 8) (f : ExpSlot → ExpSlot) (x : Expander) : Expander := { x with slots := aAdjust x.slots i f }

/-- The slot becomes the most recently used. -/
def useSlot (i : Fin 8) (x : Expander) : Expander := { x with order := (x.order.filter fun j => ¬ j = i) ++ [i] }

/-- The slot that holds a table. -/
def slotOfTable (x : Expander) (p : BitVec 12) (id : BitVec 3) (gen : BitVec 16) : Option (Fin 8) :=
  x.order.find? fun i =>
    match aGet x.slots i with
    | some t => t.pen == p && t.id == id && t.gen == gen
    | none => false

/-- The least recently used slot whose count is zero. -/
def idleSlot (x : Expander) : Option (Fin 8) :=
  x.order.find? fun i => match aGet x.slots i with | some t => t.count == 0 | none => true

/-- A coded block is bound to a slot for a table; none where every slot is in use. -/
def bindSlot (p : BitVec 12) (id : BitVec 3) (t : Table) (x : Expander) : Option (Fin 8 × Expander) :=
  match slotOfTable x p id t.tag with
  | some i => some (i, useSlot i (modExpSlot i (fun q => { q with count := q.count + 1 }) x))
  | none =>
    match idleSlot x with
    | some i =>
      let q : ExpSlot := { pen := p, id, gen := t.tag, lens := t.lens, count := 1, loading := true }
      some (i, useSlot i { x with slots := aSet x.slots i q })
    | none => none

/-- A block with its binding, where it needs one and can have it. -/
def bindBlock (s : State) (b : ExpBlock) (x : Expander) : ExpBlock × Expander :=
  if descRaw b.desc ∨ b.bound.isSome then (b, x)
  else match boundTable s b.pen (descTable b.desc) with
    | none => (b, x)
    | some t => match bindSlot b.pen (descTable b.desc) t x with
      | some (i, x) => ({ b with bound := some i }, x)
      | none => (b, x)

/-- Blocks that wait for a slot are bound, in order, as far as slots allow. -/
def bindAll (s : State) (bs : List ExpBlock) (x : Expander) : Expander :=
  bs.foldl (fun x b => let (b, x) := bindBlock s b x; { x with queue := x.queue ++ [b] }) { x with queue := [] }

/-- A block is enqueued; none where its table id is Free or Retiring: the enqueue is refused with TABLE_ABSENT. -/
def enqueueBlock (e : ExpRef) (b : ExpBlock) (s : State) : Option State :=
  if descRaw b.desc = false ∧ (boundTable s b.pen (descTable b.desc)).isNone then none
  else
    let (b, x) := bindBlock s b (expander s e)
    some (modExpander e (fun _ => { x with queue := x.queue ++ [b] }) s)

/-- The count of a block's slot is released. -/
def releaseCount (b : ExpBlock) (x : Expander) : Expander :=
  match b.bound with
  | some i => modExpSlot i (fun q => { q with count := q.count - 1 }) x
  | none => x

/-- Blocks leave the queue undelivered, and what waits for a slot is bound. -/
def dropBlocks (e : ExpRef) (gone : ExpBlock → Bool) (s : State) : State :=
  let x := expander s e
  let x := (x.queue.filter gone).foldl (fun x b => releaseCount b x) x
  modExpander e (fun _ => bindAll s (x.queue.filter fun b => !gone b) x) s

/-! ## Delivery (R165) -/

/-- What the expander makes of a block. -/
inductive Delivered where
  | data (bytes : List Byte)
  | bad
  | absent
  /-- Its table is being loaded, or it waits for a slot. -/
  | wait
deriving DecidableEq, Repr

/-- The outcome of a block's delivery now. -/
def delivery (s : State) (x : Expander) (b : ExpBlock) : Delivered :=
  if descRaw b.desc then .data b.bytes
  else match b.bound with
    | none => if (boundTable s b.pen (descTable b.desc)).isNone then .absent else .wait
    | some i =>
      match aGet x.slots i with
      | none => .wait
      | some t =>
        if t.loading then .wait
        else match decodeBlock t.lens t.gen b.desc b.bytes with
          | some out => .data out
          | none => .bad

/-- The decode error's Daymark event (R165, R398); a Gather Unit's is the event of its DECODE bit. -/
def decodeEvent (e : ExpRef) (p : BitVec 12) (s : State) : State :=
  match e with
  | .yard y => codedD 0x5 (yrdOf y.shed) p.toNat 0 0 0 s
  | .gather _ _ => s

/-- The expander delivers the first queued block of a scratch slot or request: its outcome, and the queue without it
unless it waits. -/
def deliverBlock (e : ExpRef) (slot : Nat) (s : State) : Delivered × State :=
  let x := expander s e
  match x.queue.find? fun b => b.slot == slot with
  | none => (.wait, s)
  | some b =>
    match delivery s x b with
    | .wait => (.wait, s)
    | d =>
      let rest := (x.queue.takeWhile fun q => ¬ q.slot = slot) ++ ((x.queue.dropWhile fun q => ¬ q.slot = slot).drop 1)
      let s := modExpander e (fun _ => bindAll s rest (releaseCount b x)) s
      (d, if d = .bad then decodeEvent e b.pen s else s)

/-- EXPANDER_TABLE_LOAD_DONE: the slot's table is loaded (R164). -/
def execExpanderTableLoadDone (e : ExpRef) (slot : Fin 8) (s : State) : Res :=
  .next (modExpander e (modExpSlot slot fun q => { q with loading := false }) s)

/-! ## TABLE_BUILD and TABLE_RETIRE (R161, R162, R342) -/

def cmdTableBuild (r : Req) : Cmd :=
  let ext := r.flags.getLsbD 0
  { op := 0x70, p := true, level := 2, flags := 1, fields := if ext then [(0, 1), (4, 4)] else [(0, 1)],
    blen := fun n => n == if ext then 8 * leAt r.payload 4 4 else 1024 }

/-- The extents of a build's list. -/
def buildExts (p : BitVec 12) (buf : List Byte) (n : Nat) : List ExtKey :=
  (List.range n).map fun i => (p, addrExt (fieldLe 56 buf (8 * i) 8))

/-- An id is in use by a build. -/
def building (s : State) (p : BitVec 12) (id : BitVec 3) : Bool := s.work.builds.any fun b => b.pen == p && b.id == id

/-- TABLE_BUILD's action. -/
def buildAct (r : Req) (rep : Reply) (s : State) : State :=
  let p := actingPen s r
  let n := leAt r.payload 4 4
  let id : BitVec 3 := BitVec.ofNat 3 (leAt r.payload 0 1)
  let buf := inBuf s r
  let exts := if r.flags.getLsbD 0 then buildExts p buf n else []
  if 7 < leAt r.payload 0 1 ∨ (r.flags.getLsbD 0 ∧ (n = 0 ∨ 64 < n)) then post rep stBadParam [] s
  else if (tableAt s p id).isSome ∨ building s p id then post rep stBusy [] s
  else if exts.any fun k => (leaf s k).isNone then post rep stNotFound [] s
  else if ctlFree s < 128 then post rep stNoSpace [] s
  else if r.flags.getLsbD 0 then
    settleBuilds { s with work := { s.work with builds := s.work.builds ++
      [{ reply := rep, pen := p, id, todo := exts, counts := List.replicate 256 0 }] } }
  else bindTable rep p id ((List.range 256).map fun i => leAt buf (4 * i) 4) s

/-- TABLE_BUILD. -/
def execTableBuild (r : Req) (s : State) : Res := .next (mbx (cmdTableBuild r) true r (buildAct r) s)

def cmdTableRetire : Cmd := { op := 0x71, p := true, level := 2, fields := [(0, 1)] }

/-- TABLE_RETIRE's action: a Bound id becomes Retiring, and the response waits for TABLE_RETIRE_DONE. -/
def retireAct (r : Req) (rep : Reply) (s : State) : State :=
  let p := actingPen s r
  let id : BitVec 3 := BitVec.ofNat 3 (leAt r.payload 0 1)
  match (if 7 < leAt r.payload 0 1 then none else tableAt s p id) with
  | none => post rep stBadParam [] s
  | some t =>
    if t.retiring then post rep stBusy [] s
    else { s with work := { s.work with tables := aSet s.work.tables (p, id) { t with retiring := true, retire := some rep } } }

/-- TABLE_RETIRE. -/
def execTableRetire (r : Req) (s : State) : Res := .next (mbx cmdTableRetire false r (retireAct r) s)

/-- An expander slot holds a generation of a table with a count above zero. -/
def tableHeld (s : State) (p : BitVec 12) (id : BitVec 3) (gen : BitVec 16) : Bool :=
  s.work.expanders.any fun x => x.2.slots.any fun q =>
    q.2.pen == p && q.2.id == id && q.2.gen == gen && decide (0 < q.2.count)

/-- A table is deleted. -/
def deleteTable (p : BitVec 12) (id : BitVec 3) (s : State) : State :=
  ctlGive 128 { s with work := { s.work with tables := aErase s.work.tables (p, id) } }

/-- TABLE_RETIRE_DONE: once no slot with a count above zero holds it, a Retiring table is deleted, and TABLE_RETIRE is
answered (R162). -/
def execTableRetireDone (p : BitVec 12) (id : BitVec 3) (s : State) : Res :=
  match tableAt s p id with
  | none => .next s
  | some t =>
    if t.retiring = false ∨ tableHeld s p id t.tag then .next s
    else match t.retire with
      | some rep => .next (post rep stOk [] (deleteTable p id s))
      | none => .next (deleteTable p id s)

end Sys2Proof.Machine
end

