-- ==== Sys2Proof/Machine/Extents.lean ====
section
/-! DEFINITION. EXTENT_ALLOC, EXTENT_FREE, EXTENT_MIGRATE and their scrubs and block moves (R39 to R41, R52 to R57, R341),
and lent memory (R61 to R64). -/

namespace Sys2Proof.Machine

/-! ## Home slots -/

/-- The extents of a command: consecutive ones from an address on. -/
def extRange (p : BitVec 12) (addr n : Nat) : List ExtKey :=
  (List.range n).map fun i => (p, BitVec.ofNat 35 (addr / 2 ^ 21 + i))

/-- The home slots of extents, each once. -/
def slotsOf (ks : List ExtKey) : List (Fin 4) := ([0, 1, 2, 3] : List (Fin 4)).filter fun n => ks.any fun k => keySlot k == n

/-! ## What a lease holds (R123, R126) -/

/-- An extent that a lease holds: its owner record names the node, or the channel allocated it with HOLD; Sealed extents
are held by none. -/
def holdsExt (h : Holder) (e : Extent) : Bool :=
  e.v && e.cls ≠ .sealed && match h with
    | .node n => heldByNode e n
    | .chan c => e.hold == some c

/-- The record is in transfer to a holder, whose revoked lease must still refuse its accept (R136). -/
def awaits (h : Holder) (e : Extent) : Bool :=
  match h, e.owner with
  | .node n, some o => o.epoch.getLsbD 0 && o.target == n
  | _, _ => false

/-- A holder has an item under its lease of a Pen. -/
def holdsAny (s : State) (p : BitVec 12) (h : Holder) : Bool :=
  (s.pool.exts.any fun e => e.1.1 = p && (holdsExt h e.2 || (e.2.v && (e.2.reclaim == some h || awaits h e.2))))
    || s.share.handles.any fun x => x.2.isOpen && x.2.pen == p && match h with | .chan c => x.2.holder == c | .node _ => false

/-- A Revoked lease whose last held item has been reclaimed is deleted (R125). DESIGN CHOICE (log entry 173): one that
holds nothing to be reclaimed is deleted in the step that revokes it. -/
def sweepLease (p : BitVec 12) (h : Holder) (s : State) : State :=
  if leaseRevoked s p h ∧ holdsAny s p h = false then
    { s with share := { s.share with leases := aErase s.share.leases (p, h) } } else s

/-- The leases that an extent was held under are swept. -/
def sweepFor (p : BitVec 12) (e : Extent) (s : State) : State :=
  let s := match e.owner with | some o => sweepLease p (.node o.target) (sweepLease p (.node o.owner) s) | none => s
  let s := match e.hold with | some c => sweepLease p (.chan c) s | none => s
  match e.reclaim with | some h => sweepLease p h s | none => s

/-! ## Scrubs (R57) -/

/-- A freed frame awaits its scrub; a LENT frame needs none outside a teardown. -/
def addScrub (k : ExtKey) (f : Frm) (s : State) : State :=
  if f.tier = .lent then s else { s with pool := { s.pool with scrubs := s.pool.scrubs ++ [{ key := k, frm := f }] } }

/-- No location that the frame's rows need lies out of reach (R57). -/
def rowsReached (s : State) (f : Nat) : Bool :=
  let r0 := blockRow (512 * f)
  (List.range (blockRow (512 * f + 511) + 1 - r0)).all fun i => !(others s (r0 + i) []).contains .away

/-- A frame's scrub can end now: its near locations, its tray, or its mounted flash tray can be reached; a teardown's zero
WRITEs to a lender have been answered (R377). -/
def scrubbable (s : State) (k : ExtKey) (f : Frm) : Bool :=
  match f.tier with
  | .near => rowsReached s f.frame
  | .lent => !(s.pool.devReqs.any fun r => r.owner == .scrub k)
  | .tray => nodeUp s f.node
  | .flash => (tray s f.node).mounted
      && (List.range 512).all fun i => (pendingUnit (tray s f.node) (f.frame * 512 + i)).isNone

/-- A frame is scrubbed: zeros in NEAR, the tray's clear command, the 512 map units unmapped. -/
def scrubFrame (f : Frm) (s : State) : State :=
  match f.tier with
  | .near => { s with near := { s.near with mem := zeroRange s.near.mem (f.frame * 2 ^ 21) (2 ^ 21) } }
  | .tray => emit (.trayClear f.node f.frame) s
  | .flash => modTray f.node (fun t => (List.range 512).foldl (fun t i =>
      if slotOf t (f.frame * 512 + i) = unmapped then t else mapUnit f.node (f.frame * 512 + i) unmapped t) t) s
  | _ => s

/-- A leaf entry's V is cleared, with the tables left empty; the extent's staged images go (R58). -/
def clearLeaf (k : ExtKey) (s : State) : State :=
  if (extAt s k).v then
    dirFree k (extAt s k).comp (setLeaf k (fun e => { ({} : Extent) with gen := e.gen }) (dropImages k s))
  else s

/-- A torn-down Pen's extent without a frame to be scrubbed is freed (R375). -/
def tornLeaf (k : ExtKey) (s : State) : State :=
  if (pen s k.1).state = .quarantine ∧ (s.pool.scrubs.any fun c => c.key == k) = false then clearLeaf k s else s

/-- EXTENT_SCRUB_DONE: the scrubs of an extent's freed frames that can end are done, and the frames are free again. While
a Moving block of the freed extent has not resolved none ends (R56). -/
def execExtentScrubDone (p : BitVec 12) (e : BitVec 35) (s : State) : Res :=
  let k : ExtKey := (p, e)
  if (migOf s k).any (fun m => m.ending) then .next s
  else
    let now := s.pool.scrubs.filter fun c => c.key = k ∧ scrubbable s k c.frm
    let s := { s with pool := { s.pool with scrubs := s.pool.scrubs.filter fun c => ¬ now.contains c } }
    .next (tornLeaf k (now.foldl (fun s c => scrubFrame c.frm s) s))

/-! ## What waits for extents: migration commands and recalls (R55, R62) -/

/-- EXTENT_MIGRATE commands whose extents have all completed or stalled are answered. -/
def endMigCmds (s : State) : State :=
  let done := s.pool.migCmds.filter fun c => c.todo.isEmpty
  let s := { s with pool := { s.pool with migCmds := s.pool.migCmds.filter fun c => ¬ c.todo.isEmpty } }
  done.foldl (fun s c => post c.reply c.status (toLe 4 c.moved.toNat ++ toLe 4 c.stalled.toNat) s) s

/-- What has become of an extent of a migration command. -/
inductive MigEnd where
  | moved | stalled | freed
deriving DecidableEq, Repr

/-- A migration command with one extent fewer to wait for. -/
def countMig (k : ExtKey) (e : MigEnd) (c : MigCmd) : MigCmd :=
  if c.todo.contains k then
    { c with
      todo := c.todo.erase k
      moved := if e = .moved then c.moved + 1 else c.moved
      stalled := if e = .stalled then c.stalled + 1 else c.stalled }
  else c

/-- An extent's migration has completed, stalled or ended. -/
def migEnded (k : ExtKey) (e : MigEnd) (s : State) : State :=
  endMigCmds { s with pool := { s.pool with migCmds := s.pool.migCmds.map (countMig k e) } }

/-- A RECALL is answered with REPLY and COMPLETE: the frame count, and in STEP the frames whose extents became Lost. -/
def endRecall (r : Recall) (s : State) : State :=
  respond r.rx { respPkt 0x45 r.rx with flags := 0xC, group := BitVec.ofNat 32 r.count, step := r.lost }
    { s with pool := { s.pool with recalls := s.pool.recalls.filter fun q => ¬ q.id = r.id } }

/-- An extent has left the ranges that recalls wait for. -/
def leaveRecalls (k : ExtKey) (s : State) : State :=
  let rs : List Recall := s.pool.recalls.map fun r => { r with todo := r.todo.erase k }
  let s : State := { s with pool := { s.pool with recalls := rs } }
  (s.pool.recalls.filter fun r => r.todo.isEmpty).foldl (fun s r => endRecall r s) s

/-! ## Block moves (R53 to R56) -/

/-- The migration's target frame. -/
def migFrm (m : Migration) : Option Frm := m.frame.map fun f => { tier := m.target, node := m.node, frame := f }

/-- The frame that a migration moves blocks to now. -/
def migInto (m : Migration) : Option Frm := if m.back then some m.src else migFrm m

/-- The frame in which a block of a migrating extent is. -/
def migHome (m : Migration) (b : Nat) : Frm := if m.bits.contains b then (migFrm m).getD m.src else m.src

/-- The block that a migration moves next: the lowest that is not at the new home. -/
def migBlock (m : Migration) : Option Nat := (List.range 512).find? fun b => m.bits.contains b == m.back

/-- Requests of the device's own for a migration are forgotten: their answers come to nothing. -/
def dropMigReqs (k : ExtKey) (s : State) : State :=
  { s with pool := { s.pool with devReqs := s.pool.devReqs.filter fun r =>
      ¬ (r.owner = .migRead k ∨ r.owner = .migWrite k) } }

/-- A migration record is freed. -/
def dropMig (k : ExtKey) (s : State) : State :=
  { s with pool := { s.pool with migs := s.pool.migs.filter fun m => ¬ m.key = k } }

/-- The migration of an extent that has been freed or Lost ends, and its target frame is scrubbed. -/
def endMig (k : ExtKey) (s : State) : State :=
  match migOf s k with
  | none => s
  | some m =>
    let s := dropMig k (dropMigReqs k s)
    let s := match migFrm m with | some f => addScrub k f s | none => s
    migEnded k .freed s

/-- R55: every block is at the new home: the leaf entry names it, the record is freed, the old frame is scrubbed. -/
def completeMig (m : Migration) (s : State) : State :=
  let k := m.key
  let e := extAt s k
  let s := dropMig k s
  let s :=
    if m.back then
      let s := setLeaf k (fun e => { e with st := .resident, migr := 0 }) s
      match migFrm m with | some f => addScrub k f s | none => s
    else
      addScrub k (extFrm e) (setLeaf k (fun e => { e with
        st := .resident, migr := 0, tier := m.target, node := m.node, frame := BitVec.ofNat 32 (m.frame.getD 0) }) s)
  wakeJobs (leaveRecalls k (migEnded k (if m.back ∧ m.recId.isSome then .stalled else .moved) s))

/-- What follows once no block of a migration is Moving: the end of a freed extent's migration, a turn back, completion. -/
def migSettled (k : ExtKey) (s : State) : State :=
  match migOf s k with
  | none => s
  | some m =>
    if m.ending then endMig k s
    else
      let s := if m.turnBack then modMig k (fun m => { m with back := true, turnBack := false, stalled := false }) s else s
      match migOf s k with
      | some m => if migBlock m = none ∧ (extAt s k).st = .migrating then completeMig m s else s
      | none => s

/-- The target copy of a block is discarded (R53): on flash its write goes from the page being gathered and from the pages
being programmed, and a unit that is mapped already is unmapped. -/
def forgetUnit (f : Frm) (b : Nat) (s : State) : State :=
  let u := f.frame * 512 + b
  let mine (w : UnitWrite) : Bool := w.unit == u && w.job.isNone
  if f.tier = .flash then
    modTray f.node (fun t =>
      let t := { t with
        gather := t.gather.filter fun w => !mine w
        pages := t.pages.map fun p => { p with
          writes := p.writes.filter fun w => !mine w.1
          unacked := p.unacked.filter fun v => !p.writes.any fun w => w.2 == v && mine w.1 } }
      if slotOf t u = unmapped then t else mapUnit f.node u unmapped t) s
  else s

/-- The Moving block stays where it was and the migration stalls (R53); what waited for it goes on. -/
def migStall (k : ExtKey) (s : State) : State :=
  match migOf s k with
  | none => s
  | some m =>
    match m.moving with
    | none => s
    | some b =>
      let s := match migInto m with | some f => forgetUnit f b s | none => s
      let s := modMig k (fun m => { m with moving := none, data := none, written := false, stalled := true }) (dropMigReqs k s)
      wakeJobs (migSettled k (migEnded k .stalled s))

/-- The source has failed the Moving block (R53): the stores held for it end with the source's failure, and the migration
stalls. -/
def migSourceFails (k : ExtKey) (res : PoolRes) (s : State) : State :=
  match migOf s k with
  | none => s
  | some m =>
    match m.moving with
    | none => s
    | some b =>
      let held := s.pool.jobs.filter fun j => j.key = k ∧ j.store ∧ jobBlk j = b ∧ j.phase = .waiting ∧ j.result.isNone
      migStall k (held.foldl (fun s j => endJob j res s) s)

/-- The Moving block's bytes are at hand: they go to the new home. A NEAR home takes them with the acknowledgement. -/
def migPut (k : ExtKey) (s : State) : State :=
  match migOf s k with
  | none => s
  | some m =>
    match m.moving, m.data, migInto m with
    | some b, some d, some f =>
      match memKey s k.1 m.keyId with
      | none => discardBlock s
      | some key =>
        let cipher := blockCipher key k b d
        match frmPlace f b with
        | .near _ => s
        | .remote n a => devSend n a (some cipher) 0 (.migWrite k) s
        | .flash n u => gatherWrite n { unit := u, bytes := d, cipher, job := none } s
    | _, _, _ => s

/-- The Moving block's bytes, read from where the block is. -/
def migTake (k : ExtKey) (b : Nat) (s : State) : State :=
  let got (d : List Byte) (s : State) : State := migPut k (modMig k (fun m => { m with data := some d }) s)
  match frmPlace (blockFrm s k b) b with
  | .near x => if readSt s x = .fine then got (nearBlock s x) (meetBlock x false s) else s
  | .remote n a => devSend n a none 0 (.migRead k) s
  | .flash n u =>
    let t := tray s n
    match pendingUnit t u with
    | some d => got d s
    | none =>
      if slotOf t u = unmapped then got (List.replicate 4096 0) s
      else if slotOf t u = poisonedSlot then s
      else devSend n ((slotOf t u).toNat * 4096) none 0 (.migRead k) s

/-- The migration is among the 256 that its home Shed runs (R52): a stalled one does not run. -/
def migRuns (s : State) (m : Migration) : Bool :=
  ((s.pool.migs.filter fun q => q.stalled = false ∧ keyHome s q.key = keyHome s m.key).take 256).any fun q => q.key == m.key

/-- An access to the block is on its way to its home or from it. -/
def blockBusy (s : State) (k : ExtKey) (b : Nat) : Bool :=
  s.pool.jobs.any fun j => j.key == k && jobBlk j == b && j.phase ≠ .waiting && j.result.isNone

/-- MIGRATION_BLOCK_START: the next block is chosen and read; it is Moving. -/
def execMigrationBlockStart (p : BitVec 12) (e : BitVec 35) (s : State) : Res :=
  let k : ExtKey := (p, e)
  match migOf s k with
  | none => .next s
  | some m =>
    match migBlock m with
    | none => .next s
    | some b =>
      if m.moving.isSome ∨ m.stalled ∨ m.ending ∨ (migInto m).isNone ∨ (extAt s k).st ≠ .migrating ∨ migRuns s m = false
         ∨ slotMoving s (keySlot k) ∨ blockBusy s k b then .next s
      else .next (migTake k b (modMig k (fun m => { m with moving := some b }) s))

/-- The write of the Moving block has landed at its new home. -/
def migLanded (s : State) (m : Migration) (f : Frm) (b : Nat) : Bool :=
  m.data.isSome && match frmPlace f b with
    | .near x => writeSt s x == .fine
    | .remote _ _ => m.written
    | .flash n u => (tray s n).mounted && (pendingUnit (tray s n) u).isNone && slotOf (tray s n) u ≠ unmapped

/-- The place that a block has left is released: a flash unit is unmapped. -/
def releaseBlock (f : Frm) (b : Nat) (s : State) : State :=
  match frmPlace f b with
  | .flash n u => modTray n (fun t => if slotOf t u = unmapped then t else mapUnit n u unmapped t) s
  | _ => s

/-! ## EXTENT_ALLOC (R40, R41, R341) -/

/-- The key of the extent that a command allocates next. -/
def allocKey (a : AllocCmd) : ExtKey := (a.pen, a.ext)

/-- The holders that the allocation names (R124). -/
def allocHolders (a : AllocCmd) : List Holder :=
  (if a.owner = 0 then [] else [.node a.owner]) ++ (if a.hold then [.chan a.reply.chan] else [])

/-- The leases that the allocation creates fit in the limit of R139. -/
def leasesFit (s : State) (a : AllocCmd) : Bool :=
  let new := (allocHolders a).filter fun h => (leaseAt s a.pen h).isNone
  new.isEmpty || decide (s.share.leases.length + new.length ≤ 262144)

/-- The status of the next extent, 0 where it can be allocated. -/
def allocVerdict (s : State) (a : AllocCmd) : Nat :=
  let k := allocKey a
  if (extAt s k).v then stBusy
  else if (memKey s a.pen a.keyId).isNone then stBadParam
  else if a.tier = .near ∧ nearWhole s = false then stServiceDown
  else if (allocHolders a).any (leaseRevoked s a.pen) then stBusy
  else if quotaRoom s a.pen a.tier = false ∨ ctlFree s < tablesNeed s k a.comp
       ∨ leasesFit s a = false then stNoSpace
  else stOk

/-- The command ends. -/
def allocEnd (st : Nat) (a : AllocCmd) (s : State) : State := post a.reply st (toLe 4 a.made.toNat) s

/-- The extent is allocated in a frame that reads as zeros: its leaf entry, its tables, its owner record, its leases. -/
def allocFinish (a : AllocCmd) (f : Frm) (s : State) : State :=
  let k := allocKey a
  let s := dirAlloc k a.comp s
  let s := scrubFrame (if f.tier = .near then f else { f with tier := .lent }) s
  let s := setLeaf k (fun e => { ({} : Extent) with
    gen := e.gen
    v := true, tier := f.tier, cls := a.cls, comp := a.comp, node := f.node, frame := BitVec.ofNat 32 f.frame, keyId := a.keyId
    owner := if a.owner = 0 then none else some { owner := a.owner }
    hold := if a.hold then some a.reply.chan else none }) s
  (allocHolders a).foldl (fun s h => createLease a.pen h s) s

/-- The command one extent further. -/
def allocNext (a : AllocCmd) : AllocCmd := { a with ext := a.ext + 1, left := a.left - 1, made := a.made + 1, frm := none, acks := 0 }

/-- The command waits: for its fill, or for a home slot. -/
def allocPark (a : AllocCmd) (s : State) : State := { s with pool := { s.pool with allocs := s.pool.allocs ++ [a] } }

/-- A frame on a tray or a lender is filled with zeros under the Pen's key (R41). -/
def allocFill (a : AllocCmd) (f : Frm) (s : State) : State :=
  let k := allocKey a
  let key := (memKey s a.pen a.keyId).getD []
  let s := allocPark { a with frm := some f, acks := 512 } s
  (List.range 512).foldl (fun s b =>
    devSend f.node (f.frame * 2 ^ 21 + b * 4096) (some (blockCipher key k b (List.replicate 4096 0))) 0
      (.fill a.reply.chan a.reply.tag) s) s

/-- The extents of the command in ascending order, until one fails, a fill runs, a home slot is rebuilt or a freed extent's
last Moving block has not resolved. -/
def runAlloc : Nat → AllocCmd → State → State
  | 0, _, s => s
  | n + 1, a, s =>
    if a.left = 0 then allocEnd stOk a s
    else if slotMoving s (keySlot (allocKey a)) ∨ (migOf s (allocKey a)).any (·.ending) then allocPark a s
    else if allocVerdict s a ≠ stOk then allocEnd (allocVerdict s a) a s
    else
      let (f, s) := chooseFrame a.tier a.node s
      match f with
      | none => allocEnd stNoSpace a s
      | some f =>
        if f.tier = .tray ∨ f.tier = .lent then allocFill a f s
        else runAlloc n (allocNext a) (allocFinish a f s)

/-- The command goes on after its fill: the extent is allocated unless it can no longer be. A LENT frame that its lender
has recalled meanwhile is not used: the command takes another. -/
def allocFilled (a : AllocCmd) (f : Frm) (s : State) : State :=
  let s := leaveRecalls (allocKey a) s
  if f.tier = .lent ∧ (aGetD s.pool.lent f.node []).contains f.frame = false then runAlloc (a.left + 1) a s
  else if allocVerdict s a ≠ stOk then allocEnd (allocVerdict s a) a s
  else runAlloc (a.left + 1) (allocNext a) (allocFinish a f s)

/-- The command of a fill, and the state without it. -/
def takeAlloc (c : ChanIx) (tag : W32) (s : State) : Option AllocCmd × State :=
  (s.pool.allocs.find? fun a => a.reply.chan = c ∧ a.reply.tag = tag,
   { s with pool := { s.pool with allocs := s.pool.allocs.filter fun a => ¬ (a.reply.chan = c ∧ a.reply.tag = tag) } })

/-- A fill's WRITE has been answered. -/
def fillAck (c : ChanIx) (tag : W32) (s : State) : State :=
  match takeAlloc c tag s with
  | (some a, s) =>
    match a.frm with
    | some f => if a.acks ≤ 1 then allocFilled { a with frm := none, acks := 0 } f s else allocPark { a with acks := a.acks - 1 } s
    | none => allocPark a s
  | (none, s) => s

/-- A fill has failed: the command ends with SERVICE_DOWN. -/
def fillFails (c : ChanIx) (tag : W32) (s : State) : State :=
  match takeAlloc c tag s with
  | (some a, s) => if a.frm.isSome then allocEnd stServiceDown a (leaveRecalls (allocKey a) s) else allocPark a s
  | (none, s) => s

/-- Allocations that waited for a home slot, or for a freed extent's migration to end, go on. -/
def resumeAllocs (s : State) : State :=
  let parked := s.pool.allocs.filter fun a => a.frm.isNone
  parked.foldl (fun s a => runAlloc (a.left + 1) a s)
    { s with pool := { s.pool with allocs := s.pool.allocs.filter fun a => a.frm.isSome } }

/-! ## The end of a block move (R53 to R56) -/

/-- What a migration's Moving block kept waiting goes on: an allocation, where the migration is that of a freed extent. -/
def resumeAfter (m : Option Migration) (s : State) : State := if m.any (·.ending) then resumeAllocs s else s

/-- MIGRATION_BLOCK_ACK: the new home has acknowledged the block: its bit follows, held writes are applied there, and the
last block completes the migration. -/
def execMigrationBlockAck (p : BitVec 12) (e : BitVec 35) (s : State) : Res :=
  let k : ExtKey := (p, e)
  match migOf s k with
  | none => .next s
  | some m =>
    match m.moving, migInto m with
    | some b, some f =>
      if migLanded s m f b = false then .next s
      else
        let was := migHome m b
        let s := match frmPlace f b with | .near x => if m.ending then s else putNear x (m.data.getD []) s | _ => s
        let s := modMig k (fun m => { m with
          bits := if m.back then m.bits.erase b else b :: m.bits
          moving := none, data := none, written := false }) s
        .next (resumeAfter (some m) (wakeJobs (migSettled k (releaseBlock was b s))))
    | _, _ => .next s

/-- MIGRATION_BLOCK_TIMEOUT: the target copy is discarded, held writes are applied to the source, the migration stalls. -/
def execMigrationBlockTimeout (p : BitVec 12) (e : BitVec 35) (s : State) : Res :=
  .next (resumeAfter (migOf s (p, e)) (migStall (p, e) s))

/-- What the source of a Moving block reports: POISONED, out of reach, or a tray's or lender's error (R70). -/
def sourceError (s : State) (k : ExtKey) (b : Nat) : Option PoolRes :=
  let f := match migOf s k with | some m => migHome m b | none => extFrm (extAt s k)
  match frmPlace f b with
  | .near x =>
    match readSt s x with
    | .poisoned => some (.err rPoisoned (BitVec.ofNat 32 b))
    | .away => some (.err rTierError (tierDetail 0 3))
    | _ => none
  | .remote n _ => some (.err rTierError (tierDetail (tierCode f.tier) (if nodeUp s n then 4 else 3)))
  | .flash n u =>
    if slotOf (tray s n) u = poisonedSlot then some (.err rPoisoned (BitVec.ofNat 32 b))
    else some (.err rTierError (tierDetail 3 (if (tray s n).mounted = false then 5 else if nodeUp s n then 4 else 3)))

/-- MIGRATION_SOURCE_ERROR: the held requests and the step end as R70 and R71 provide, and the migration stalls. -/
def execMigrationSourceError (p : BitVec 12) (e : BitVec 35) (s : State) : Res :=
  let k : ExtKey := (p, e)
  match migOf s k with
  | none => .next s
  | some m =>
    match m.moving with
    | none => .next s
    | some b =>
      match sourceError s k b with
      | some r => .next (resumeAfter (some m) (migSourceFails k r s))
      | none => .next s

def cmdExtentAlloc : Cmd := { op := 0x20, p := true, level := 2, flags := 3, fields := [(0, 19)] }

/-- A range of extents that a command names lies in the address space. -/
def rangeOk (addr n : Nat) : Bool := decide (1 ≤ n ∧ n ≤ 65536) && decide (addr / 2 ^ 21 + n ≤ 2 ^ 35)

/-- EXTENT_ALLOC's own checks, then the extents. -/
def extentAlloc (r : Req) (rep : Reply) (s : State) : State :=
  let pl := r.payload
  let addr := leAt pl 0 8
  let n := leAt pl 8 4
  let owner : Node := fieldLe 16 pl 16 2
  let key : BitVec 8 := fieldLe 8 pl 18 1
  match tierOf (leAt pl 12 1), clsOf (leAt pl 13 1) with
  | some t, some c =>
    if addr % 2 ^ 21 ≠ 0 ∨ rangeOk addr n = false ∨ owner = 0xFFFF then post rep stBadParam [] s
    else if tierAllows t c = false then post rep stClassMismatch (toLe 4 0) s
    else if (memKey s (actingPen s r) key).isNone then post rep stBadParam [] s
    else runAlloc (n + 1) { reply := rep, pen := actingPen s r, ext := BitVec.ofNat 35 (addr / 2 ^ 21), left := n, tier := t, cls := c,
                            node := fieldLe 16 pl 14 2, owner, keyId := key, hold := r.flags.getLsbD 0, comp := r.flags.getLsbD 1 } s
  | _, _ => post rep stBadParam [] s

/-- EXTENT_ALLOC. -/
def execExtentAlloc (r : Req) (s : State) : Res := .next (mbx cmdExtentAlloc false r (extentAlloc r) s)

/-! ## EXTENT_FREE (R56, R57, R121, R341) -/

/-- The extent is a draft of a publication or a creation in progress. -/
def isDraft (s : State) (k : ExtKey) : Bool := s.share.pubs.any fun p => p.started && p.pen == k.1 && p.drafts.contains k.2

/-- Live versions whose map names a block of the extent (R121). -/
def sealedRefs (s : State) (k : ExtKey) : Nat :=
  ((s.share.regions.filter fun r => r.1.1 = k.1).map fun r =>
    (r.2.versions.filter fun v => v.2.any fun m => m.2 / 512 == k.2.toNat).length).sum

/-- V is cleared: tables, owner record, leases and quota follow; the frames are scrubbed, once a Moving block has
resolved. -/
def freeExtent (k : ExtKey) (s : State) : State :=
  let e := extAt s k
  let s := clearLeaf k s
  let s := addScrub k (extFrm e) s
  let s := match migOf s k with
    | some m => if m.moving.isSome then modMig k (fun m => { m with ending := true }) s else endMig k s
    | none => s
  wakeJobs (sweepFor k.1 e (leaveRecalls k s))

/-- The status of an extent's EXTENT_FREE. -/
def freeVerdict (s : State) (k : ExtKey) : Nat :=
  let e := extAt s k
  if e.v = false then stNotFound
  else if e.st = .draining ∨ e.st = .scrubbing ∨ isDraft s k then stBusy
  else if e.cls = .sealed ∧ sealedRefs s k ≠ 0 then stBusy
  else stOk

/-- Extents freed in ascending order up to the first that fails. -/
def freeAll : List ExtKey → Nat → Reply → State → State
  | [], n, rep, s => post rep stOk (toLe 4 n) s
  | k :: ks, n, rep, s =>
    if freeVerdict s k = stOk then freeAll ks (n + 1) rep (freeExtent k s) else post rep (freeVerdict s k) (toLe 4 n) s

def cmdExtentFree : Cmd := { op := 0x21, p := true, level := 2, fields := [(0, 12)] }

/-- EXTENT_FREE's range. -/
def extentFree (r : Req) (rep : Reply) (s : State) : State :=
  let addr := leAt r.payload 0 8
  let n := leAt r.payload 8 4
  if rangeOk addr n = false ∨ addr % 2 ^ 21 ≠ 0 then post rep stBadParam [] s
  else
    let ks := extRange (actingPen s r) addr n
    awaitHome (slotsOf ks) (.extentFree r) rep (freeAll ks 0 rep) s

/-- EXTENT_FREE. -/
def execExtentFree (r : Req) (s : State) : Res := .next (mbx cmdExtentFree false r (extentFree r) s)

/-! ## EXTENT_MIGRATE (R52, R55, R56, R341) -/

/-- A migration begins: its record, its target frame where the tier has one, and the leaf entry's STATE. With no frame it
stalls before its first block (R56). -/
def startMig (k : ExtKey) (t : Tier) (named : Node) (recId : Option Nat) (s : State) : State :=
  let (f, s) := chooseFrame t named s
  let (ix, s) := takeFree 16 s
  let m : Migration := { key := k, target := t, node := (f.map (·.node)).getD named, frame := f.map (·.frame),
                         src := extFrm (extAt s k), keyId := (extAt s k).keyId, stalled := f.isNone, recId }
  setLeaf k (fun e => { e with st := .migrating, migr := ix }) { s with pool := { s.pool with migs := s.pool.migs ++ [m] } }

/-- What EXTENT_MIGRATE does with an extent. -/
inductive MigAct where
  | refuse (st : Nat)
  /-- The extent is there already. -/
  | there
  | start
  | forward
  | backward
deriving DecidableEq, Repr

/-- The same place: the tier, and the node where one is named. -/
def samePlace (t t' : Tier) (named n : Node) : Bool := t == t' && (t == .near || named == 0 || named == n)

/-- EXTENT_MIGRATE's checks of one extent. -/
def migAct (s : State) (k : ExtKey) (t : Tier) (named : Node) : MigAct :=
  let e := extAt s k
  if e.v = false then .refuse stNotFound
  else if tierAllows t e.cls = false then .refuse stClassMismatch
  else if e.st = .lost ∨ e.st = .draining ∨ e.st = .scrubbing then .refuse stBusy
  else match migOf s k with
    | some m =>
      if m.stalled = false then .refuse stBusy
      else if t = .near ∧ nearWhole s = false then .refuse stServiceDown
      else if samePlace t m.target named m.node then .forward
      else if samePlace t e.tier named e.node then .backward
      else .refuse stBadParam
    | none =>
      if t = .near ∧ nearWhole s = false then .refuse stServiceDown
      else if samePlace t e.tier named e.node then .there
      else if quotaRoom s k.1 t = false then .refuse stNoSpace
      else .start

/-- A stalled migration resumes towards its target, taking a frame where it has none. -/
def resumeMig (k : ExtKey) (named : Node) (s : State) : State :=
  match migOf s k with
  | none => s
  | some m =>
    if m.frame.isSome then modMig k (fun m => { m with stalled := false, back := false }) s
    else
      let (f, s) := chooseFrame m.target named s
      match f with
      | some f => modMig k (fun m => { m with stalled := false, back := false, node := f.node, frame := some f.frame }) s
      | none => s

/-- Extents are taken in ascending order up to the first that is refused; the command waits for those that move. -/
def migAll (t : Tier) (named : Node) : List ExtKey → MigCmd → State → State
  | [], c, s => endMigCmds { s with pool := { s.pool with migCmds := s.pool.migCmds ++ [c] } }
  | k :: ks, c, s =>
    let go (s : State) : State :=
      match migOf s k with
      | some m =>
        if m.stalled then migAll t named ks { c with stalled := c.stalled + 1 } s
        else migAll t named ks { c with todo := c.todo ++ [k] } s
      | none => migAll t named ks { c with moved := c.moved + 1 } s
    match migAct s k t named with
    | .refuse st => endMigCmds { s with pool := { s.pool with migCmds := s.pool.migCmds ++ [{ c with status := st }] } }
    | .there => migAll t named ks { c with moved := c.moved + 1 } s
    | .start => go (startMig k t named none s)
    | .forward => go (resumeMig k named s)
    | .backward => go (migSettled k (modMig k (fun m => { m with stalled := false, back := true }) s))

def cmdExtentMigrate : Cmd := { op := 0x22, p := true, level := 2, fields := [(0, 13), (14, 2)] }

/-- EXTENT_MIGRATE's own checks. -/
def extentMigrate (r : Req) (rep : Reply) (s : State) : State :=
  let addr := leAt r.payload 0 8
  let n := leAt r.payload 8 4
  match tierOf (leAt r.payload 12 1) with
  | none => post rep stBadParam [] s
  | some t =>
    if rangeOk addr n = false ∨ addr % 2 ^ 21 ≠ 0 then post rep stBadParam [] s
    else
      let ks := extRange (actingPen s r) addr n
      awaitHome (slotsOf ks) (.extentMigrate r) rep
        (migAll t (fieldLe 16 r.payload 14 2) ks { reply := rep, todo := [] }) s

/-- EXTENT_MIGRATE. -/
def execExtentMigrate (r : Req) (s : State) : Res := .next (mbx cmdExtentMigrate false r (extentMigrate r) s)

/-! ## Lent memory (R61 to R64) -/

/-- Frames that the device accepts of an offer: those of an admitted lender that are not offered yet, within R61's limits
and the FRAME field of a leaf entry (R34). -/
def lendFrames (s : State) (n : Node) (first count : Nat) : List Nat :=
  let have' := aGetD s.pool.lent n []
  let total := (s.pool.lent.map fun l => l.2.length).sum
  if (partnersOf s 4).contains n then
    (((List.range (min count 65536)).map fun i => first + i).filter fun f => !have'.contains f && decide (f < 2 ^ 32)).take
      (min (65536 - have'.length) (1048576 - total))
  else []

/-- LEND_OFFER's effect: the frames join the LENT list, and the reply gives how many. -/
def lendOffer (p : Rx) (s : State) : State :=
  let fs := if p.addr.toNat % 2 ^ 21 = 0 then lendFrames s p.src (p.addr.toNat / 2 ^ 21) p.group.toNat else []
  respond p { respPkt 0x44 p with flags := 0x4, group := BitVec.ofNat 32 fs.length }
    { s with pool := { s.pool with lent := aMod s.pool.lent p.src [] (· ++ fs) } }

/-- A LEND_OFFER or a RECALL with REPLY set is a response (R82): the device awaits none. -/
def lendPacket (op : BitVec 8) (act : Rx → State → State) (p : Rx) (s : State) : State :=
  if flagBit p 2 then response op p (fun _ s => s) s else request op p act s

/-- LEND_OFFER. -/
def execLendOffer (p : Rx) (s : State) : Res := .next (lendPacket 0x44 lendOffer p s)

/-- A frame of a lender lies in a range. -/
def inRange (n : Node) (first count : Nat) (f : Frm) : Bool :=
  f.tier == .lent && f.node == n && decide (first ≤ f.frame ∧ f.frame < first + count)

/-- The extents with blocks in a lender's range: homes, migration targets, and the frames that allocations fill. -/
def recalled (s : State) (n : Node) (first count : Nat) : List ExtKey :=
  (s.pool.exts.filter fun e => e.2.v && e.2.st ≠ .lost &&
    (inRange n first count (extFrm e.2)
      || match (migOf s e.1).bind migFrm with | some f => inRange n first count f | none => false)).map (·.1)
    ++ (s.pool.allocs.filter fun a => a.frm.any (inRange n first count)).map allocKey

/-- Where a recalled extent goes: NEAR while the quota allows and NEAR can be written, TRAY otherwise (R62, R356). -/
def recallTier (s : State) (k : ExtKey) : Option Tier :=
  if quotaRoom s k.1 .near ∧ nearWhole s ∧ (freeFrame s .near 0).isSome then some .near
  else if quotaRoom s k.1 .tray ∧ (tierNodes s .tray).any (fun n => (freeFrame s .tray n).isSome) then some .tray
  else none

/-- A recalled extent migrates out (R56, R62): a migration out of the range goes on, one into it turns back. -/
def recallOne (n : Node) (first count id : Nat) (s : State) (k : ExtKey) : State :=
  match migOf s k with
  | some m =>
    if (migFrm m).any (inRange n first count) then
      let s := modMig k (fun m => { m with turnBack := true, recId := some id }) s
      if m.moving.isSome then s else migSettled k s
    else if m.frame.isSome then modMig k (fun m => { m with stalled := false, back := false, recId := some id }) s
    else match recallTier s k with
      | some t => startMig k t 0 (some id) (migEnded k .stalled (dropMig k s))
      | none => s
  | none =>
    if (extAt s k).st = .resident then
      match recallTier s k with
      | some t => startMig k t 0 (some id) s
      | none => s
    else s

/-- RECALL's effect: free frames leave the list at once, extents migrate out, and the answer waits for them. -/
def recallFrames (p : Rx) (s : State) : State :=
  let first := p.addr.toNat / 2 ^ 21
  let count := p.group.toNat
  let id := s.pool.nextRecall
  let ks := recalled s p.src first count
  let rc : Recall := { id, rx := p, first, count, todo := ks }
  let s := { s with pool := { s.pool with
    nextRecall := id + 1, recalls := s.pool.recalls ++ [rc]
    lent := aMod s.pool.lent p.src [] fun l => l.filter fun f => ¬ (first ≤ f ∧ f < first + count) } }
  if ks.isEmpty then endRecall rc s else ks.foldl (recallOne p.src first count id) s

/-- RECALL. -/
def execRecall (p : Rx) (s : State) : Res := .next (lendPacket 0x45 recallFrames p s)

/-- An extent becomes Lost (R64): its STATE, Daymark event 0x000F, and the notice to its Pen and the admin channels. -/
def loseExtent (k : ExtKey) (s : State) : State :=
  let sh := keyHome s k
  let s := endMig k s
  let s := setLeaf k (fun e => { e with st := .lost, migr := 0 }) s
  let s := codedD 0xF (shcOf sh) k.1.toNat 0 0 (extAddr k.2) s
  let body := toLe 2 k.1.toNat ++ [0, 0, 0, 0, 0, 0] ++ toLe 8 (extAddr k.2)
  let s := match penChannel s k.1 with | some c => shedNotice sh c 0x6 body s | none => s
  wakeJobs (shedNotice sh 64 0x6 body (shedNotice sh 0 0x6 body s))

/-- RECALL_DEADLINE_EXPIRY: the extents that have not left become Lost, and the completion is sent. -/
def execRecallDeadlineExpiry (id : Nat) (s : State) : Res :=
  match s.pool.recalls.find? (fun r => r.id = id) with
  | none => .next s
  | some r =>
    let gone := r.todo.filter fun k => (extAt s k).v
    let s := gone.foldl (fun s k => loseExtent k s) s
    .next (endRecall { r with todo := [], lost := BitVec.ofNat 32 gone.length } s)

end Sys2Proof.Machine
end

