-- ==== Sys2Proof/Machine/Window.lean ====
section
/-! DEFINITION. The mailbox window of a channel (R324, R327, R330, R331): its registers' values, the writes that a sender
may make, and the rings. -/

namespace Sys2Proof.Machine

/-- MBX_STAT. -/
def mbxStat (c : ChanIx) (ch : Channel) : W32 :=
  pack [(0, if ch.bound ∧ c.val < 128 then ch.pen.toNat else 0), (12, bitNat (ch.bound)), (13, bitNat ch.ringErr),
        (14, bitNat ch.throttled), (15, bitNat (hasRing ch)), (16, ch.taken.length)]

/-! ## KW fields that show the Keeper's tables (R6) -/

/-- The BAR0 offset of a channel's window. -/
def windowBase (c : ChanIx) : Nat := 0x400000 + c.val * 0x4000

/-- The fields of the word at a BAR0 offset that show what the Keeper's own tables hold: GLB_HOME_MAP.MOVING, NTC_RING and
ACTIVE of MBX_STAT, MBX_NTC_HELD, SEC_KEYS, SEC_PENS and MTB_PART. -/
def shownMask (off : Nat) : W32 :=
  if off = 0x10 then 0x100
  else if off = 0x20008 then 0x1FF7FFF
  else if off = 0x2000C then 0x3FFFFFF
  else if 0x1000000 ≤ off ∧ 0x380100 ≤ off % 0x800000 ∧ off % 0x800000 < 0x380140 then 0x3FFF1FFF
  else if 0x400000 ≤ off ∧ off < 0x680000 ∧ off % 0x4000 = 0 then 0x1F8000
  else if 0x400000 ≤ off ∧ off < 0x680000 ∧ off % 0x4000 = 0x2C then 0x7F
  else 0

/-- A word as it is read: a field that Keeper firmware has written shows the value written, until the Keeper's tables show
another value than they did at the write. -/
def shown (s : State) (off : Nat) (raw : W32) : W32 :=
  let m := shownMask off
  match aGet s.kw off with
  | some (w, was) => if raw &&& m = was &&& m then (raw &&& ~~~m) ||| (w &&& m) else raw
  | none => raw

/-- Keeper firmware writes such fields of a word that the tables show as `raw`. -/
def keeperShows (off : Nat) (raw v : W32) (s : State) : State := { s with kw := aSet s.kw off (v, raw) }

/-- A control register of a channel's window, as the channel's own state gives it. -/
def chanTable (s : State) (c : ChanIx) (off : Nat) : W32 :=
  let ch := chan s c
  match off with
  | 0x00 => mbxStat c ch
  | 0x04 => ch.dbIn
  | 0x08 => ch.dbInMask
  | 0x0C => ch.dbOut
  | 0x10 => ch.dbOutMask
  | 0x14 => ch.reqProd.setWidth 32
  | 0x18 => ch.reqCons.setWidth 32
  | 0x1C => ch.rspProd.setWidth 32
  | 0x20 => ch.rspCons.setWidth 32
  | 0x24 => ch.ntcProd
  | 0x28 => ch.ntcCons
  | 0x2C => BitVec.ofNat 32 ch.held.length
  | 0x30 => ch.ntcDrop
  | 0x34 => ch.peerNode.setWidth 32
  | 0x3C => ch.evt.setWidth 32
  | _ => 0

/-- A control register of a channel's window, as it is read. -/
def chanReg (s : State) (c : ChanIx) (off : Nat) : W32 := shown s (windowBase c + off) (chanTable s c off)

/-- The 4 B at an aligned offset of the window: a register, a ring word, or zero. -/
def windowWord (s : State) (c : ChanIx) (off : Nat) : W32 :=
  if off < 0x1000 then chanReg s c off
  else if off < 0x2000 then fieldLe 32 (readBytes (chan s c).reqRing (off - 0x1000) 4) 0 4
  else if off < 0x3000 then fieldLe 32 (readBytes (chan s c).rspRing (off - 0x2000) 4) 0 4
  else 0

/-- `n` bytes of the window. -/
def windowBytes (s : State) (c : ChanIx) (off n : Nat) : List Byte :=
  (((List.range ((off + n + 3) / 4 - off / 4)).flatMap fun i => toLe 4 (windowWord s c (off / 4 * 4 + 4 * i)).toNat).drop
    (off % 4)).take n

/-- What a read of `n` bytes clears: the RC counter MBX_NTC_DROP (R463). -/
def windowClear (c : ChanIx) (off n : Nat) (s : State) : State :=
  if off < 0x34 ∧ 0x30 < off + n then modChan c (fun q => { q with ntcDrop := 0 }) s else s

/-- A sender's write of a register of its window that it may write (R7, R327, R330, R331): W1S doorbells, W1C outbound
bits and events, the outbound mask, its indices. A changed index is checked, and the Keeper looks at the ring where its
doorbell is set. -/
def windowWrite (c : ChanIx) (off : Nat) (v : W32) (now : Nat) (s : State) : State :=
  match off with
  | 0x04 => ringDoorbell c v now s
  | 0x0C => modChan c (fun q => { q with dbOut := q.dbOut &&& ~~~v }) s
  | 0x10 => writeOutMask c v s
  | 0x14 => serveDoorbells c (ringCheck c (modChan c (fun q => { q with reqProd := v.setWidth 16 }) s))
  | 0x20 => serveDoorbells c (ringCheck c (modChan c (fun q => { q with rspCons := v.setWidth 16 }) s))
  | 0x28 => flushHeld c (modChan c (fun q => { q with ntcCons := v }) s)
  | 0x3C => modChan c (fun q => { q with evt := q.evt &&& ~~~(v.setWidth 3) }) s
  | _ =>
    if 0x1000 ≤ off ∧ off < 0x2000 then
      modChan c (fun q => { q with reqRing := writeBytes q.reqRing (off - 0x1000) (toLe 4 v.toNat) }) s
    else s

/-- The registers of the window that a PCIe function may write (R333). -/
def windowWritable (off : Nat) : Bool := [0x04, 0x0C, 0x10, 0x14, 0x20, 0x28, 0x3C].contains off

end Sys2Proof.Machine
end

