-- ==== Sys2Proof/Machine/CmxPool.lean ====
section
/-! DEFINITION. READ, WRITE, WRITE_RELEASE and ATOMIC (R80, R90 to R98, R127, R333), the responses and NACKs of trays
and lenders (R69, R70, R79, R106), Acknowledgements and timers of a pair (R87 to R91), and the route maps (R99 to R103,
R270, R344). -/

namespace Sys2Proof.Machine

/-! ## Peer mailboxes over CMX (R333) -/

/-- A Pen 0 request that the window does not accept. -/
def peerRefused (op : BitVec 8) (p : Rx) (s : State) : State := nack p rTierError 6 noExtent (endIfStore op p s)

/-- A packet for a peer channel's window: a slot or a register written, or bytes read. -/
def peerAccess (op : BitVec 8) (p : Rx) (s : State) : State :=
  match peerWindow p.addr with
  | none => peerRefused op p s
  | some (c, o) =>
    if op = 0x01 then
      (if o + p.length.toNat ≤ 0x4000 then
        let bytes := windowBytes s c o p.length.toNat
        respond p { respPkt 0x02 p with length := p.length, payload := bytes } (windowClear c o p.length.toNat s)
      else peerRefused op p s)
    else if op = 0x03 ∧ p.length = 256 ∧ 0x1000 ≤ o ∧ o < 0x2000 ∧ o % 256 = 0 then
      respond p (respPkt 0x04 p) (endStore p.src p.seq
        (modChan c (fun q => { q with reqRing := writeBytes q.reqRing (o - 0x1000) p.payload }) s))
    else if (op = 0x03 ∨ op = 0x05) ∧ p.length = 4 ∧ windowWritable o then
      respond p (respPkt 0x04 p) (endStore p.src p.seq (windowWrite c o (fieldLe 32 p.payload 0 4) p.now s))
    else peerRefused op p s

/-! ## READ (R80, R120, R127) -/

/-- A reader set with a node registered (R127): up to 8 nodes, then Broadcast. -/
def register (n : Node) (readers : List Node) (broadcast : Bool) : List Node × Bool :=
  if broadcast ∨ readers.contains n then (readers, broadcast)
  else if readers.length < 8 then (readers ++ [n], false) else ([], true)

/-- READ with TRACK registers its reader: of the handle's region for a Sealed extent, else of the extent. -/
def trackReader (p : Rx) (s : State) : State :=
  let k := rxKey s p
  match handleOpen s p.pen p.handle with
  | some x =>
    if (extAt s k).cls = .sealed then
      { s with share := { s.share with regions := aAdjust s.share.regions (x.rpen, x.region) fun r =>
          let (l, b) := register p.src r.readers r.broadcast
          { r with readers := l, broadcast := b } } }
    else modExt k (fun e => let (l, b) := register p.src e.readers e.broadcast; { e with readers := l, broadcast := b }) s
  | none => modExt k (fun e => let (l, b) := register p.src e.readers e.broadcast; { e with readers := l, broadcast := b }) s

/-- The access of a CMX request. -/
def rxJob (op : BitVec 8) (p : Rx) (s : State) : Job :=
  { id := 0, orig := .cmx op p, pen := p.pen, key := rxKey s p, off := addrOff p.addr,
    len := if op = 0x08 then 8 else p.length.toNat, store := isStore op,
    atomic := if op = 0x08 then some (BitVec.ofNat 2 (bitsOf p.flags.toNat 7 6), flagBit p 8) else none,
    data := p.payload, handle := p.handle,
    desc := if (op = 0x03 ∨ op = 0x05) ∧ flagBit p 1 ∧ addrOff p.addr % 4096 = 0 ∧ p.length = 4096 then some p.step else none }

/-- A READ's effect. A TRACK that would need a lease record beyond the limit ends with NACK QUOTA (R139). -/
def doRead (p : Rx) (s : State) : State :=
  if p.pen = 0 then peerAccess 0x01 p s
  else if flagBit p 0 then startJob (rxJob 0x01 p s) (trackReader p (createLease p.pen (.node p.src) s))
  else startJob (rxJob 0x01 p s) s

/-- READ. -/
def execRead (p : Rx) (s : State) : Res := .next (request 0x01 p doRead s)

/-! ## Stores (R31, R90, R93, R94, R97) -/

/-- A store's effect. -/
def doStore (op : BitVec 8) (p : Rx) (s : State) : State :=
  if p.pen = 0 then peerAccess op p s else startJob (rxJob op p s) s

/-- WRITE. -/
def execWrite (p : Rx) (s : State) : Res := .next (request 0x03 p (doStore 0x03) s)

/-- ATOMIC. -/
def execAtomic (p : Rx) (s : State) : Res := .next (request 0x08 p (doStore 0x08) s)

/-- A request that its pair holds until T reaches it (R94, R128, R134). -/
def holdOrdered (op : BitVec 8) (p : Rx) (s : State) : State :=
  pfcSettle (modPair p.src (fun q => { q with held := q.held ++ [{ op, rx := p }] }) s)

/-- WRITE_RELEASE: received, and held. -/
def execWriteRelease (p : Rx) (s : State) : Res := .next (request 0x05 p (holdOrdered 0x05) s)

/-- A held request of a pair by opcode and sequence number, once T is at its predecessor or beyond. -/
def dueHeld (s : State) (n : Node) (op : BitVec 8) (seq : W32) : Option Rx :=
  match aGet s.pairs n with
  | none => none
  | some pr =>
    match pr.held.find? (fun h => h.op == op && h.rx.seq == seq) with
    | some h => if seqLe (seq - 1) pr.settled then some h.rx else none
    | none => none

/-- A held request leaves its pair. -/
def unhold (n : Node) (op : BitVec 8) (seq : W32) (s : State) : State :=
  pfcSettle (modPair n (fun q => { q with held := q.held.filter fun h => ¬ (h.op = op ∧ h.rx.seq = seq) }) s)

/-- What the home of its extent says of a held WRITE_RELEASE when its turn has come: the extent may have entered a
transfer or changed its owner since it arrived, be Sealed or in reclaim (R40, R117, R126, R131). -/
def releaseVerdict (p : Rx) (s : State) : Verdict :=
  if p.pen = 0 then .pass else firstGate [gateSlots 0x05 p s, gate8lease 0x05 p s, gate8owner 0x05 p s]

/-- WRITE_RELEASE_APPLY: applied once every earlier store of the pair has settled (R94). -/
def execWriteReleaseApply (n : Node) (seq : W32) (s : State) : Res :=
  match dueHeld s n 0x05 seq with
  | none => .next s
  | some p =>
    match releaseVerdict p s with
    | .wait _ => .next s
    | .nack reason st d => .next (nack p reason st d (endIfStore 0x05 p (unhold n 0x05 seq s)))
    | .pass => .next (doStore 0x05 p (unhold n 0x05 seq s))

/-- STORE_SETTLED: a store that has been applied or NACKed counts toward T (R93). -/
def execStoreSettled (n : Node) (seq : W32) (s : State) : Res :=
  match aGet s.pairs n with
  | some pr =>
    if pr.ended.contains seq then
      .next (settle n seq (modPair n (fun p => { p with ended := p.ended.filter fun x => ¬ x = seq }) s))
    else .next s
  | none => .next s

/-! ## What the device's own requests get back (R69, R70, R79, R106, R360) -/

/-- The device's own request that a response answers, by node and TAG, and the state without it. -/
def takeReq (p : Rx) (s : State) : Option (DevReq × State) :=
  match s.pool.devReqs.find? (fun r => r.node == p.src && r.tag == p.tag) with
  | none => none
  | some r => some (r, { s with pool := { s.pool with devReqs := s.pool.devReqs.filter fun q => ¬ (q.node = p.src ∧ q.tag = p.tag) } })

/-- Ciphertext of an extent's block is decrypted under a key id of its Pen, or discarded where the key has been removed
(R361). -/
def decrypt (k : ExtKey) (keyId : BitVec 8) (blk : Nat) (c : List Byte) (s : State) : Option (List Byte) × State :=
  match memKey s k.1 keyId with
  | some key => (some (Config.xtsDec key (tweakOf k blk) c), s)
  | none => (none, discardBlock s)

/-- A migration's Moving block has been read from its source. -/
def migRead (k : ExtKey) (c : List Byte) (s : State) : State :=
  match migOf s k with
  | some m => match m.moving with
    | some _ =>
      let b := m.moving.getD 0
      let (d, s) := decrypt k m.keyId b c s
      migPut k (modMig k (fun m => { m with data := d }) s)
    | none => s
  | none => s

/-- A block's image is placed in the stage pool. -/
def addImage (id : W32) (layer block : Nat) (bytes : List Byte) (s : State) : State :=
  { s with pool := { s.pool with images := s.pool.images ++ [{ window := id, layer, block, bytes }] } }

/-- A block being staged has been read from its home (R58). -/
def stageRead (win : W32) (layer block : Nat) (c : List Byte) (s : State) : State :=
  match aGet s.pool.windows win with
  | none => s
  | some w =>
    let (k, b) := layerBlock w layer block
    let (d, s) := decrypt k (extAt s k).keyId b c s
    match d with
    | some bytes => if w.staged.contains layer then addImage win layer block bytes s else s
    | none => s

/-- READ_RESP's effect: the data reaches the unit that asked for it. -/
def readRespFor (r : DevReq) (p : Rx) (s : State) : State :=
  match r.owner with
  | .job id => wakeJobs (jobData id p.payload (countRead r.node r.addr s))
  | .migRead k => migRead k p.payload (countRead r.node r.addr s)
  | .stage w l b => stageRead w l b p.payload (countRead r.node r.addr s)
  | _ => s

/-- READ_RESP. -/
def execReadResp (p : Rx) (s : State) : Res :=
  .next (response 0x02 p (fun p s => match takeReq p s with
    | some (r, s) => readRespFor r p s
    | none => s) s)

/-- WRITE_ACK's effect. -/
def writeAckFor (r : DevReq) (s : State) : State :=
  match r.owner with
  | .job id => jobWritten id s
  | .migWrite k => modMig k (fun m => { m with written := true }) s
  | .page n => pageAck n r.addr s
  | .fill c t => fillAck c t s
  | _ => s

/-- The migration whose Moving block a write to a flash unit carries. -/
def migOfUnit (s : State) (n : Node) (u : Nat) : Option ExtKey :=
  (s.pool.migs.find? fun m => match m.moving, migInto m with
    | some b, some f => frmPlace f b == Place.flash n u
    | _, _ => false).map (·.key)

/-- A flash tray refuses a write: the one access, or the one block move, that wrote the unit fails (R53, R70). -/
def unitFailed (n : Node) (w : UnitWrite) (s : State) : State :=
  match w.job with
  | some id => jobFailed id (.err rTierError (tierDetail 3 4)) s
  | none => match migOfUnit s n w.unit with
    | some k => resumeAfter (migOf s k) (migStall k s)
    | none => s

/-- A flash tray refuses the write of a slot: the write leaves its page. -/
def pageFailed (n : Node) (addr : Nat) (s : State) : State :=
  let v := slotAt addr
  let bad := ((tray s n).pages.flatMap fun p => p.writes.filter fun w => w.2 == v).map (·.1)
  let s := modTray n (fun t => { t with pages := t.pages.map fun p => { p with
    writes := p.writes.filter fun w => ¬ w.2 = v, unacked := p.unacked.filter fun x => ¬ x = v } }) s
  bad.foldl (fun s w => unitFailed n w s) s

/-- A tray or a lender refuses one of the device's requests (R70): what waited for it ends with TIER_ERROR, cause 4, or
with POISONED where a flash tray reports a page that it cannot correct (R69). `cause` is R105's. -/
def devFailed (r : DevReq) (poison : Bool) (cause : Nat) (s : State) : State :=
  let s := if poison then poisonPage r.node r.addr s else s
  match r.owner with
  | .job id =>
    match jobAt s id with
    | some j =>
      let res : PoolRes := if poison then .err rPoisoned (BitVec.ofNat 32 (jobBlk j))
        else .err rTierError (tierDetail (tierCode (extAt s j.key).tier) cause)
      jobFailed id res s
    | none => s
  | .migRead k =>
    let res : PoolRes := if poison then .err rPoisoned (BitVec.ofNat 32 (((migOf s k).bind (·.moving)).getD 0))
      else .err rTierError (tierDetail (tierCode (extAt s k).tier) cause)
    resumeAfter (migOf s k) (migSourceFails k res s)
  | .migWrite k => resumeAfter (migOf s k) (migStall k s)
  | .page n => pageFailed n r.addr s
  | .fill c t => fillFails c t s
  | _ => s

/-- NACK: a NACK of one of the device's own requests ends it; the device does not retry it (R70, R106). -/
def execNack (p : Rx) (s : State) : Res :=
  .next (response 0x48 p (fun p s => match takeReq p s with
    | some (r, s) =>
      devFailed r (p.flags.toNat % 256 = 6 && !r.write && (tray s r.node).mounted) 4 s
    | none => s) s)

end Sys2Proof.Machine
end

