-- ==== Sys2Proof/Machine/Pairs.lean ====
section
/-! DEFINITION. Acknowledgements of a pair (R87 to R91), WRITE_ACK, and the route maps (R99 to R103, R270, R343, R344). -/

namespace Sys2Proof.Machine

/-- WRITE_ACK: the WRITE of the device's own has landed. -/
def execWriteAck (p : Rx) (s : State) : Res :=
  .next (response 0x04 p (fun p s => match takeReq p s with
    | some (r, s) => writeAckFor r s
    | none => s) s)

/-! ## Acknowledgements (R87, R89, R91) -/

/-- An Acknowledgement shows that a packet has arrived: at or below S, or named by the selective bitmap. -/
def ackShows (cum bitmap seq : W32) : Bool :=
  seqLe seq cum || (decide ((seq - cum - 2).toNat < 32) && bitmap.getLsbD (seq - cum - 2).toNat)

/-- Packets later than one that the bitmap shows. -/
def laterShown (cum bitmap seq : W32) : Nat :=
  ((List.range 32).filter fun i => bitmap.getLsbD i && seqLt seq (cum + 2 + BitVec.ofNat 32 i)).length

/-- The permitted outstanding count after an Acknowledgement (R91): CE_ECHO halves it, to no fewer than 16, and each 16
acknowledged packets raise it by one, up to the limit of R84. -/
def windowAfter (p : Pair) (ce : Bool) (acked : Nat) : Pair :=
  let w := if ce then max 16 (p.window / 2) else p.window
  let n := p.acked + acked
  { p with window := min (min 2048 p.maxOut) (w + n / 16), acked := n % 16 }

/-- The packets that are due for the one fast retransmission of R89. -/
def dueFast (p : Pair) (cum bitmap : W32) : List Sent :=
  p.unacked.filter fun x => !x.fast && decide (8 ≤ laterShown cum bitmap x.seq)

/-- A pair's sender side takes an Acknowledgement: packets shown as arrived are released, the window follows, packets
with 8 later ones shown go again, and kept back packets are sent. -/
def takeAck (n : Node) (pr : Pair) (cum bitmap : W32) (ce : Bool) (s : State) : State :=
  let left := pr.unacked.filter fun x => !ackShows cum bitmap x.seq
  let pr := windowAfter { pr with unacked := left } ce (pr.unacked.length - left.length)
  let due := dueFast pr cum bitmap
  let mark (x : Sent) : Sent := if due.any (fun y => y.seq == x.seq) then { x with fast := true } else x
  let s := modPair n (fun _ => { pr with unacked := pr.unacked.map mark }) s
  let s := due.foldl (fun s x => route n x.seq x.pkt { own := x.own } s) s
  drainBacklog n pr.backlog.length s

/-- ACKNOWLEDGEMENT (R87, R89, R91): header type 1, not Sequenced, exempt from station 4 (R101). -/
def execAcknowledgement (p : Rx) (s : State) : Res :=
  if rxArrives s p = false then .next s
  else if (port s p.port).macsec ∧ p.l2.macsecOk = false then .next (sampleRx p true (drop2 p s))
  else if headersOk s 0 1 p = false then .next (sampleRx p true (drop3 p s))
  else
    let s := sampleRx p false s
    match aGet s.pairs p.src with
    | none => .next s
    | some pr => .next (takeAck p.src pr p.seq p.tag (flagBit p 9) s)

/-- ACK_DELAY_EXPIRY: 1 µs after the first unacknowledged arrival an Acknowledgement goes. -/
def execAckDelayExpiry (n : Node) (s : State) : Res :=
  match aGet s.pairs n with
  | some pr => if pr.arrivals = 0 ∨ slotMoving s (nodeSlot n) then .next s else .next (sendAck n s)
  | none => .next s

/-! ## Route maps (R99, R102, R270, R343, R344) -/

/-- A node table entry of 64 B (R270). -/
def nodeOf (b : List Byte) : NodeEntry :=
  let fl := leAt b 2 1
  { node := fieldLe 16 b 0 2, v := fl.testBit 0, isLocal := fl.testBit 1, ipv6 := fl.testBit 2, tagged := fl.testBit 3,
    ports := (List.range (min 4 (leAt b 3 1))).map fun i => Fin.ofNat 512 (leAt b (4 + 2 * i) 2),
    vid := fieldLe 12 b 12 2, mac := BitVec.ofNat 48 (beAt b 14 6), ip := BitVec.ofNat 128 (beAt b 20 16) }

/-- The fields of an entry with V = 1 lie in their ranges. -/
def nodeBytesOk (b : List Byte) : Bool :=
  let n := leAt b 3 1
  !(leAt b 2 1).testBit 0
    || (decide (1 ≤ n ∧ n ≤ 4) && (List.range n).all fun i => decide (leAt b (4 + 2 * i) 2 < 512))

/-- No two elements of a list agree under a key. -/
def distinctBy {α β : Type} [DecidableEq β] (key : α → β) : List α → Bool
  | [] => true
  | x :: xs => !(xs.any fun y => key y == key x) && distinctBy key xs

/-- The valid entries of a node table: one node id and one IP address each, and one of them LOCAL. -/
def nodesOk (ns : List NodeEntry) : Bool :=
  let vs := ns.filter (·.v)
  distinctBy (·.node) vs && distinctBy (·.ip) vs && (vs.filter (·.isLocal)).length == 1

/-- The group tree entries name each group once, and none is group 0 (R344). -/
def treeOk (ts : List (W32 × Node)) : Bool := distinctBy (·.1) ts && ts.all fun t => t.1 ≠ 0

/-- Node entries and group tree entries of a ROUTE_MAP_LOAD. -/
def mapNodes (r : Req) : Nat := leAt r.payload 4 4
def mapTrees (r : Req) : Nat := leAt r.payload 8 4
def mapCounts (r : Req) : Bool := decide (1 ≤ mapNodes r ∧ mapNodes r ≤ 65536 ∧ mapTrees r ≤ 4096)

def cmdRouteMapLoad (r : Req) : Cmd :=
  { op := 0xA0, f := true, level := 1, fields := [(0, 2), (4, 8)],
    blen := fun b => !mapCounts r || b == 64 * mapNodes r + 16 * mapTrees r }

/-- The slices of `n` bytes of a buffer from an offset on. -/
def slices (b : List Byte) (off len n : Nat) : List (List Byte) :=
  (List.range n).map fun i => (b.drop (off + len * i)).take len

/-- ROUTE_MAP_LOAD's effect: the counts, the epoch, then the entries. -/
def routeMapLoad (r : Req) (rep : Reply) (s : State) : State :=
  let e : BitVec 16 := fieldLe 16 r.payload 0 2
  let b := inBuf s r
  let raw := slices b 0 64 (mapNodes r)
  let nodes := raw.map nodeOf
  let tree := (slices b (64 * mapNodes r) 16 (mapTrees r)).map fun t => (fieldLe 32 t 0 4, fieldLe 16 t 4 2)
  if mapCounts r = false then post rep stBadParam [] s
  else if e ≠ s.routes.current.epoch + 1 then post rep stEpochMismatch [] s
  else if raw.all nodeBytesOk = false ∨ nodesOk nodes = false ∨ treeOk tree = false then post rep stBadParam [] s
  else post rep stOk [] { s with routes := { s.routes with staged := some { epoch := e, nodes, tree } } }

/-- ROUTE_MAP_LOAD: a map is staged, in place of any staged earlier. -/
def execRouteMapLoad (r : Req) (s : State) : Res := .next (mbx (cmdRouteMapLoad r) true r (routeMapLoad r) s)

def cmdRouteMapCommit : Cmd := { op := 0xA1, f := true, level := 1, fields := [(0, 2)] }

/-- The staged map becomes current, the current one previous with its in-flight count (R99, R102). -/
def commitMap (m : RouteMap) (s : State) : State :=
  { s with routes := { s.routes with current := m, previous := some s.routes.current, staged := none,
                                     inflight := 0, inflightPrev := s.routes.inflight } }

/-- ROUTE_MAP_COMMIT's effect: the epoch, the previous map's life, then the staged map. -/
def routeMapCommit (r : Req) (rep : Reply) (s : State) : State :=
  let e : BitVec 16 := fieldLe 16 r.payload 0 2
  if e ≠ s.routes.current.epoch + 1 then post rep stEpochMismatch [] s
  else if s.routes.previous.isSome then post rep stBusy [] s
  else match s.routes.staged with
    | some m => if m.epoch = e then post rep stOk [] (commitMap m s) else post rep stNotFound [] s
    | none => post rep stNotFound [] s

/-- ROUTE_MAP_COMMIT. -/
def execRouteMapCommit (r : Req) (s : State) : Res := .next (mbx cmdRouteMapCommit false r (routeMapCommit r) s)

/-- The previous map retires. -/
def retireMap (s : State) : State := { s with routes := { s.routes with previous := none, inflightPrev := 0 } }

/-- PREVIOUS_MAP_QUIET_EXPIRY: the in-flight count has stayed zero for the quiet time. -/
def execPreviousMapQuietExpiry (s : State) : Res :=
  if s.routes.inflightPrev = 0 then .next (retireMap s) else .next s

end Sys2Proof.Machine
end

