-- ==== Sys2Proof/Machine/Groups.lean ====
section
/-! DEFINITION. Reduce Units and collective groups (R167 to R193): contributions, results, straggler evidence, eviction
and admission, and the group commands (R343). -/

namespace Sys2Proof.Machine

/-! ## Groups and their members -/

def groupAt (s : State) (g : W32) : Option Group := aGet s.groups g
def modGroup (g : W32) (f : Group → Group) (s : State) : State := { s with groups := aAdjust s.groups g f }

/-- The group home Shed (R169), and the reducing Shed of a chunk (R23). -/
def groupHome (s : State) (g : W32) : ShedIx := homeMap s (Fin.ofNat 4 g.toNat)
def reducingShed (s : State) (g : W32) (index : Nat) : ShedIx := homeMap s (Fin.ofNat 4 (g.toNat + index))

/-- The parent stage of a group: its tree entry in the current map, else its descriptor's PARENT (R171, R344). -/
def parentOf (s : State) (g : W32) (x : Group) : Node := (aGet s.routes.current.tree g).getD x.parent

/-- A member is expected for a step (R173, R183). -/
def expected (m : Member) (step : W32) : Bool :=
  seqLe m.join step && match m.leave with | some l => seqLt step l | none => true

/-- A counter of the report header, raised by one: 0 accepted, 1 NOT_MEMBER, 2 DUPLICATE, 3 NO_SLOT, 4 saturated, 5 short,
6 lost, 7 evictions refused for rate. -/
def countGroup (i : Nat) (x : Group) : Group := { x with cnt := x.cnt.set i (satInc (x.cnt.getD i 0)) }

def modMember (n : Node) (f : Member → Member) (x : Group) : Group :=
  { x with members := x.members.map fun m => if m.node = n then f m else m }

/-- A GROUP notice (R339) to the creating channel. -/
def groupNotice (g : W32) (event : Nat) (node : Node) (score low : Nat) (step : W32) (index wait : Nat) (s : State) : State :=
  match groupAt s g with
  | none => s
  | some x => shedNotice (groupHome s g) x.chan 5
      (toLe 4 g.toNat ++ [BitVec.ofNat 8 event, 0] ++ toLe 2 node.toNat ++ [BitVec.ofNat 8 score, BitVec.ofNat 8 low, 0, 0]
        ++ toLe 4 step.toNat ++ toLe 4 index ++ toLe 4 wait) s

/-- The SCORE and LOW that a notice naming a node carries: its member's, 0 for a node that is no member.
DEDUCED (notes/assumptions/166.md). -/
def memberMarks (s : State) (g : W32) (n : Node) : Nat × Nat :=
  match (groupAt s g).bind fun x => x.members.find? fun m => m.node == n with
  | some m => (m.score.toNat, m.low.toNat)
  | none => (0, 0)

/-! ## Chunk layout (R172) -/

def groupFmt (x : Group) : Fmt := (fmtOf x.fmt).getD .i32
/-- EBI blocks in a chunk, and where its scale words begin. -/
def chunkBlocks (f : Fmt) : Nat := match f with | .ebi8 => 120 | .ebi16 => 62 | .ebi4 => 224 | _ => 0
def scaleOff (f : Fmt) : Nat := match f with | .ebi8 => 3840 | .ebi16 => 3968 | .ebi4 => 3584 | _ => 4096
/-- Integer elements in a chunk. -/
def chunkInts (f : Fmt) : Nat := match f with | .i64 => 512 | _ => 1024

/-- EBI block k of a chunk: the contributions q × M, E and M. -/
def chunkBlock (f : Fmt) (bytes : List Byte) (k : Nat) : List Int × Int × Nat :=
  let w : BitVec 16 := fieldLe 16 bytes (scaleOff f + 2 * k) 2
  ((elemsOf f (bytes.drop (k * blockBytes f)) 32).map fun q => q * scaleM w, scaleE w, scaleM w)

/-- A chunk of EBI blocks in the layout of R172. -/
def packChunk (f : Fmt) (qs : List Quant) : List Byte :=
  padTo (scaleOff f) ((qs.map fun q => packElems f q.q).flatten) ++
    padTo (4096 - scaleOff f) ((qs.map fun q => toLe 2 (mkScale q.e q.m).toNat).flatten)

/-! ## What a unit does with a contribution (R149 to R151, R176) -/

/-- The exact value (a, e) lies below (b, f). -/
def valueLt (a b : Int × Int) : Bool :=
  let m := min a.2 b.2
  decide (a.1 * 2 ^ (a.2 - m).toNat < b.1 * 2 ^ (b.2 - m).toNat)

/-- MIN or MAX of two exact values. -/
def chooseValue (max : Bool) (a b : Int × Int) : Int × Int := if valueLt a b == max then b else a

/-- An integer operation on two elements of `w` bits: SUM, MIN, MAX, AND, OR, XOR. -/
def intOp (op w : Nat) (a b : Int) : Int :=
  if op = 0 then a + b
  else if op = 1 then min a b
  else if op = 2 then max a b
  else
    let x := BitVec.ofInt w a
    let y := BitVec.ofInt w b
    (if op = 3 then x &&& y else if op = 4 then x ||| y else x ^^^ y).toInt

/-- Lanes that read as zeros. -/
def zeroLanes (l : Lanes) : Lanes :=
  match l with
  | .empty => .empty
  | .fast b => .fast (b.map fun _ => {})
  | .exact b => .exact (b.map fun _ => { a := List.replicate 32 0 })
  | .chosen v => .chosen (v.map fun _ => (0, 0))
  | .ints v => .ints (v.map fun _ => 0)

/-- A chunk's lanes as its Reduce Unit reads them: zeros where the Loft cells' tag is not the group's Pen (R353). -/
def chunkLanes (x : Group) (c : Chunk) : Lanes := if c.cell = some x.pen then c.lanes else zeroLanes c.lanes

/-- The lanes with a contribution applied. -/
def applyContrib (x : Group) (l : Lanes) (bytes : List Byte) : Lanes :=
  let f := groupFmt x
  let blocks := (List.range (chunkBlocks f)).map (chunkBlock f bytes)
  if isEbi f ∧ x.op = 0 ∧ x.exact then
    let old := match l with | .exact b => b | _ => blocks.map fun _ => ({ a := List.replicate 32 0 } : Exact)
    .exact (List.zipWith (fun (o : Exact) (c : List Int × Int × Nat) => exactAdd o c.1 c.2.1 c.2.2) old blocks)
  else if isEbi f ∧ x.op = 0 then
    let old := match l with | .fast b => b | _ => blocks.map fun _ => ({ } : Fast)
    .fast (List.zipWith (fun (o : Fast) (c : List Int × Int × Nat) => fastAdd o c.1 c.2.1 c.2.2) old blocks)
  else if isEbi f then
    let vs := blocks.flatMap fun c => c.1.map fun v => (v, c.2.1)
    match l with
    | .chosen old => .chosen (List.zipWith (chooseValue (x.op == 2)) old vs)
    | _ => .chosen vs
  else
    let vs := elemsOf f bytes (chunkInts f)
    match l with
    | .ints old => .ints (List.zipWith (intOp x.op (fmtBits f)) old vs)
    | _ => .ints vs

/-- The least exponent of a block's chosen values. -/
def leastExp (vs : List (Int × Int)) : Int := vs.foldl (fun m v => min m v.2) 127

/-- The blocks to requantise: integers and their exponent, and whether a clamp of R150 has occurred. -/
def laneBlocks (l : Lanes) : List (List Int × Int) × Bool :=
  match l with
  | .fast b => (b.map fun x => (if x.empty then List.replicate 32 0 else x.a, x.g), false)
  | .exact b => (b.map fun x => ((exactTotal x).a, -48), b.any fun x => (exactTotal x).sat)
  | .chosen vs =>
    ((List.range (vs.length / 32)).map fun k =>
      let c := (vs.drop (32 * k)).take 32
      let f := leastExp c
      (c.map fun v => v.1 * 2 ^ (v.2 - f).toNat, f), false)
  | _ => ([], false)

/-- The 16-bit values of R147 for a chunk. -/
def chunkRand (s : State) (g : W32) (x : Group) (step : W32) (index pos : Nat) : Nat :=
  rand16 (pen s x.pen).seed step (BitVec.ofNat 16 (0x8000 + g.toNat % 32768)) ((index * 4096 + pos) % 2 ^ 34)

/-- The result of a chunk, and whether it saturated (R173, R178). -/
def chunkResult (s : State) (g : W32) (x : Group) (c : Chunk) : List Byte × Bool :=
  let f := groupFmt x
  if isEbi f then
    let (bs, clamp) := laneBlocks (chunkLanes x c)
    let qs := (List.range bs.length).map fun k =>
      let b := bs.getD k ([], 0)
      requant b.1 b.2 (qmax f) x.rmode fun i => chunkRand s g x c.step c.index (32 * k + i)
    (packChunk f qs, clamp || qs.any (·.sat))
  else
    let vs := match chunkLanes x c with | .ints v => v | _ => List.replicate (chunkInts f) 0
    let lo : Int := -(2 ^ (fmtBits f - 1))
    let cut := vs.map fun v => if v < lo then lo else if 2 ^ (fmtBits f - 1) - 1 < v then 2 ^ (fmtBits f - 1) - 1 else v
    (packElems f cut, cut != vs)

/-! ## Units and slots (R175, R176, R190) -/

/-- A Reduce Unit that can hold chunks of a group: an active unit with the slots that it reserved, or the engaged spare
with those of the unit that it replaces. -/
def unitSlots (s : State) (x : Group) (sh : ShedIx) (u : UnitIx) : Nat :=
  let n := unit s sh .reduce u
  match n.st with
  | .active => aGetD x.slots (sh, u) 0
  | .spareEngaged => match n.link with | some l => aGetD x.slots (sh, l) 0 | none => 0
  | _ => 0

/-- The unit's reserved slots of a group that no open chunk takes. -/
def freeSlots (s : State) (x : Group) (sh : ShedIx) (u : UnitIx) : Nat :=
  unitSlots s x sh u - (x.opened.filter fun c => c.shed = sh ∧ c.unit = u).length

def allUnits : List UnitIx := (List.range 17).map (Fin.ofNat 17)

/-- The units that hold the most free reserved slots of a group (R176); EN 0 takes no new chunk. -/
def slotUnits (s : State) (x : Group) (sh : ShedIx) : List UnitIx :=
  mostBy (freeSlots s x sh) (allUnits.filter fun u => (unit s sh .reduce u).en && decide (0 < freeSlots s x sh u))

/-- The bytes of a slot in KiB, and a unit's reserved memory (RDU_SLOTS.USED_KIB). -/
def slotKib (x : Group) : Nat := if x.exact ∧ x.op = 0 ∧ isEbi (groupFmt x) then 56 else 20
def usedKib (s : State) (sh : ShedIx) (u : UnitIx) : Nat := (s.groups.map fun g => aGetD g.2.slots (sh, u) 0 * slotKib g.2).sum

/-- The KiB of a unit that no reservation takes, `l` being one under way. -/
def roomKib (s : State) (kib : Nat) (sh : ShedIx) (l : Assoc UnitIx Nat) (u : UnitIx) : Nat :=
  1120 - usedKib s sh u - aGetD l u 0 * kib

/-- `n` slots spread over a Shed's active units, each to any unit with room; none where they do not fit. -/
def spread (kib : Nat) (sh : ShedIx) : Nat → Assoc UnitIx Nat → State → Option (Assoc UnitIx Nat) × State
  | 0, l, s => (some l, s)
  | n + 1, l, s =>
    match takeOne (allUnits.filter fun u => (unit s sh .reduce u).st == .active && decide (kib ≤ roomKib s kib sh l u)) s with
    | (none, s) => (none, s)
    | (some u, s) => spread kib sh n (aMod l u 0 (· + 1)) s

/-- The reservation of a group: K slots in each Shed that home_map names. -/
def reserve (kib k : Nat) : List ShedIx → State → Option (Assoc (ShedIx × UnitIx) Nat) × State
  | [], s => (some [], s)
  | sh :: shs, s =>
    match spread kib sh k [] s with
    | (none, s) => (none, s)
    | (some l, s) =>
      match reserve kib k shs s with
      | (none, s) => (none, s)
      | (some a, s) => (some (l.map (fun u => ((sh, u.1), u.2)) ++ a), s)

/-! ## Events of a unit -/

/-- A bit of RDU_EVT (block 0x30_0000); the event names a Pen and a group. -/
def setRduEvt (bit pen group : Nat) (sh : ShedIx) (u : UnitIx) (s : State) : State :=
  evtBitD (shedBase sh + 0x300000 + u.val * 0x1000 + 0x1C) bit (shcOf sh) pen 0 group 0
    (modUnit sh .reduce u (fun q => { q with evt := orBit q.evt bit }) s)

/-! ## Completion of a chunk (R173, R178, R185, R188) -/

/-- REDUCE_RESULT for a contribution. -/
def resultPkt (x : Group) (rx : Rx) (bytes : List Byte) : Pkt :=
  { respPkt 0x21 rx with length := 4096, keyId := x.keyId, step := rx.step, payload := bytes }

/-- The result goes to each contributor, and to an expected contributor that has not contributed (R188). -/
def multicast (g : W32) (x : Group) (step : W32) (index : Nat) (from_ : List Rx) (bytes : List Byte) (s : State) : State :=
  let s := from_.foldl (fun s rx => respond rx (resultPkt x rx bytes) s) s
  (x.members.filter fun m => expected m step && !(from_.any fun r => r.src == m.node)).foldl (fun s m =>
    let (tag, s) := takeFree 32 s
    send m.node { op := 0x21, pen := x.pen, cls := x.cls, epoch := s.routes.current.epoch, length := 4096,
                  addr := BitVec.ofNat 56 index, keyId := x.keyId, group := g, step, tag, payload := bytes } s) s

/-- The partial goes to the parent as a REDUCE_CONTRIB of the device's own. -/
def sendUp (g : W32) (x : Group) (step : W32) (index : Nat) (parent : Node) (bytes : List Byte) (s : State) : State :=
  let (tag, s) := freshId (s.pool.devReqs.map (·.tag)) s
  send parent { op := 0x20, pen := x.pen, cls := x.cls, epoch := s.routes.current.epoch, length := 4096,
                addr := BitVec.ofNat 56 index, keyId := x.keyId, group := g, step, tag, payload := bytes } s

/-- Evicting members whose steps have all completed are Evicted (R185). -/
def settleEvicted (x : Group) : Group :=
  { x with members := x.members.map fun m =>
      match m.leave with
      | some l =>
        let done := (x.completed.filter fun c => seqLt c.1 l).length
        if m.st = .evicting ∧ x.chunks * (l - x.start).toNat ≤ done then { m with st := .evicted } else m
      | none => m }

/-- The bin of a lateness in ns. -/
def binOf (ns : Nat) : Nat := if ns < 1000 then 0 else min 15 (Nat.log2 (ns / 1000) + 1)

def bump (l : List Nat) (i : Nat) : List Nat := (List.range 16).map fun k => l.getD k 0 + bitNat (k == i)

/-- A completed chunk counts as owed by each expected member, on time where its lateness was below LATE_THR; a missing
contribution is late and counts in bin 15 (R180, R188). -/
def countOwed (c : Chunk) (x : Group) : Group :=
  { x with members := x.members.map fun m =>
      if expected m c.step then
        match c.arrived.find? fun a => a.1.src == m.node with
        | some a => { m with owed := m.owed + 1, ontime := m.ontime + bitNat (decide (a.2 < x.lateThr * 1000)) }
        | none => { m with owed := m.owed + 1, fresh := bump m.fresh 15 }
      else m }

/-- The first occurrence of a kind in a score window. -/
def firstSeen (g : W32) (kind : Nat) (s : State) : Bool := match groupAt s g with | some x => !x.seen.contains kind | none => false

/-- Saturation of a chunk (R178). -/
def saturated (g : W32) (c : Chunk) (s : State) : State :=
  let first := firstSeen g 3 s
  let s := setRduEvt 0 (((groupAt s g).map (·.pen.toNat)).getD 0) g.toNat c.shed c.unit (modUnit c.shed .reduce c.unit (fun q => { q with cnt2 := satInc q.cnt2 }) s)
  let s := modGroup g (fun x => { countGroup 4 x with seen := if x.seen.contains 3 then x.seen else x.seen ++ [3] }) s
  if first then groupNotice g 4 0 0 0 c.step c.index 0 s else s

/-- The slot of a chunk's reducing Shed (R23). -/
def chunkSlot (g : W32) (index : Nat) : Fin 4 := Fin.ofNat 4 (g.toNat + index)

/-- The first chunk of a step in a slot, and the chunk that follows one: an inner stage sends each slot's partials upward in
ascending order of step and index (R174). -/
def firstUp (g : W32) (slot : Fin 4) : Nat := (slot.val + 4 - g.toNat % 4) % 4
def afterUp (g : W32) (x : Group) (slot : Fin 4) (u : W32 × Nat) : W32 × Nat :=
  if u.2 + 4 < x.chunks then (u.1, u.2 + 4) else (u.1 + 1, firstUp g slot)

/-- The partials of a slot whose turn has come go upward; at most `n` chunks. -/
def drainUp (g : W32) (slot : Fin 4) : Nat → State → State
  | 0, s => s
  | n + 1, s =>
    match groupAt s g with
    | none => s
    | some x =>
      let next := aGetD x.nextUp slot (x.start, firstUp g slot)
      let on (y : Group) : Group := { y with nextUp := aSet y.nextUp slot (afterUp g x slot next) }
      match x.waiting.find? fun w => decide ((w.1, w.2.1) = next) with
      | some (step, index, parent, bytes, from_) =>
        drainUp g slot n (modGroup g (fun y => on { y with
            waiting := y.waiting.filter fun w => ¬ (w.1, w.2.1) = next
            upward := y.upward ++ [(step, index, parent, from_)] }) (sendUp g x step index parent bytes s))
      | none => if x.completed.contains next then drainUp g slot n (modGroup g on s) else s

/-- The partial of an inner stage joins those that go upward in their order. -/
def goUp (g : W32) (step : W32) (index : Nat) (parent : Node) (bytes : List Byte) (from_ : List Rx) (s : State) : State :=
  let s := modGroup g (fun y => { y with waiting := y.waiting ++ [(step, index, parent, bytes, from_)] }) s
  match groupAt s g with
  | none => s
  | some x => drainUp g (chunkSlot g index) (x.completed.length + x.waiting.length + 1) s

/-- The chunk completes: its result is formed and sent, and its slot released (R173). -/
def completeChunk (g : W32) (c : Chunk) (s : State) : State :=
  match groupAt s g with
  | none => s
  | some x =>
    let (bytes, sat) := chunkResult s g x c
    let from_ := c.arrived.map (·.1)
    let short := x.members.any fun m => expected m c.step && !(from_.any fun r => r.src == m.node)
    let s := modUnit c.shed .reduce c.unit (fun q => { q with cnt1 := satInc q.cnt1 }) s
    let s := if sat then saturated g c s else s
    let parent := parentOf s g x
    let s := if parent = 0 then multicast g x c.step c.index from_ bytes s else goUp g c.step c.index parent bytes from_ s
    modGroup g (fun y =>
      let y := if short then countGroup 5 y else y
      let opened := y.opened.filter fun q => ¬ (q.step = c.step ∧ q.index = c.index)
      settleEvicted (countOwed c { y with opened, completed := y.completed ++ [(c.step, c.index)] })) s

/-- Every expected contributor has contributed, those evicted with ABANDON aside. -/
def isComplete (x : Group) (c : Chunk) : Bool :=
  x.members.all fun m => !expected m c.step || m.abandon || c.arrived.any fun a => a.1.src == m.node

/-! ## REDUCE_CONTRIB (R173) -/

/-- A contribution is discarded, with its count and, for the first of its kind in a score window, event 0x0006 and a
notice. -/
def discardContrib (g : W32) (kind : Nat) (p : Rx) (s : State) : State :=
  let first := firstSeen g (kind - 1) s
  let s := modGroup g (fun x => { countGroup kind x with seen := if first then x.seen ++ [kind - 1] else x.seen }) s
  let s := if first then
      groupNotice g 8 p.src (memberMarks s g p.src).1 (memberMarks s g p.src).2 p.step p.addr.toNat 0 (codedD 0x6 (shcOf (groupHome s g)) p.pen.toNat p.src.toNat g.toNat 0 s)
    else s
  doneQuietly p s

/-- Members whose join step has opened are Active; the front follows (R183, R187). -/
def openStep (step : W32) (x : Group) : Group :=
  { x with front := if seqLe step x.front then x.front else step,
           members := x.members.map fun m => if m.st = .admitting ∧ seqLe m.join step then { m with st := .active } else m }

/-- The chunk of a contribution, open or opened now; none where no slot is free. -/
def chunkFor (g : W32) (x : Group) (p : Rx) (s : State) : Option Chunk × State :=
  let sh := reducingShed s g p.addr.toNat
  match x.opened.find? fun c => c.step == p.step && c.index == p.addr.toNat with
  | some c =>
    if 0 < unitSlots s x c.shed c.unit then (some c, s)
    else
      let (u, s) := takeOne (slotUnits s x c.shed) s
      (u.map fun u => { c with unit := u }, s)
  | none =>
    let (u, s) := takeOne (slotUnits s x sh) s
    (u.map fun u => { shed := sh, unit := u, step := p.step, index := p.addr.toNat, opened := p.now }, s)

/-- A contribution is accepted. -/
def acceptContrib (g : W32) (c : Chunk) (p : Rx) (s : State) : State :=
  match groupAt s g with
  | none => doneQuietly p s
  | some x =>
    let t0 := if c.arrived.isEmpty then p.now else c.opened
    let late := p.now - t0
    let rx : Rx := { p with payload := [] }
    let c : Chunk := { c with
      opened := t0, arrived := c.arrived ++ [(rx, late)], lanes := applyContrib x (chunkLanes x c) p.payload, cell := some x.pen }
    let s := modUnit c.shed .reduce c.unit (fun q => { q with cnt0 := satInc q.cnt0 }) s
    let s := modGroup g (fun y =>
      let rest := y.opened.filter fun q => ¬ (q.step = c.step ∧ q.index = c.index)
      modMember p.src (fun m => { m with fresh := bump m.fresh (binOf late) })
        (openStep p.step (countGroup 0 { y with opened := rest ++ [c] }))) s
    match groupAt s g with
    | some y => if isComplete y c then completeChunk g c s else s
    | none => s

/-- A contribution at its reducing Shed. -/
def doContrib (p : Rx) (s : State) : State :=
  match groupAt s p.group with
  | none => doneQuietly p s
  | some x =>
    let known := x.members.any fun m => m.node == p.src && expected m p.step
    let at_ (c : W32 × Nat) : Bool := c.1 == p.step && c.2 == p.addr.toNat
    if x.st ≠ .active ∨ p.keyId ≠ x.keyId ∨ p.pen ≠ x.pen ∨ x.chunks ≤ p.addr.toNat ∨ seqLt p.step x.start ∨ known = false then
      discardContrib p.group 1 p s
    else if x.completed.any at_ ∨ x.opened.any (fun c => at_ (c.step, c.index) && c.arrived.any fun a => a.1.src == p.src) then
      discardContrib p.group 2 p s
    else match chunkFor p.group x p s with
      | (none, s) => discardContrib p.group 3 p s
      | (some c, s) => acceptContrib p.group c p s

/-- REDUCE_CONTRIB. -/
def execReduceContrib (p : Rx) (s : State) : Res := .next (request 0x20 p doContrib s)

/-- The parent's result reaches an inner stage (R169). -/
def doResult (p : Rx) (s : State) : State :=
  match groupAt s p.group with
  | none => s
  | some x =>
    match x.upward.find? fun u => u.1 == p.step && u.2.1 == p.addr.toNat && u.2.2.1 == p.src with
    | none => s
    | some u =>
      multicast p.group x p.step p.addr.toNat u.2.2.2 p.payload
        (modGroup p.group (fun y => { y with upward := y.upward.filter fun v => ¬ (v.1 = p.step ∧ v.2.1 = p.addr.toNat) }) s)

/-- REDUCE_RESULT. -/
def execReduceResult (p : Rx) (s : State) : Res := .next (response 0x21 p doResult s)

/-! ## GROUP_CREATE (R167, R168) -/

def cmdGroupCreate : Cmd := { op := 0x50, p := true, f := true, level := 1, blen := fun n => decide (68 ≤ n ∧ n ≤ 2112) && n % 4 == 0 }

/-- A settings field: 0 takes the default. -/
def orElse (v d : Nat) : Nat := if v = 0 then d else v

/-- The members of a descriptor. -/
def descMembers (b : List Byte) (n : Nat) (start : W32) : List Member :=
  (List.range n).map fun i =>
    { node := fieldLe 16 b (64 + 4 * i) 2, child := leAt b (66 + 4 * i) 1 == 1, join := start }

/-- The group of a descriptor, without its slots. -/
def descGroup (p : BitVec 12) (c : ChanIx) (b : List Byte) : Group :=
  let n := leAt b 20 2
  let start : W32 := fieldLe 32 b 12 4
  { pen := p, chan := c, op := leAt b 4 1, fmt := leAt b 5 1, exact := leAt b 6 1 % 2 == 1, rmode := bitsOf (leAt b 6 1) 2 1,
    cls := BitVec.ofNat 4 (leAt b 7 1), chunks := leAt b 8 4, start, window := orElse (leAt b 16 2) 8,
    minMembers := orElse (leAt b 18 2) ((n + 1) / 2), parent := fieldLe 16 b 22 2, lateThr := orElse (leAt b 24 4) 50,
    scoreWin := orElse (leAt b 28 4) 100, evictThr := orElse (leAt b 32 1) 64, lowWindows := orElse (leAt b 33 1) 3,
    evictN := orElse (leAt b 34 1) 1, keyId := fieldLe 8 b 35 1, evictInt := orElse (leAt b 36 4) 10,
    members := descMembers b n start, front := start - 1, slots := [] }

/-- No node id appears twice. -/
def distinctNodes (ns : List Node) : Bool := ns.eraseDups.length == ns.length

/-- R168's BAD_PARAM cases. -/
def groupOk (s : State) (b : List Byte) (x : Group) : Bool :=
  let n := leAt b 20 2
  decide (fieldLe 32 b 0 4 ≠ (0 : W32)) && decide (x.op ≤ 5) && [0, 2, 3, 4].contains x.fmt && decide (leAt b 7 1 ≤ 7)
    && decide (1 ≤ x.chunks ∧ x.chunks ≤ 4194304) && decide (x.window ≤ 32) && decide (1 ≤ n ∧ n ≤ 512)
    && decide (x.lateThr ≤ 100000) && decide (10 ≤ x.scoreWin ∧ x.scoreWin ≤ 10000)
    && decide (2 ≤ x.lowWindows ∧ x.lowWindows ≤ 16) && decide (x.evictN ≤ 16) && decide (x.evictInt ≤ 3600)
    && !(decide (3 ≤ x.op) && isEbi (groupFmt x)) && x.rmode != 3
    && (List.range n).all (fun i => decide (leAt b (66 + 4 * i) 1 ≤ 1)) && distinctNodes (x.members.map (·.node))
    && decide (x.minMembers ≤ n) && x.keyId != 0 && keyInstalled s x.pen x.keyId

/-- The Sheds that home_map names. -/
def namedSheds (s : State) : List ShedIx := ((List.range 4).map fun i => homeMap s (Fin.ofNat 4 i)).eraseDups

/-- GROUP_CREATE's action. -/
def createAct (r : Req) (rep : Reply) (s : State) : State :=
  let b := inBuf s r
  let x := descGroup (actingPen s r) r.chan b
  let g : W32 := fieldLe 32 b 0 4
  if b.length ≠ 64 + 4 * leAt b 20 2 ∧ 1 ≤ leAt b 20 2 ∧ leAt b 20 2 ≤ 512 then post rep stBadBuffer [] s
  else if groupOk s b x = false then post rep stBadParam [] s
  else if (groupAt s g).isSome then post rep stBusy [] s
  else if 4096 ≤ s.groups.length then post rep stNoSpace [] s
  else match reserve (slotKib x) x.window (namedSheds s) s with
    | (none, s) => post rep stNoSpace [] s
    | (some slots, s) => post rep stOk (toLe 4 g.toNat) { s with groups := aSet s.groups g { x with slots } }

/-- The home slot of a group (R169). -/
def groupSlot (g : W32) : Fin 4 := Fin.ofNat 4 g.toNat

/-- GROUP_CREATE. -/
def execGroupCreate (r : Req) (s : State) : Res :=
  .next (mbx cmdGroupCreate true r (fun rep s =>
    awaitHome [groupSlot (fieldLe 32 (inBuf s r) 0 4)] (.groupCreate r) rep (createAct r rep) s) s)

/-- A command that names a group, and waits while its home slot is rebuilt (R15). -/
def groupCmd (c : Cmd) (at_ : Nat) (r : Req) (i : Instr) (act : Req → Reply → State → State) (s : State) : State :=
  mbx c false r (fun rep s => awaitHome [groupSlot (fieldLe 32 r.payload at_ 4)] i rep (act r rep) s) s

/-! ## Membership commands (R182 to R188) -/

/-- A membership command comes from the creating channel or an admin channel. -/
def mayManage (x : Group) (c : ChanIx) : Bool := x.chan == c || isAdmin c

/-- EVICT_INT in ns. -/
def groupInt (x : Group) : Nat := x.evictInt * 10 ^ 9

/-- The milliseconds until the rate limit allows an eviction (NEXT_EVICT). -/
def nextEvict (x : Group) (now : Nat) : Nat :=
  let int := groupInt x
  let live := x.evicted.filter fun t => decide (now < t + int)
  if live.length < x.evictN then 0
  else ((live.getD (live.length - x.evictN) 0 + int - now) + 999999) / 1000000

/-- Active members. -/
def activeMembers (x : Group) : Nat := (x.members.filter fun m => m.st == .active).length

def cmdGroupEvict : Cmd := { op := 0x51, p := true, f := true, level := 1, flags := 3, fields := [(0, 4), (4, 2)] }

/-- The checks of R184; 0 where all pass. -/
def evictStatus (x : Group) (m : Option Member) (force : Bool) (now : Nat) : Nat :=
  if x.st = .faulted then stGroupFaulted
  else if x.st ≠ .active then stBadParam
  else match m with
    | none => stBadParam
    | some m =>
      if m.st = .admitting ∨ m.st = .evicting then stBusy
      else if m.st ≠ .active then stBadParam
      else if activeMembers x ≤ x.minMembers then stMinMembers
      else if m.low.toNat < x.lowWindows ∧ force = false then stNotEligible
      else if nextEvict x now ≠ 0 then stEvictRate
      else stOk

/-- Open chunks that have become complete are completed, in order. -/
def completeReady (g : W32) (s : State) : State :=
  match groupAt s g with
  | none => s
  | some x => (x.opened.filter (isComplete x)).foldl (fun s c => completeChunk g c s) s

/-- An accepted eviction (R185, R188). -/
def evict (g : W32) (n : Node) (abandon : Bool) (now : Nat) (s : State) : State :=
  let s := modGroup g (fun x =>
    let se := x.front + 1
    settleEvicted { modMember n (fun m => { m with st := .evicting, leave := some se, abandon }) x with
      evicted := x.evicted ++ [now] }) s
  if abandon then completeReady g s else s

/-- GROUP_EVICT's action. -/
def evictAct (r : Req) (rep : Reply) (s : State) : State :=
  let g : W32 := fieldLe 32 r.payload 0 4
  let n : Node := fieldLe 16 r.payload 4 2
  match groupAt s g with
  | none => post rep stBadParam [] s
  | some x =>
    if mayManage x r.chan = false then post rep stBadParam [] s
    else
      let m := x.members.find? fun m => m.node == n
      let st := evictStatus x m (r.flags.getLsbD 0 && isAdmin r.chan) r.now
      if st = stOk then post rep stOk (toLe 4 (x.front + 1).toNat) (evict g n (r.flags.getLsbD 1) r.now s)
      else if st = stEvictRate then
        let w := nextEvict x r.now
        let s := codedD 0x7 (shcOf (groupHome s g)) x.pen.toNat n.toNat g.toNat 0 (modGroup g (countGroup 7) s)
        post rep st ([0, 0, 0, 0] ++ toLe 4 w) (groupNotice g 6 n (memberMarks s g n).1 (memberMarks s g n).2 0 0 w s)
      else post rep st [] s

/-- GROUP_EVICT. -/
def execGroupEvict (r : Req) (s : State) : Res := .next (groupCmd cmdGroupEvict 0 r (.groupEvict r) evictAct s)

def cmdGroupAdmit : Cmd := { op := 0x52, p := true, f := true, level := 1, fields := [(0, 4), (4, 2), (6, 1)] }

/-- A node is admitted: its record reused or appended (R187). -/
def admitMember (n : Node) (child : Bool) (x : Group) : Group :=
  let m : Member := { node := n, child, st := .admitting, join := x.front + 1 }
  if x.members.any fun q => q.node == n then { x with members := x.members.map fun q => if q.node = n then m else q }
  else { x with members := x.members ++ [m] }

/-- GROUP_ADMIT's action. -/
def admitAct (r : Req) (rep : Reply) (s : State) : State :=
  let g : W32 := fieldLe 32 r.payload 0 4
  let n : Node := fieldLe 16 r.payload 4 2
  match groupAt s g with
  | none => post rep stBadParam [] s
  | some x =>
    if mayManage x r.chan = false ∨ x.st ≠ .active ∨ 1 < leAt r.payload 6 1 then post rep stBadParam [] s
    else if x.members.any fun m => m.node == n && m.st != .evicted then post rep stBusy [] s
    else if 512 ≤ (x.members.filter fun m => m.st != .evicted).length then post rep stNoSpace [] s
    else post rep stOk (toLe 4 (x.front + 1).toNat) (modGroup g (admitMember n (leAt r.payload 6 1 == 1)) s)

/-- GROUP_ADMIT. -/
def execGroupAdmit (r : Req) (s : State) : Res := .next (groupCmd cmdGroupAdmit 0 r (.groupAdmit r) admitAct s)

def cmdGroupDestroy : Cmd := { op := 0x53, p := true, f := true, level := 1, fields := [(0, 4)] }

/-- Open chunks end with no result: their contributions are over. -/
def dropChunks (cs : List (List Rx)) (s : State) : State := cs.foldl (fun s c => c.foldl (fun s rx => finishEpoch rx.epoch s) s) s

/-- A group begins to be destroyed (R189). -/
def destroyGroup (g : W32) (rep : Option Reply) (s : State) : State :=
  match groupAt s g with
  | none => s
  | some x =>
    modGroup g (fun y => { y with st := .destroying, opened := [], upward := [], waiting := [], reply := rep })
      (dropChunks ((x.opened.map fun c => c.arrived.map (·.1)) ++ x.upward.map (·.2.2.2) ++ x.waiting.map (·.2.2.2.2)) s)

/-- GROUP_DESTROY's action. -/
def destroyAct (r : Req) (rep : Reply) (s : State) : State :=
  let g : W32 := fieldLe 32 r.payload 0 4
  match groupAt s g with
  | none => post rep stBadParam [] s
  | some x =>
    if mayManage x r.chan = false then post rep stBadParam [] s
    else if x.st = .destroying then post rep stBusy [] s
    else destroyGroup g (some rep) s

/-- GROUP_DESTROY. -/
def execGroupDestroy (r : Req) (s : State) : Res := .next (groupCmd cmdGroupDestroy 0 r (.groupDestroy r) destroyAct s)

/-- A result of the group waits to be sent. -/
def resultQueued (s : State) (g : W32) : Bool :=
  let hit (p : Pkt) : Bool := p.op == 0x21 && p.group == g
  (s.sw.voqs.any fun v => v.2.frames.any fun f => match f.body with | .own _ _ p _ => hit p | _ => false)
    || s.pairs.any fun p => p.2.backlog.any fun b => hit b.pkt

/-- GROUP_DESTROY_DONE: the queued results have been sent; slots, record and id are free (R189). -/
def execGroupDestroyDone (g : W32) (s : State) : Res :=
  match groupAt s g with
  | none => .next s
  | some x =>
    if x.st ≠ .destroying ∨ resultQueued s g then .next s
    else
      let s := { s with groups := aErase s.groups g }
      match x.reply with
      | some rep => .next (post rep stOk [] s)
      | none => .next s

/-! ## Score windows (R179 to R181) -/

/-- A member at the end of a score window, and the event of R181, if any. -/
def scoreMember (x : Group) (m : Member) : Member × Option Nat :=
  let bins := (List.range 16).map fun k => satAdd (m.bins.getD k 0) (m.fresh.getD k 0)
  let m := { m with bins, fresh := [] }
  if m.owed = 0 then (m, none)
  else
    let score := 255 * m.ontime / m.owed
    let isLow := decide (score < x.evictThr)
    let low := if isLow then min 255 (m.low.toNat + 1) else 0
    let ev := if isLow then (if low = x.lowWindows then some 2 else if low = 1 then some 1 else none)
      else if 1 ≤ m.low.toNat then some 3 else none
    ({ m with score := BitVec.ofNat 8 score, low := BitVec.ofNat 8 low, owed := 0, ontime := 0 }, ev)

/-- SCORE_WINDOW_END; the timer is stopped while the group's home slot is rebuilt (R16). -/
def execScoreWindowEnd (g : W32) (s : State) : Res :=
  match if slotMoving s (groupSlot g) then none else groupAt s g with
  | none => .next s
  | some x =>
    let ms := x.members.map (scoreMember x)
    let s := modGroup g (fun y => { y with members := ms.map (·.1), seen := [] }) s
    .next (ms.foldl (fun s m => match m.2 with
      | some e => groupNotice g e m.1.node m.1.score.toNat m.1.low.toNat 0 0 0 s
      | none => s) s)

/-! ## Faults (R189, R190) -/

/-- A Reduce Unit's open chunks lose their sums: each is bound to another unit with a free slot, reopened empty, counted
as lost, and noticed. -/
def rebindChunk (g : W32) (c : Chunk) (s : State) : State :=
  match groupAt s g with
  | none => s
  | some x =>
    let (u, s) := takeOne (slotUnits s x c.shed) (dropChunks [c.arrived.map (·.1)] s)
    let new : Chunk := { c with unit := u.getD c.unit, arrived := [], lanes := .empty, sat := false }
    let s := modGroup g (fun y =>
      let rest := y.opened.map fun q => if q.step = c.step ∧ q.index = c.index then new else q
      countGroup 6 { y with opened := rest }) s
    groupNotice g 5 0 0 0 c.step c.index 0 s

/-- R190 for every chunk of a unit. -/
def loseChunks (sh : ShedIx) (u : UnitIx) (s : State) : State :=
  (s.groups.flatMap fun g => (g.2.opened.filter fun c => c.shed = sh ∧ c.unit = u).map fun c => (g.1, c)).foldl
    (fun s gc => rebindChunk gc.1 gc.2 s) s

/-- A reducing Shed is fenced: its groups are Faulted, its open chunks end (R189). -/
def faultGroup (sh : ShedIx) (g : W32) (s : State) : State :=
  match groupAt s g with
  | none => s
  | some x =>
    if x.st ≠ .active ∨ (x.slots.any fun k => k.1.1 = sh) = false then s
    else
      let gone := x.opened.filter fun c => c.shed = sh
      groupNotice g 7 0 0 0 0 0 0 (modGroup g (fun y =>
        let rest := y.opened.filter fun c => ¬ c.shed = sh
        { y with st := .faulted, opened := rest }) (dropChunks (gone.map fun c => c.arrived.map (·.1)) s))

def faultGroups (sh : ShedIx) (s : State) : State := (s.groups.map (·.1)).foldl (fun s g => faultGroup sh g s) s

/-! ## GET_HEALTH of a group (R179, R373) -/

def groupStCode (t : GroupSt) : Nat := match t with | .active => 0 | .faulted => 1 | .destroying => 2
def memberStCode (t : MemberSt) : Nat := match t with | .admitting => 0 | .active => 1 | .evicting => 2 | .evicted => 3

/-- A member's record. -/
def memberRecord (s : State) (c : ChanIx) (m : Member) : List Byte :=
  toLe 2 m.node.toNat ++ [BitVec.ofNat 8 (memberStCode m.st), BitVec.ofNat 8 (bitNat m.child), m.score, m.low, 0, 0]
    ++ toLe 4 m.join.toNat ++ toLe 4 (m.leave.getD 0xFFFFFFFF).toNat
    ++ ((List.range 16).map fun k => toLe 4 (coarsen s c (m.bins.getD k 0).toNat)).flatten

/-- The group report. -/
def groupReport (s : State) (c : ChanIx) (g : W32) (x : Group) (now : Nat) : List Byte :=
  toLe 4 g.toNat ++ [BitVec.ofNat 8 (groupStCode x.st), BitVec.ofNat 8 (bitNat (parentOf s g x != 0))]
    ++ toLe 2 (activeMembers x) ++ toLe 4 x.front.toNat
    ++ (x.cnt.map fun v => toLe 4 (coarsen s c v.toNat)).flatten
    ++ toLe 4 (nextEvict x now) ++ List.replicate 16 0 ++ (x.members.map (memberRecord s c)).flatten

/-- GET_HEALTH selector 2's action. -/
def healthAct (r : Req) (rep : Reply) (s : State) : State :=
  let g : W32 := fieldLe 32 r.payload 4 4
  match groupAt s g with
  | none => post rep stNotFound [] s
  | some x =>
    let rpt := groupReport s r.chan g x r.now
    if outTooShort r rpt then tooShort rep rpt.length s else answerOut rep r rpt (toLe 4 rpt.length) s

/-- GET_HEALTH selector 2. -/
def execGetHealthGroup (r : Req) (s : State) : Res := .next (groupCmd (cmdGetHealth 2) 4 r (.getHealthGroup r) healthAct s)

end Sys2Proof.Machine
end

