-- ==== Sys2Proof/Machine/Match.lean ====
section
/-! DEFINITION. The Match Table (R211 to R220) and sessions (R221 to R224): searches, insertion, repair, and their
commands (R341). -/

namespace Sys2Proof.Machine

/-! ## Banks, partitions, rows -/

abbrev RowAt := Fin 16 × Nat

def bank (s : State) (sh : ShedIx) : Bank := aGetD s.work.banks sh {}
def modBank (sh : ShedIx) (f : Bank → Bank) (s : State) : State :=
  { s with work := { s.work with banks := aMod s.work.banks sh {} f } }

def mpart (s : State) (p : Fin 16) : MPart := aGetD s.work.parts p {}
/-- The rows of a partition in a bank. -/
def partRows (s : State) (p : Fin 16) : Nat := 16 * (mpart s p).rows16
/-- The first row of a partition: those of the lower partitions come before it (MTB_PART.BASE16). -/
def partBase (s : State) (p : Fin 16) : Nat := ((List.range p.val).map fun i => partRows s (Fin.ofNat 16 i)).sum

/-- The partition and index of a row number of a bank. -/
def rowAt (s : State) (r : Nat) : Option RowAt :=
  ((List.range 16).map (Fin.ofNat 16)).findSome? fun p =>
    if partBase s p ≤ r ∧ r < partBase s p + partRows s p then some (p, r - partBase s p) else none

/-- A row can take an entry: it is in its partition, not valid, not awaiting a rewrite, not out of use. -/
def rowFree (s : State) (sh : ShedIx) (a : RowAt) : Bool :=
  let b := bank s sh
  decide (a.2 < partRows s a.1) && (aGet b.rows a).isNone && (aGet b.owed a).isNone && !b.dead.contains a

/-- The free rows of a partition in a bank, in ascending order. -/
def freeRows (s : State) (sh : ShedIx) (p : Fin 16) : List Nat := (List.range (partRows s p)).filter fun i => rowFree s sh (p, i)

/-- Bytes 0 to 55 of a valid row (R212). -/
def rowImage (r : MRow) : List Byte :=
  toLe 20 r.key.toNat ++ toLe 20 r.mask.toNat ++ toLe 2 r.prio.toNat ++ toLe 2 (r.pen.toNat * 16 + r.part.val) ++ [1, 0, 0, 0]
    ++ toLe 8 r.result.toNat

/-- CHECK of a row: bit i is the parity of bits i, i + 32, i + 64 and so on (R212). -/
def rowCheck (r : MRow) : BitVec 32 := (List.range 14).foldl (fun c i => c ^^^ fieldLe 32 (rowImage r) (4 * i) 4) 0

/-- A row as it is written: with its CHECK. -/
def checkedRow (r : MRow) : MRow := { r with check := rowCheck r }

/-- A row passes its check. -/
def rowOk (r : MRow) : Bool := r.check == rowCheck r

def setRow (sh : ShedIx) (a : RowAt) (r : MRow) (s : State) : State := modBank sh (fun b => { b with rows := aSet b.rows a r }) s
/-- An entry is written into a row. -/
def putRow (sh : ShedIx) (a : RowAt) (r : MRow) (s : State) : State := setRow sh a (checkedRow r) s
def dropRow (sh : ShedIx) (a : RowAt) (s : State) : State := modBank sh (fun b => { b with rows := aErase b.rows a }) s

/-- The banks that can hold rows: those of Sheds whose SHC island runs. -/
def liveBanks (s : State) : List ShedIx := allSheds.filter fun sh => islRunning s (shcOf sh)

/-- The bank of an exact entry (R214): CRC-32C of the two PEN bytes and the KEY bytes as stored. -/
def exactHash (p : BitVec 12) (part : Fin 16) (key : BitVec 160) : Nat :=
  (crc32c (toLe 2 (p.toNat * 16 + part.val) ++ toLe 20 key.toNat)).toNat % 4
def exactBank (s : State) (p : BitVec 12) (part : Fin 16) (key : BitVec 160) : ShedIx :=
  homeMap s (Fin.ofNat 4 (exactHash p part key))

/-- A bit of MTB_EVT (block 0x38_0000); the event names the entry's Pen. -/
def setMtbEvt (bit pen : Nat) (sh : ShedIx) (s : State) : State :=
  evtBitD (shedBase sh + 0x380000 + 0x14) bit (shcOf sh) pen 0 0 0 (modBank sh (fun b => { b with evt := orBit b.evt bit }) s)

/-! ## Searches (R213, R214, R218, R219) -/

/-- A row matches a search. -/
def rowMatches (r : MRow) (part : Fin 16) (p : BitVec 12) (key : BitVec 160) : Bool :=
  r.part == part && r.pen == p && (r.key ^^^ key) &&& r.mask == 0

/-- A better match within a bank: the higher PRIO, then the lower row number. -/
def betterRow (a b : RowAt × MRow) : Bool :=
  decide (b.2.prio.toNat < a.2.prio.toNat) || (a.2.prio == b.2.prio && decide (a.1.2 < b.1.2))

/-- A bank's matching row. -/
def bankMatch (s : State) (sh : ShedIx) (part : Fin 16) (p : BitVec 12) (key : BitVec 160) : Option (RowAt × MRow) :=
  ((bank s sh).rows.filter fun r => rowMatches r.2 part p key).foldl (fun b r => match b with
    | none => some r
    | some q => if betterRow r q then some r else b) none

/-- A row fails its check: it is invalidated and counted, and the Keeper owes its entry (R219). -/
def rowFails (sh : ShedIx) (a : RowAt) (s : State) : State :=
  match aGet (bank s sh).rows a with
  | none => s
  | some r => setMtbEvt 0 r.pen.toNat sh (modBank sh (fun b => { b with
      rows := aErase b.rows a, owed := aSet b.owed a r, chk := satInc b.chk }) s)

/-- A search of one bank: its match, counted. In mode 1 the winning row is verified, and a corrupt one is invalidated and
the search made once more without it. -/
def searchBank (sh : ShedIx) (part : Fin 16) (p : BitVec 12) (key : BitVec 160) (corrupt : List (ShedIx × Nat)) (s : State) :
    Option (RowAt × MRow) × State :=
  let s := modBank sh (fun b => { b with srch := satInc b.srch }) s
  let first := bankMatch s sh part p key
  let bad := match first with
    | some r => (bank s sh).mode && (!rowOk r.2 || corrupt.contains (sh, partBase s part + r.1.2))
    | none => false
  let s := match first with
    | some r => if bad then rowFails sh r.1 s else s
    | none => s
  match (if bad then bankMatch s sh part p key else first) with
  | none => (none, s)
  | some r =>
    let row : MRow := { r.2 with hits := satInc r.2.hits }
    (some r, modBank sh (fun b => { b with hit := satInc b.hit, rows := aSet b.rows r.1 row }) s)

/-- A search over several banks: the highest PRIO, then the lowest Shed. -/
def searchBanks (part : Fin 16) (p : BitVec 12) (key : BitVec 160) (corrupt : List (ShedIx × Nat)) :
    List ShedIx → State → Option MRow × State
  | [], s => (none, s)
  | sh :: shs, s =>
    let (a, s) := searchBank sh part p key corrupt s
    let (b, s) := searchBanks part p key corrupt shs s
    match a, b with
    | some x, some y => (if x.2.prio.toNat < y.prio.toNat then some y else some x.2, s)
    | some x, none => (some x.2, s)
    | none, y => (y, s)

/-- An exact search waits while the bank's entries, lost with a fenced Shed, have not been rewritten (R220). -/
def searchWaits (s : State) (part : Fin 16) (p : BitVec 12) (key : BitVec 160) : Bool :=
  (mpart s part).kind == 1 && allSheds.any fun sh => (bank s sh).lost.any fun r =>
    r.part == part && exactHash p part key == exactHash r.pen r.part r.key

/-- MATCH_SEARCH: the winning row of a partition. -/
def matchSearch (part : Fin 16) (p : BitVec 12) (key : BitVec 160) (corrupt : List (ShedIx × Nat)) (s : State) :
    Option MRow × State :=
  searchBanks part p key corrupt (if (mpart s part).kind = 1 then [exactBank s p part key] else liveBanks s) s

/-! ## Insertion (R216) -/

/-- The banks with the most free rows of a partition, where one has any (R216). -/
def roomiest (s : State) (part : Fin 16) : List ShedIx :=
  mostBy (fun sh => (freeRows s sh part).length) ((liveBanks s).filter fun sh => !(freeRows s sh part).isEmpty)

/-- The index after the last row whose entry, in it or owed to it, has a PRIO at or above one. -/
def insertAt (s : State) (sh : ShedIx) (part : Fin 16) (prio : BitVec 16) : Nat :=
  let above (l : Assoc RowAt MRow) : List Nat :=
    (l.filter fun r => r.1.1 == part && decide (prio.toNat ≤ r.2.prio.toNat)).map fun r => r.1.2 + 1
  (above (bank s sh).rows ++ above (bank s sh).owed).foldl max 0

/-- What stands in a row, or is owed to it, moves to another row of its partition. -/
def moveRow (sh : ShedIx) (part : Fin 16) (src dst : Nat) (s : State) : State :=
  let move (l : Assoc RowAt MRow) : Assoc RowAt MRow :=
    match aGet l (part, src) with | some r => aErase (aSet l (part, dst) r) (part, src) | none => l
  modBank sh (fun b => { b with rows := move b.rows, owed := move b.owed }) s

/-- The rows in use from one index to another, both included. -/
def rowsFrom (s : State) (sh : ShedIx) (part : Fin 16) (lo hi : Nat) : List Nat :=
  (List.range (hi + 1)).filter fun i => decide (lo ≤ i) && !(bank s sh).dead.contains (part, i)

/-- What stands in each row of a list moves to the row before it in the list; the first is free. -/
def slideRows (sh : ShedIx) (part : Fin 16) : List Nat → State → State
  | a :: b :: l, s => slideRows sh part (b :: l) (moveRow sh part b a s)
  | _, s => s

/-- The entries from an index up to a free row move one row toward it: the row that this frees. -/
def openRow (sh : ShedIx) (part : Fin 16) (i free : Nat) (s : State) : Nat × State :=
  let l := if i ≤ free then (rowsFrom s sh part i free).reverse else rowsFrom s sh part free (i - 1)
  (l.getLast?.getD free, slideRows sh part l s)

/-- The free rows nearest to an index, on either side. -/
def nearestFree (fs : List Nat) (i : Nat) : List Nat :=
  leastBy (fun f => f - i + (i - f)) ((fs.find? fun f => i ≤ f).toList ++ ((fs.filter fun f => f < i).getLast?).toList)

/-- An entry is put before the row of an index, in a bank that has a free row of the partition; where it then stands. -/
def insertBefore (sh : ShedIx) (r : MRow) (i : Nat) (s : State) : Nat × State :=
  match takeOne (nearestFree (freeRows s sh r.part) i) s with
  | (none, s) => (i, s)
  | (some f, s) =>
    let (at_, s) := openRow sh r.part i f s
    (at_, putRow sh (r.part, at_) r s)

/-- A ternary entry is inserted into a bank that has a free row of the partition. -/
def insertIn (sh : ShedIx) (r : MRow) (s : State) : State := (insertBefore sh r (insertAt s sh r.part r.prio) s).2

/-- An entry is inserted, where its bank, or any for a ternary one, has a free row: which row an exact entry takes is
free. -/
def insertRow (r : MRow) (s : State) : Option State :=
  if (mpart s r.part).kind = 1 then
    let sh := exactBank s r.pen r.part r.key
    match takeOne (freeRows s sh r.part) s with
    | (some i, s) => some (putRow sh (r.part, i) r s)
    | (none, _) => none
  else
    match takeOne (roomiest s r.part) s with
    | (some sh, s) => some (insertIn sh r s)
    | (none, _) => none

/-- The valid rows of a Pen (R355): what the Keeper owes to a row is no valid row. -/
def penRows (s : State) (p : BitVec 12) : Nat := (s.work.banks.map fun b => (b.2.rows.filter fun r => r.2.pen == p).length).sum

/-- A row that a test accepts: its bank and place. -/
def findRow (s : State) (f : MRow → Bool) : Option (ShedIx × RowAt × MRow) :=
  s.work.banks.findSome? fun b => (b.2.rows.find? fun r => f r.2).map fun r => (b.1, r.1, r.2)

/-- MATCH_HOLE_RESTORE: a group of 16 rows of a ternary partition with no free row gets its hole back from the nearest
free row (R216); a hole interval of 0 keeps no holes. -/
def execMatchHoleRestore (sh : ShedIx) (part : Fin 16) (group : Nat) (s : State) : Res :=
  let n := effective s 0x20700
  let fs := freeRows s sh part
  let hole := n * group + (n - 1)
  if (mpart s part).kind ≠ 2 ∨ n = 0 ∨ partRows s part ≤ hole ∨ fs.any (fun f => decide (n * group ≤ f ∧ f ≤ hole)) then .next s
  else match takeOne (nearestFree fs hole) s with
    | (none, s) => .next s
    | (some f, s) => .next (openRow sh part (if hole < f then hole else hole + 1) f s).2

/-! ## MATCH_TABLE_LOAD (R217) -/

def cmdMatchLoad (r : Req) : Cmd :=
  { op := 0x62, p := true, level := 1, fields := [(0, 4)], blen := fun n => n == 80 * leAt r.payload 0 4 }

/-- The row image of an operation. -/
def opRow (o : List Byte) (part : Fin 16) : MRow :=
  { key := fieldLe 160 o 16 20, mask := fieldLe 160 o 36 20, prio := fieldLe 16 o 56 2, pen := BitVec.ofNat 12 (leAt o 58 2 / 16),
    part, result := fieldLe 64 o 64 8 }

/-- The (Pen, key) of an exact entry is present in its partition, or owed to it. -/
def exactPresent (s : State) (r : MRow) : Bool :=
  let same (q : MRow) : Bool := q.part == r.part && q.pen == r.pen && q.key == r.key
  s.work.banks.any fun b => b.2.rows.any (fun q => same q.2) || b.2.owed.any (fun q => same q.2) || b.2.lost.any same

/-- INSERT. -/
def loadInsert (r : MRow) (s : State) : Nat × State :=
  let exact := (mpart s r.part).kind == 1
  if (mpart s r.part).kind = 0 ∨ (exact ∧ r.mask ≠ BitVec.allOnes 160) then (stBadParam, s)
  else if exact ∧ exactPresent s r then (stBusy, s)
  else if underQuota (pen s r.pen).qMatch (penRows s r.pen) = false then (stNoSpace, s)
  else match insertRow r s with
    | some s => (stOk, s)
    | none => (stNoSpace, s)

/-- An entry that the Keeper owes to a failed row, or to the banks after the loss of one (R219, R220). -/
def findOwed (s : State) (f : MRow → Bool) : Option MRow :=
  s.work.banks.findSome? fun b => ((b.2.owed.map (·.2)) ++ b.2.lost).find? f

/-- The Keeper's shadow copy no longer holds the entries that a test accepts. -/
def dropOwed (f : MRow → Bool) (s : State) : State :=
  { s with work := { s.work with banks := s.work.banks.map fun b =>
    (b.1, { b.2 with owed := b.2.owed.filter fun q => !f q.2, lost := b.2.lost.filter fun q => !f q }) } }

/-- DELETE. An entry that the Keeper owes is dropped from its shadow copy. -/
def loadDelete (r : MRow) (s : State) : Nat × State :=
  let same (q : MRow) : Bool := q.part == r.part && q.pen == r.pen && q.key == r.key && q.mask == r.mask && q.prio == r.prio
  match findRow s same with
  | some (sh, a, _) => (stOk, dropRow sh a s)
  | none => if (findOwed s same).isSome then (stOk, dropOwed same s) else (stNotFound, s)

/-- The new entry of a REPLACE is written into a free row of the old row's bank, in a ternary partition before the old
row where its PRIO allows, then the old row is invalidated. -/
def replaceRow (sh : ShedIx) (a : RowAt) (old r : MRow) (s : State) : State :=
  if (mpart s r.part).kind = 1 then
    match takeOne (freeRows s sh r.part) s with
    | (some i, s) => dropRow sh a (putRow sh (r.part, i) r s)
    | (none, s) => s
  else
    let (i, s) := insertBefore sh r (if old.prio = r.prio then a.2 else insertAt s sh r.part r.prio) s
    match (bank s sh).rows.find? fun q => q.2 == old && q.1 != (r.part, i) with
    | some q => dropRow sh q.1 s
    | none => s

/-- REPLACE. An entry that the Keeper owes is replaced in its shadow copy, and inserted anew. -/
def loadReplace (r : MRow) (s : State) : Nat × State :=
  let same (q : MRow) : Bool := q.part == r.part && q.pen == r.pen && q.key == r.key && q.mask == r.mask
  match findRow s same with
  | some (sh, a, old) => if (freeRows s sh r.part).isEmpty then (stNoSpace, s) else (stOk, replaceRow sh a old r s)
  | none =>
    if (findOwed s same).isNone then (stNotFound, s)
    else match insertRow r (dropOwed same s) with
      | some s => (stOk, s)
      | none => (stNoSpace, s)

/-- The rows per bank of all partitions with one of them redefined. -/
def totalRows (s : State) (part : Fin 16) (rows : Nat) : Nat :=
  ((List.range 16).map fun i => if i = part.val then rows else partRows s (Fin.ofNat 16 i)).sum

/-- DEFINE (R211): the definition takes effect and enters the journal. -/
def loadDefine (c : ChanIx) (o : List Byte) (part : Fin 16) (s : State) : Nat × State :=
  let kind := leAt o 2 2
  let rows := leAt o 4 4
  if isAdmin c = false ∨ 2 < kind ∨ rows % 16 ≠ 0 ∨ 65536 < totalRows s part rows then (stBadParam, s)
  else if s.work.banks.any fun b => b.2.rows.any (fun r => r.1.1 == part) || b.2.owed.any (fun r => r.1.1 == part)
      || b.2.lost.any (fun r => r.part == part) then (stBusy, s)
  else
    let d : MPart := { kind := BitVec.ofNat 2 kind, rows16 := rows / 16 }
    (stOk, logConfig (journalAppend (BitVec.ofNat 32 (0x20710 + part.val)) ([BitVec.ofNat 8 kind, 0, 0, 0] ++ toLe 4 rows)
      { s with work := { s.work with parts := aSet s.work.parts part d } }))

/-- One operation: its status. Partition 0 is written only by Keeper firmware; a Pen's channel writes only its Pen's
rows. -/
def loadOp (r : Req) (o : List Byte) (s : State) : Nat × State :=
  let part : Fin 16 := Fin.ofNat 16 (leAt o 1 1)
  let row := opRow o part
  let foreign : Bool := callerClass s r.chan == .pen && row.pen != (chan s r.chan).pen
  let op := leAt o 0 1
  if 15 < leAt o 1 1 ∨ op = 0 ∨ 4 < op then (stBadParam, s)
  else if op = 4 then loadDefine r.chan o part s
  else if part = 0 ∨ foreign then (stBadParam, s)
  else if op = 1 then loadInsert row s
  else if op = 2 then loadDelete row s
  else loadReplace row s

/-- Operations in order up to the first that fails: how many were applied, and its status. -/
def loadOps (r : Req) : List (List Byte) → Nat → State → Nat × Nat × State
  | [], n, s => (n, stOk, s)
  | o :: os, n, s =>
    let (st, s') := loadOp r o s
    if st = stOk then loadOps r os (n + 1) s' else (n, st, s)

/-- The operations of a load's buffer. -/
def loadList (s : State) (r : Req) : List (List Byte) :=
  (List.range (leAt r.payload 0 4)).map fun i => ((inBuf s r).drop (80 * i)).take 80

/-- MATCH_TABLE_LOAD. -/
def execMatchTableLoad (r : Req) (s : State) : Res :=
  .next (mbx (cmdMatchLoad r) true r (fun rep s =>
    let n := leAt r.payload 0 4
    let ops := loadList s r
    if n = 0 ∨ 1024 < n then post rep stBadParam [] s
    else if s.jnl.nvLock ∧ ops.any (fun o => leAt o 0 1 == 4) then nvLocked rep s
    else
      let (k, st, s) := loadOps r ops 0 s
      post rep st (toLe 4 k ++ toLe 2 st) s) s)

/-! ## Protection (R218 to R220) -/

/-- MATCH_PARITY_SCAN: the bank checks its next row, in mode 0 (R218). `ok`: the row has lost no bit since it was written. -/
def execMatchParityScan (sh : ShedIx) (ok : Bool) (s : State) : Res :=
  let b := bank s sh
  if islRunning s (shcOf sh) = false ∨ b.mode then .next s
  else
    let s' := modBank sh (fun q => { q with scan := (q.scan + 1) % 67584 }) s
    match rowAt s b.scan with
    | some a => if ok ∧ (aGet b.rows a).all rowOk then .next s' else .next (rowFails sh a s')
    | none => .next s'

/-- An owed entry goes back into a row. -/
def restoreRow (sh : ShedIx) (a : RowAt) (r : MRow) (s : State) : State :=
  putRow sh a { r with hits := 0 } (modBank sh (fun b => { b with owed := aErase b.owed a }) s)

/-- A row has failed before within 24 hours of the SHC island counter (R219). -/
def failsAgain (s : State) (sh : ShedIx) (a : RowAt) (failed : Nat) : Bool :=
  match aGet (bank s sh).failedAt a with | some t => decide (failed < t + 86400 * 10 ^ 9) | none => false

/-- An entry has moved onto a spare row: fewer than 10 % of a Shed's 2,048 left is a wear warning (R386). -/
def spareRow (sh : ShedIx) (row : Nat) (a : RowAt) (s : State) : State :=
  let was := decide (10 * (2048 - (bank s sh).spared.length) < 2048)
  let s := modBank sh (fun b => { b with spared := b.spared ++ [a] }) s
  if was = false ∧ 10 * (2048 - (bank s sh).spared.length) < 2048 then codedD 0xC (shcOf sh) 0 0 row 0 s else s

/-- MATCH_ROW_REWRITE: the Keeper rewrites the entry of a row that failed at a time. One that has failed twice within 24 hours
is mapped onto a spare row, or taken out of use when none is left (R219). It waits for the Keeper (R349). -/
def execMatchRowRewrite (sh : ShedIx) (row failed : Nat) (s : State) : Res :=
  match if s.kpr.state = .running then rowAt s row else none with
  | none => .next s
  | some a =>
    match aGet (bank s sh).owed a with
    | none => .next s
    | some r =>
      let again := failsAgain s sh a failed
      let s := modBank sh (fun b => { b with failedAt := if again then aErase b.failedAt a else aSet b.failedAt a failed }) s
      if again = false then .next (restoreRow sh a r s)
      else if (bank s sh).spared.length < 2048 then
        .next (setMtbEvt 1 r.pen.toNat sh (spareRow sh row a (restoreRow sh a r s)))
      else
        let s := modBank sh (fun b => { b with owed := aErase b.owed a, dead := b.dead ++ [a] }) s
        .next ((insertRow { r with hits := 0 } s).getD s)

/-- A Shed's SHC island is fenced: its bank's entries are lost, and the Keeper has them in its shadow copy (R220). -/
def loseBank (sh : ShedIx) (s : State) : State :=
  modBank sh (fun b => { b with rows := [], owed := [], failedAt := [], spared := [], dead := [],
                                lost := b.lost ++ b.rows.map (·.2) ++ b.owed.map (·.2) }) s

/-- Entries by PRIO, the highest first. -/
def byPrio (rs : List MRow) : List MRow := rs.mergeSort fun a b => decide (b.prio.toNat ≤ a.prio.toNat)

/-- An entry that does not fit is dropped: an event and a notice (R220). -/
def dropEntry (sh : ShedIx) (r : MRow) (s : State) : State :=
  penNotice r.pen 7 (toLe 2 r.pen.toNat ++ [BitVec.ofNat 8 r.part.val, 0] ++ toLe 20 r.key.toNat ++ toLe 2 r.prio.toNat)
    (setMtbEvt 2 r.pen.toNat sh s)

/-- A lost bank's entries are rewritten: exact ones into the banks that home_map names now, ternary ones into the remaining
banks, the highest PRIO first. -/
def rewriteBank (sh : ShedIx) (s : State) : State :=
  let rs := (bank s sh).lost
  let s := modBank sh (fun b => { b with lost := [] }) s
  (byPrio rs).foldl (fun s r =>
    match insertRow { r with hits := 0 } s with
    | some s => s
    | none => dropEntry sh r s) s

/-! ## Sessions (R221 to R225) -/

def sessionAt (s : State) (slot : Nat) : Option Session := aGet s.work.sessions slot
def modSession (slot : Nat) (f : Session → Session) (s : State) : State :=
  { s with work := { s.work with sessions := aAdjust s.work.sessions slot f } }

/-- A session id (R221). -/
def sessionId (slot : Nat) (x : Session) : W32 := BitVec.ofNat 32 (slot + x.gen * 2 ^ 21)

/-- The slot of an Active session that an id names. -/
def activeSession (s : State) (id : W32) : Option Nat :=
  let slot := id.toNat % 2 ^ 21
  match sessionAt s slot with
  | some x => if x.gen = id.toNat / 2 ^ 21 ∧ x.deleting = false then some slot else none
  | none => none

/-- FLAGS of the record: KEYED and COUNT. -/
def isKeyed (x : Session) : Bool := (x.image.getD 6 0).getLsbD 0
def isCounted (x : Session) : Bool := (x.image.getD 6 0).getLsbD 1
/-- The lookup key of a session: its 16 KEY bytes and 4 zero bytes. -/
def sessionKey (image : List Byte) : BitVec 160 := fieldLe 160 ((image.drop 48).take 16 ++ [0, 0, 0, 0]) 0 20

/-- The 128 B record (R222); counters for a Pen's channel are coarsened by the caller. -/
def sessionRecord (slot : Nat) (x : Session) : List Byte :=
  toLe 4 (sessionId slot x).toNat ++ toLe 2 (x.pen.toNat * 16 + if x.deleting then 2 else 1) ++ (x.image.drop 6).take 58
    ++ toLe 8 x.gatherBytes.toNat ++ toLe 8 x.filterRecords.toNat ++ toLe 4 x.requests.toNat ++ toLe 4 x.lastStep.toNat
    ++ (x.image.drop 88).take 40

/-- A block of the session area as it is stored (R221, R359): 32 records, a free slot's all zero. -/
def sessionsStored (s : State) (blk : Nat) : Option (List Byte) :=
  areaStored s 1 blk ((List.range 32).flatMap fun i => match sessionAt s (32 * blk + i) with
    | some x => sessionRecord (32 * blk + i) x
    | none => List.replicate 128 0)

/-- The next generation of a slot; it skips 0. -/
def nextGen (g : Nat) : Nat := if 2047 ≤ g then 1 else g + 1

def cmdSessionInsert : Cmd := { op := 0x60, p := true, level := 2, fields := [(0, 128)] }

/-- Session records of a Pen, Active or Deleting (R355). -/
def penSessions (s : State) (p : BitVec 12) : Nat := (s.work.sessions.filter fun x => x.2.pen == p).length

/-- The lowest free slot. -/
def freeSession (s : State) : Option Nat :=
  (List.range (min 2097152 (s.work.sessions.length + 1))).find? fun i => (sessionAt s i).isNone

/-- SESSION_INSERT's action (R223). -/
def sessionInsert (r : Req) (rep : Reply) (s : State) : State :=
  let p := actingPen s r
  let keyed := (r.payload.getD 6 0).getLsbD 0
  match freeSession s with
  | none => post rep stNoSpace [] s
  | some slot =>
    let gen := nextGen (aGetD s.work.sessGen slot 0)
    let x : Session := { gen, pen := p, image := r.payload.take 128 }
    let row : MRow := { key := sessionKey r.payload, mask := BitVec.allOnes 160, prio := 0, pen := p, part := 1,
                        result := (sessionId slot x).setWidth 64 }
    let done (s : State) : State := post rep stOk (toLe 4 (sessionId slot x).toNat)
      { s with work := { s.work with sessions := aSet s.work.sessions slot x, sessGen := aSet s.work.sessGen slot gen } }
    if underQuota (pen s p).qSessions (penSessions s p) = false then post rep stNoSpace [] s
    else if keyed = false then done s
    else if exactPresent s row then post rep stBusy [] s
    else match insertRow row s with
      | some s => done s
      | none => post rep stNoSpace [] s

/-- The lowest free session slot's home slot (R221). -/
def freeSessionHome (s : State) : Fin 4 := Fin.ofNat 4 ((freeSession s).getD 0)

/-- SESSION_INSERT. -/
def execSessionInsert (r : Req) (s : State) : Res :=
  .next (mbx cmdSessionInsert false r (fun rep s => awaitHome [freeSessionHome s] (.sessionInsert r) rep (sessionInsert r rep) s) s)

def cmdSessionDelete : Cmd := { op := 0x61, p := true, level := 2, fields := [(0, 4)] }

/-- The key entry of a session is invalidated. -/
def dropSessionKey (x : Session) (s : State) : State :=
  if isKeyed x then
    match findRow s (fun q => q.part == 1 && q.pen == x.pen && q.key == sessionKey x.image) with
    | some (sh, a, _) => dropRow sh a s
    | none => dropOwed (fun q => q.part == 1 && q.pen == x.pen && q.key == sessionKey x.image) s
  else s

/-- SESSION_DELETE's action: step 1 of R224; the response waits for SESSION_DELETE_DONE. -/
def sessionDelete (r : Req) (rep : Reply) (s : State) : State :=
  match activeSession s (fieldLe 32 r.payload 0 4) with
  | none => post rep stNotFound [] s
  | some slot =>
    match sessionAt s slot with
    | none => post rep stNotFound [] s
    | some x =>
      if isAdmin r.chan = false ∧ x.pen ≠ actingPen s r then post rep stNotFound [] s
      else modSession slot (fun q => { q with deleting := true, reply := some rep }) (dropSessionKey x s)

/-- SESSION_DELETE. -/
def execSessionDelete (r : Req) (s : State) : Res :=
  .next (mbx cmdSessionDelete false r (fun rep s =>
    awaitHome [Fin.ofNat 4 (leAt r.payload 0 4)] (.sessionDelete r) rep (sessionDelete r rep) s) s)

/-- A gather or filter has passed the session check of a slot and has not ended. -/
def sessionBusy (s : State) (slot : Nat) : Bool := s.work.reqs.any fun q => q.sess == some slot

/-- SESSION_DELETE_DONE: once the requests that passed the check have ended, the record is zeroed and its slot free. -/
def execSessionDeleteDone (id : W32) (s : State) : Res :=
  let slot := id.toNat % 2 ^ 21
  match sessionAt s slot with
  | none => .next s
  | some x =>
    if x.deleting = false ∨ (pen s x.pen).state = .closing ∨ (pen s x.pen).state = .quarantine ∨ slotMoving s (Fin.ofNat 4 slot) ∨ sessionId slot x ≠ id ∨ sessionBusy s slot then .next s
    else
      let s := { s with work := { s.work with sessions := aErase s.work.sessions slot } }
      match x.reply with
      | some rep => .next (post rep stOk [] s)
      | none => .next s

end Sys2Proof.Machine
end

