-- ==== Sys2Proof/Machine/Regions.lean ====
section
/-! DEFINITION. Regions, versions and publications (R110 to R121), handles (R119, R122), Stream Windows and staged images
(R58 to R60). -/

namespace Sys2Proof.Machine

/-! ## Who still uses a handle or a version (R112, R113, R119) -/

/-- A request that passed station 8 under a handle has not finished. -/
def handleBusy (s : State) (h : W32) : Bool :=
  s.pool.jobs.any (fun j => j.handle == h) || s.work.reqs.any fun q => q.handle == h

/-- A version is open: a handle to it is open. -/
def versionOpen (s : State) (p : BitVec 12) (r v : W32) : Bool :=
  s.share.handles.any fun x => x.2.isOpen && x.2.rpen == p && x.2.region == r && x.2.version == v

/-- A version is held: a handle to it is open, or a request under one has not finished. -/
def versionHeld (s : State) (p : BitVec 12) (r v : W32) : Bool :=
  s.share.handles.any fun x => x.2.rpen == p && x.2.region == r && x.2.version == v && (x.2.isOpen || handleBusy s x.1)

/-- The version is the latest of a region that is not retired. -/
def isLatest (r : Region) (v : W32) : Bool := r.latest == v && !r.retired

/-! ## Freeing a version (R113, R114, R120, R121) -/

def modRegion (p : BitVec 12) (r : W32) (f : Region → Region) (s : State) : State :=
  { s with share := { s.share with regions := aAdjust s.share.regions (p, r) f } }

/-- The extents that a map names, each once. -/
def mapExtents (m : Assoc Nat Nat) : List (BitVec 35) := (m.map fun x => BitVec.ofNat 35 (x.2 / 512)).eraseDups

/-- The bytes of a version's map (R111). -/
def mapSize (r : Region) : Nat := r.size * 4096

/-- A version is freed: its map's room returns, extents that no live version names any more are freed, and a retired
region without versions is deleted. -/
def freeVersion (p : BitVec 12) (r v : W32) (s : State) : State :=
  match regionAt s p r with
  | none => s
  | some q =>
    match aGet q.versions v with
    | none => s
    | some m =>
      let s := modRegion p r (fun q => { q with versions := aErase q.versions v }) (ctlGive (mapSize q) s)
      let s := (mapExtents m).foldl (fun s e =>
        let k : ExtKey := (p, e)
        if (extAt s k).v ∧ (extAt s k).cls = .sealed ∧ sealedRefs s k = 0 then freeExtent k s else s) s
      match regionAt s p r with
      | some q => if q.retired ∧ q.versions.isEmpty then
          { s with share := { s.share with regions := aErase s.share.regions (p, r) } } else s
      | none => s

/-- A version that is no longer the latest, or whose region is retired, is freed unless it is held. -/
def dropVersion (p : BitVec 12) (r v : W32) (s : State) : State :=
  match regionAt s p r with
  | some q => if isLatest q v = false ∧ versionHeld s p r v = false then freeVersion p r v s else s
  | none => s

/-- The home slot of a region (R110). -/
def regionSlot (p : BitVec 12) (r : W32) : Fin 4 := Fin.ofNat 4 (p.toNat + r.toNat)

/-- VERSION_FREE: the last handle of a Held version has closed and its requests have finished. -/
def execVersionFree (p : BitVec 12) (r v : W32) (s : State) : Res :=
  if slotMoving s (regionSlot p r) then .next s else .next (dropVersion p r v s)

/-! ## Publications (R110, R114 to R118) -/

/-- The lists of REGION_CREATE and REGION_PUBLISH: drafts, then changes as logical block and Pool Address. -/
def draftCount (r : Req) : Nat := leAt r.payload 8 2
def changeCount (r : Req) : Nat := leAt r.payload 12 4
def draftAddrs (s : State) (r : Req) : List Nat := (slices (inBuf s r) 0 8 (draftCount r)).map fun b => leAt b 0 8
def changeList (s : State) (r : Req) : List (Nat × Nat) :=
  (slices (inBuf s r) (8 * draftCount r) 16 (changeCount r)).map fun b => (leAt b 0 4, leAt b 8 8)

/-- A draft is named by another publication or creation in progress. -/
def draftTaken (s : State) (p : BitVec 12) (e : BitVec 35) : Bool :=
  s.share.pubs.any fun q => q.started && q.pen == p && q.drafts.contains e

/-- Check 4 of R115 for one draft. -/
def draftVerdict (s : State) (p : BitVec 12) (e : BitVec 35) : Nat :=
  let x := extAt s (p, e)
  if x.v = false then stNotFound
  else if x.cls ≠ .ordinary ∨ x.tier = .lent then stClassMismatch
  else if x.st ≠ .resident ∨ draftTaken s p e then stBusy
  else stOk

/-- Check 5 of R115. -/
def changesOk (size : Nat) (drafts : List (BitVec 35)) (cs : List (Nat × Nat)) : Bool :=
  distinctBy (·.1) cs && cs.all fun c =>
    decide (c.1 < 512 * size) && c.2 % 4096 == 0 && decide (c.2 < 2 ^ 56) && drafts.contains (BitVec.ofNat 35 (c.2 / 2 ^ 21))

/-- Checks 4 to 6 of R115 on a publication's drafts and changes. DESIGN CHOICE (log entry 87): where several drafts fail
check 4 differently, an address outside the address space decides, else the first that fails in the order of the list. -/
def listsVerdict (s : State) (q : Pub) (size : Nat) : Nat :=
  if q.beyond then stNotFound
  else match (q.drafts.map (draftVerdict s q.pen)).find? (· ≠ stOk) with
  | some st => st
  | none => if changesOk size q.drafts q.changes = false then stBadParam else if ctlFree s < size * 4096 then stNoSpace else stOk

/-- Live versions after one more is made latest: the old latest stays live only while it is held. -/
def liveAfterPublish (s : State) (p : BitVec 12) (r : W32) (q : Region) : Nat :=
  q.versions.length + 1 - (if versionHeld s p r q.latest then 0 else 1)

/-- Regions that there are, and those whose creation has started (R139). -/
def regionCount (s : State) : Nat := s.share.regions.length + s.share.pubs.countP fun q => q.create && q.started

/-- The status of a publication, creation or retirement when its turn comes, and the version that its result names.
DESIGN CHOICE (log entry 88): a retirement from a channel that is neither an admin channel nor the creator's ends with
NOT_PERMITTED, after NOT_FOUND and REGION_RETIRED. -/
def pubVerdict (s : State) (q : Pub) : Nat × Option W32 :=
  match regionAt s q.pen q.region with
  | none =>
    if q.create then
      (if 262144 ≤ regionCount s then (stNoSpace, none) else (listsVerdict s q q.base.toNat, none))
    else (stNotFound, none)
  | some r =>
    if q.create then (stBusy, none)
    else if r.retired then (stRegionRetired, none)
    else if q.retire then
      (if isAdmin q.reply.chan ∨ q.reply.chan = r.creator then (stOk, none) else (stNotPermitted, none))
    else if q.base ≠ r.latest then (stStaleBase, some r.latest)
    else if 16 < liveAfterPublish s q.pen q.region r ∨ r.latest = 0xFFFFFFFF then (stVersionsFull, none)
    else (listsVerdict s q r.size, none)

/-- The bytes of the map that a started publication or creation makes. -/
def pubMap (s : State) (q : Pub) : Nat :=
  (if q.create then q.base.toNat else ((regionAt s q.pen q.region).map (·.size)).getD 0) * 4096

def samePub (a b : Pub) : Bool := a.pen == b.pen && a.region == b.region && a.reply == b.reply

def dropPub (q : Pub) (s : State) : State :=
  { s with share := { s.share with pubs := s.share.pubs.filter fun x => ¬ samePub x q } }

/-- The base map with the changes applied. -/
def changedMap (m : Assoc Nat Nat) (cs : List (Nat × Nat)) : Assoc Nat Nat := cs.foldl (fun m c => aSet m c.1 (c.2 / 4096)) m

/-- Every draft is sealed: the new version is the latest, and the command is answered with its number (R116). -/
def completePub (q : Pub) (s : State) : State :=
  let s := dropPub q s
  if q.create then
    let r : Region := { size := q.base.toNat, latest := 1, creator := q.reply.chan, versions := [(1, changedMap [] q.changes)] }
    post q.reply stOk (toLe 4 1) { s with share := { s.share with regions := aSet s.share.regions (q.pen, q.region) r } }
  else
    match regionAt s q.pen q.region with
    | none => s
    | some r =>
      let v := r.latest + 1
      let m := changedMap (aGetD r.versions r.latest []) q.changes
      let s := modRegion q.pen q.region (fun r => { r with latest := v, versions := aSet r.versions v m }) s
      post q.reply stOk (toLe 4 v.toNat) (dropVersion q.pen q.region r.latest s)

/-- A handle is closed for new requests; a Stream Window that holds it ends, and its images go (R58, R59). -/
def closeHandle (h : W32) (s : State) : State :=
  match handleAt s h with
  | none => s
  | some x =>
    let gone := (s.pool.windows.filter fun w => w.2.handle == h).map (·.1)
    let s := { s with
      share := { s.share with handles := aAdjust s.share.handles h fun x => { x with isOpen := false, window := false } }
      pool := { s.pool with windows := s.pool.windows.filter fun w => ¬ gone.contains w.1
                            images := s.pool.images.filter fun i => ¬ gone.contains i.window } }
    sweepLease x.pen (.chan x.holder) s

/-- A region is retired: its latest version is freed unless it is held. `q.base` is a handle to close with it. -/
def retireRegion (q : Pub) (s : State) : State :=
  let s := if q.base = 0 then s else closeHandle q.base s
  let s := modRegion q.pen q.region (fun r => { r with retired := true }) s
  match regionAt s q.pen q.region with
  | some r => post q.reply stOk [] (dropVersion q.pen q.region r.latest s)
  | none => post q.reply stOk [] s

/-- The turn of a publication, creation or retirement has come: it is refused, or it starts (R114, R115). -/
def startPub (q : Pub) (s : State) : State :=
  match pubVerdict s q with
  | (st, v) =>
    if st ≠ stOk then post q.reply st (match v with | some n => toLe 4 n.toNat | none => []) (dropPub q s)
    else if q.retire then retireRegion q (dropPub q s)
    else
      let q' := { q with started := true, todo := q.drafts.eraseDups }
      let s := ctlTake (pubMap s q) { s with share := { s.share with pubs := s.share.pubs.map fun x => if samePub x q then q' else x } }
      if q'.todo.isEmpty then completePub q' s else s

/-- The next publication, creation or retirement whose turn it is: the first of its region that waits, with none started
before it. -/
def nextPub : List Pub → List Pub → Option Pub
  | _, [] => none
  | before, q :: qs =>
    if q.started = false ∧ before.all (fun b => ¬ (b.pen = q.pen ∧ b.region = q.region)) then some q
    else nextPub (before ++ [q]) qs

/-- Those whose turn it is start, at most `n` of them. -/
def pumpPubs : Nat → State → State
  | 0, s => s
  | n + 1, s =>
    match nextPub [] s.share.pubs with
    | some q => pumpPubs n (startPub q s)
    | none => s

def runPubs (s : State) : State := pumpPubs s.share.pubs.length s

/-- A publication, creation or retirement reaches its region home Shed. -/
def queuePub (q : Pub) (s : State) : State := runPubs { s with share := { s.share with pubs := s.share.pubs ++ [q] } }

/-- A region's size in REGION_CREATE, and the draft count of both commands, lie in their ranges (R139, R341). -/
def createRanges (r : Req) : Bool := decide (draftCount r ≤ 1024) && decide (1 ≤ leAt r.payload 4 4 ∧ leAt r.payload 4 4 ≤ 32768)
def publishRanges (r : Req) : Bool := decide (draftCount r ≤ 1024)

def cmdRegionCreate (r : Req) : Cmd :=
  { op := 0x30, p := true, level := 2, fields := [(0, 10), (12, 4)],
    blen := fun b => b == 8 * draftCount r + 16 * changeCount r, ranges := createRanges }

def cmdRegionPublish (r : Req) : Cmd :=
  { op := 0x31, p := true, level := 2, fields := [(0, 10), (12, 4)],
    blen := fun b => b == 8 * draftCount r + 16 * changeCount r, ranges := publishRanges }

/-- The lists of a command as a publication; an address outside the address space names no extent. DESIGN CHOICE (log
entry 87): the low 21 bits of a draft's address are ignored. -/
def pubOf (r : Req) (rep : Reply) (s : State) : Pub :=
  let addrs := draftAddrs s r
  { reply := rep, pen := actingPen s r, region := fieldLe 32 r.payload 0 4, base := fieldLe 32 r.payload 4 4,
    drafts := addrs.map fun a => BitVec.ofNat 35 (a / 2 ^ 21), beyond := addrs.any fun a => decide (2 ^ 56 ≤ a)
    changes := changeList s r }

/-- REGION_CREATE's own checks. -/
def regionCreate (r : Req) (rep : Reply) (s : State) : State :=
  let q := { pubOf r rep s with create := true }
  if q.region = 0 then post rep stBadParam [] s
  else awaitHome [regionSlot q.pen q.region] (.regionCreate r) rep (queuePub q) s

/-- REGION_CREATE. -/
def execRegionCreate (r : Req) (s : State) : Res := .next (mbx (cmdRegionCreate r) true r (regionCreate r) s)

/-- REGION_PUBLISH's own checks. -/
def regionPublish (r : Req) (rep : Reply) (s : State) : State :=
  let q := pubOf r rep s
  awaitHome [regionSlot q.pen q.region] (.regionPublish r) rep (queuePub q) s

/-- REGION_PUBLISH. -/
def execRegionPublish (r : Req) (s : State) : Res := .next (mbx (cmdRegionPublish r) true r (regionPublish r) s)

/-- The draft's home queue has drained: no store to it is under way, nor waits for its order on its pair (R94, R116). -/
def drained (s : State) (k : ExtKey) : Bool :=
  !(s.pool.jobs.any fun j => j.key == k && j.store)
    && !s.pairs.any fun p => p.2.held.any fun h => h.op == 0x05 && h.rx.pen ≠ 0 && rxKey s h.rx == k

/-- A draft is sealed: its CLASS, its owner record and lease hold dropped; it leaves a reclaim (R116). -/
def sealDraft (k : ExtKey) (s : State) : State :=
  let e := extAt s k
  sweepFor k.1 e (setLeaf k (fun e => { e with
    cls := .sealed, owner := none, hold := none, reclaim := none, st := if e.st = .draining then .resident else e.st }) s)

/-- DRAFT_SEAL: a draft of a started publication is sealed once its home queue has drained; the last one completes the
publication, and the next one's turn comes. -/
def execDraftSeal (p : BitVec 12) (e : BitVec 35) (s : State) : Res :=
  let k : ExtKey := (p, e)
  match s.share.pubs.find? (fun q => q.started && q.pen == p && q.todo.contains e) with
  | none => .next s
  | some q =>
    if drained s k = false ∨ slotMoving s (keySlot k) then .next s
    else
      let q' := { q with todo := q.todo.erase e }
      let s := sealDraft k { s with share := { s.share with pubs := s.share.pubs.map fun x => if samePub x q then q' else x } }
      .next (if q'.todo.isEmpty then runPubs (completePub q' s) else s)

/-! ## REGION_OPEN, REGION_CLOSE and REGION_RETIRE (R113, R114, R119, R122) -/

/-- A version's map as REGION_OPEN writes it: 8 B for each logical block (R111). -/
def mapBytes (q : Region) (v : W32) : List Byte :=
  let m := aGetD q.versions v []
  (List.range (512 * q.size)).flatMap fun i =>
    match aGet m i with
    | some b => toLe 8 b
    | none => toLe 8 (2 ^ 63)

def cmdRegionOpen (r : Req) : Cmd :=
  { op := 0x32, p := true, level := 2, flags := 1, fields := [(0, 10)],
    blen := fun b => r.flags.getLsbD 0 || b == 0,
    named := fun r => if leAt r.payload 8 2 = 0 then none else some (leAt r.payload 8 2) }

/-- Open handles. -/
def openHandles (s : State) : Nat := (s.share.handles.filter fun h => h.2.isOpen).length

/-- A new handle on a version, held under the lease of its channel. -/
def openHandle (h : W32) (x : Handle) (s : State) : State :=
  createLease x.pen (.chan x.holder) { s with share := { s.share with handles := aSet s.share.handles h x } }

/-- The handle is issued, and the answer given, with the version's map where MAP asks for it (R119, R336). A handle is not
0, which names none. -/
def answerOpen (r : Req) (rep : Reply) (q : Region) (x : Handle) (s : State) : State :=
  let (h, s) := freshId (0 :: s.share.handles.map (·.1)) s
  let res := toLe 4 h.toNat ++ toLe 4 x.version.toNat
  if r.flags.getLsbD 0 then
    (if r.blen.toNat < 4096 * q.size then tooShort rep (4096 * q.size) s
     else answerOut rep r (mapBytes q x.version) res (openHandle h x s))
  else post rep stOk res (openHandle h x s)

/-- REGION_OPEN's own checks: the reader Pen from an admin channel only; the region, its retirement, the version; the
limits of R139; the opener's lease. -/
def regionOpen (r : Req) (rep : Reply) (s : State) : State :=
  let p := actingPen s r
  let id : W32 := fieldLe 32 r.payload 0 4
  let ask : W32 := fieldLe 32 r.payload 4 4
  let rd : BitVec 12 := fieldLe 12 r.payload 8 2
  let owner := if rd = 0 then p else rd
  if rd ≠ 0 ∧ isAdmin r.chan = false then post rep stNotPermitted [] s
  else match regionAt s p id with
    | none => post rep stNotFound [] s
    | some q =>
      let v := if ask = 0 then q.latest else ask
      if q.retired then post rep stRegionRetired [] s
      else if q.latest.toNat < v.toNat then post rep stNotFound [] s
      else if (aGet q.versions v).isNone then post rep stStaleBase (toLe 4 0 ++ toLe 4 q.latest.toNat) s
      else if leaseRevoked s owner (.chan r.chan) then post rep stBusy [] s
      else if 1048576 ≤ openHandles s ∨ leaseRoom s owner (.chan r.chan) = false then post rep stNoSpace [] s
      else answerOpen r rep q { pen := owner, rpen := p, region := id, version := v, holder := r.chan } s

/-- The slot of a channel's lease (R123). -/
def chanSlot (c : ChanIx) : Fin 4 := Fin.ofNat 4 c.val

/-- REGION_OPEN. -/
def execRegionOpen (r : Req) (s : State) : Res :=
  .next (mbx (cmdRegionOpen r) false r (fun rep s =>
    awaitHome [regionSlot (actingPen s r) (fieldLe 32 r.payload 0 4), chanSlot r.chan] (.regionOpen r) rep (regionOpen r rep) s) s)

def cmdRegionClose : Cmd := { op := 0x33, p := true, level := 2, flags := 1, fields := [(0, 8)] }

/-- The home slots of an open handle of a Pen: its region's and its lease's (R13). -/
def handleSlots (s : State) (p : BitVec 12) (h : W32) : List (Fin 4) :=
  match handleOpen s p h with
  | some x => [regionSlot x.rpen x.region, chanSlot x.holder]
  | none => []

/-- REGION_CLOSE of a handle that is open in the Pen it names. -/
def regionClose (r : Req) (rep : Reply) (s : State) : State :=
  let h : W32 := fieldLe 32 r.payload 0 4
  awaitHome (handleSlots s (actingPen s r) h) (.regionClose r) rep (fun s =>
    match handleOpen s (actingPen s r) h with
    | none => post rep stNotFound [] s
    | some _ => post rep stOk [] (closeHandle h s)) s

/-- REGION_CLOSE without RETIRE. -/
def execRegionClose (r : Req) (s : State) : Res := .next (mbx { cmdRegionClose with flags := 0, fields := [(0, 4)] } false r (regionClose r) s)

/-- REGION_CLOSE with RETIRE: it takes its turn with the publications of its region (R114). -/
def regionRetire (r : Req) (rep : Reply) (s : State) : State :=
  let p := actingPen s r
  let h : W32 := fieldLe 32 r.payload 0 4
  let id : W32 := fieldLe 32 r.payload 4 4
  if h ≠ 0 ∧ (handleOpen s p h).isNone then post rep stNotFound [] s
  else awaitHome [regionSlot p id] (.regionRetire r) rep
    (queuePub { reply := rep, pen := p, region := id, retire := true, base := h }) s

/-- REGION_RETIRE. -/
def execRegionRetire (r : Req) (s : State) : Res := .next (mbx cmdRegionClose false r (regionRetire r) s)

/-! ## Stream Windows (R58 to R60) -/

/-- The stage pool's bytes that windows reserve. -/
def stageReserved (s : State) : Nat := (s.pool.windows.map fun w => w.2.depth * w.2.stride * 2 ^ 21).sum

def cmdWindowCreate : Cmd := { op := 0x40, p := true, level := 2, fields := [(0, 4), (8, 18)] }

/-- WINDOW_CREATE: the handle, the shape, then the reservation; layers 0 to d − 1 begin to stage. -/
def windowMake (r : Req) (rep : Reply) (s : State) : State :=
  let pl := r.payload
  let h : W32 := fieldLe 32 pl 0 4
  let addr := leAt pl 8 8
  let stride := leAt pl 16 4
  let layers := leAt pl 20 4
  let d := leAt pl 24 1
  match handleOpen s (actingPen s r) h with
  | none => post rep stNotFound [] s
  | some x =>
    if stride = 0 ∨ d < 1 ∨ 64 < d ∨ layers < d ∨ 1 < leAt pl 25 1 ∨ addr % 2 ^ 21 ≠ 0 ∨ 2 ^ 56 ≤ addr then post rep stBadParam [] s
    else if s.near.stagePool < stageReserved s + d * stride * 2 ^ 21 then post rep stNoSpace [] s
    else
      let w : Window := { pen := x.pen, handle := h, ext := (x.rpen, BitVec.ofNat 35 (addr / 2 ^ 21)), stride, layers,
                          depth := d, wrap := leAt pl 25 1 == 1, staged := List.range d }
      let (id, s) := freshId (s.pool.windows.map (·.1)) s
      post rep stOk (toLe 4 id.toNat) { s with
        pool := { s.pool with windows := aSet s.pool.windows id w }
        share := { s.share with handles := aAdjust s.share.handles h fun x => { x with window := true } } }

/-- WINDOW_CREATE waits for the homes of its handle (R15). -/
def windowCreate (r : Req) (rep : Reply) (s : State) : State :=
  awaitHome (handleSlots s (actingPen s r) (fieldLe 32 r.payload 0 4)) (.windowCreate r) rep (windowMake r rep) s

/-- WINDOW_CREATE. -/
def execWindowCreate (r : Req) (s : State) : Res := .next (mbx cmdWindowCreate false r (windowCreate r) s)

/-- The window one layer on: the new layer begins to stage, and the layer behind the front is marked for discard. -/
def advanced (w : Window) : Window :=
  let f := if w.wrap then (w.front + 1) % w.layers else w.front + 1
  let new := if w.wrap then (f + w.depth - 1) % w.layers else f + w.depth - 1
  let add := w.wrap || decide (new < w.layers)
  let marked := w.marked.erase w.front ++ [w.front]
  if add then { w with front := f, staged := w.staged.erase new ++ [new], marked := marked.erase new }
  else { w with front := f, marked }

def cmdWindowAdvance : Cmd := { op := 0x41, p := true, level := 2, fields := [(0, 4)] }

/-- WINDOW_ADVANCE: a step of the window, or, at the last layer without WRAP, its end and its handle's (R60). -/
def windowStep (r : Req) (rep : Reply) (s : State) : State :=
  let id : W32 := fieldLe 32 r.payload 0 4
  match aGet s.pool.windows id with
  | none => post rep stNotFound [] s
  | some w =>
    if w.pen ≠ actingPen s r then post rep stNotFound [] s
    else if w.wrap = false ∧ w.front + 1 = w.layers then
      post rep stOk (toLe 4 (w.front + 1) ++ [1]) (closeHandle w.handle s)
    else
      let w' := advanced w
      post rep stOk (toLe 4 w'.front ++ [0]) { s with pool := { s.pool with windows := aSet s.pool.windows id w' } }

/-- WINDOW_ADVANCE waits for the homes of its window's handle (R15). -/
def windowAdvance (r : Req) (rep : Reply) (s : State) : State :=
  let slots := match aGet s.pool.windows (fieldLe 32 r.payload 0 4) with
    | some w => handleSlots s (actingPen s r) w.handle
    | none => []
  awaitHome slots (.windowAdvance r) rep (windowStep r rep) s

/-- WINDOW_ADVANCE. -/
def execWindowAdvance (r : Req) (s : State) : Res := .next (mbx cmdWindowAdvance false r (windowAdvance r) s)

/-- A request of the device's own stages a block of a window. -/
def stagesFor (id : W32) (r : DevReq) : Bool := match r.owner with | .stage w _ _ => w == id | _ => false

/-- The window's reservation has room for one more block, those being read for it counted. -/
def stageRoom (s : State) (id : W32) (w : Window) : Bool :=
  decide ((s.pool.images.filter fun i => i.window = id).length + s.pool.devReqs.countP (stagesFor id)
    < w.depth * w.stride * 512)

/-- A block of a layer is read from its home for staging: at once where NEAR or a gathered flash page has it, by a READ
of its tray or lender otherwise. -/
def stageFetch (id : W32) (layer block : Nat) (k : ExtKey) (b : Nat) (s : State) : State :=
  match frmPlace (blockFrm s k b) b with
  | .near x => if readSt s x = .fine then addImage id layer block (nearBlock s x) s else s
  | .remote n a => if nodeUp s n then devSend n a none 0 (.stage id layer block) s else s
  | .flash n u =>
    let t := tray s n
    match pendingUnit t u with
    | some d => addImage id layer block d s
    | none =>
      if slotOf t u = unmapped then addImage id layer block (List.replicate 4096 0) s
      else if slotOf t u = poisonedSlot ∨ nodeUp s n = false then s
      else devSend n ((slotOf t u).toNat * 4096) none 0 (.stage id layer block) s

/-- STAGE_BLOCK_DONE: a block of a layer being staged, of a Sealed extent, reaches its image; a block of a tray or a
lender reaches it with the answer to the READ that this step sends. -/
def execStageBlockDone (id : W32) (layer block : Nat) (s : State) : Res :=
  match aGet s.pool.windows id with
  | none => .next s
  | some w =>
    let (k, b) := layerBlock w layer block
    let asked := s.pool.devReqs.any fun r => r.owner == .stage id layer block
    let done := s.pool.images.any fun i => i.window == id && i.layer == layer && i.block == block
    if w.staged.contains layer = false ∨ w.stride * 512 ≤ block ∨ asked ∨ done ∨ stageRoom s id w = false
       ∨ (extAt s k).v = false ∨ (extAt s k).cls ≠ .sealed ∨ (extAt s k).st = .lost ∨ (memKey s k.1 (extAt s k).keyId).isNone
    then .next s
    else .next (stageFetch id layer block k b s)

/-- A Gather Unit or a Yard stream port holds a queued read of a layer. -/
def layerRead (s : State) (w : Window) (layer : Nat) : Bool :=
  s.pool.jobs.any fun j => !j.store && j.result.isNone && j.key.1 == w.ext.1
    && decide (w.ext.2.toNat + layer * w.stride ≤ j.key.2.toNat ∧ j.key.2.toNat < w.ext.2.toNat + (layer + 1) * w.stride)
    && match j.orig with | .fetch _ => true | .yardIn _ _ => true | _ => false

/-- STAGED_LAYER_DISCARD: a marked layer's image is discarded once nothing holds a queued read of it. -/
def execStagedLayerDiscard (id : W32) (layer : Nat) (s : State) : Res :=
  match aGet s.pool.windows id with
  | none => .next s
  | some w =>
    if w.marked.contains layer = false ∨ layerRead s w layer then .next s
    else
      let w' := { w with marked := w.marked.erase layer, staged := w.staged.erase layer }
      .next { s with pool := { s.pool with
        windows := aSet s.pool.windows id w'
        images := s.pool.images.filter fun i => ¬ (i.window = id ∧ i.layer = layer) } }

end Sys2Proof.Machine
end

