-- ==== Sys2Proof/Machine/Gather.lean ====
section
/-! DEFINITION. Gather Units and Filter Units (R194 to R210): where a request runs, its descriptor, its fetches, its output
and its status. A unit goes on as far as its fetches and its expander let it each time one of them has news. -/

namespace Sys2Proof.Machine

/-! ## Requests -/

def reqAt (s : State) (id : Nat) : Option UnitReq := s.work.reqs.find? fun q => q.id == id
def modReq (id : Nat) (f : UnitReq → UnitReq) (s : State) : State :=
  { s with work := { s.work with reqs := s.work.reqs.map fun q => if q.id = id then f q else q } }
def dropReq (id : Nat) (s : State) : State :=
  { s with work := { s.work with reqs := s.work.reqs.filter fun q => ¬ q.id = id } }

/-- The kind of unit that serves a request, and its register block (GTU_*, FLU_*). -/
def reqKind (q : UnitReq) : UnitKind := if q.filter then .filter else .gather
def unitOff (k : UnitKind) (u : UnitIx) : Nat := (if k = .filter then 0x320000 else 0x310000) + u.val * 0x1000

/-- A bit of a unit's event register; the event names a Pen and a node. -/
def setUnitEvt (bit pen node : Nat) (sh : ShedIx) (k : UnitKind) (u : UnitIx) (s : State) : State :=
  evtBitD (shedBase sh + unitOff k u + 0x18) bit (shcOf sh) pen node 0 0 (modUnit sh k u (fun n => { n with evt := orBit n.evt bit }) s)

/-- The unit of a request, changed by a function; one of its event bits. -/
def modReqUnit (q : UnitReq) (f : Unit → Unit) (s : State) : State :=
  match q.unit with | some u => modUnit q.shed (reqKind q) u f s | none => s
def reqEvent (q : UnitReq) (bit : Nat) (s : State) : State :=
  let node : Nat := match q.src with | .cmx _ rx => rx.src.toNat | .port _ _ => 0
  match q.unit with | some u => setUnitEvt bit q.pen.toNat node q.shed (reqKind q) u s | none => s

/-! ## Descriptors (R196, R206) -/

def gAction (d : List Byte) : Nat := bitsOf (leAt d 1 1) 1 0
def gRmode (d : List Byte) : Nat := bitsOf (leAt d 1 1) 3 2
def gCodeOut (d : List Byte) : Bool := (leAt d 1 1).testBit 6
def gWindow (d : List Byte) : Bool := (leAt d 1 1).testBit 7
def gIn (d : List Byte) : Nat := leAt d 2 1
def gOut (d : List Byte) : Nat := leAt d 3 1
def gSelOff (d : List Byte) : Nat := leAt d 6 2
def gSelLen (d : List Byte) : Nat := leAt d 8 2
def fOp (d : List Byte) : Nat := bitsOf (leAt d 1 1) 1 0
def fRecords (d : List Byte) : Bool := (leAt d 1 1).testBit 4
def fSmallest (d : List Byte) : Bool := (leAt d 1 1).testBit 5
def fFormat (d : List Byte) : Nat := leAt d 2 1
def fPart (d : List Byte) : Fin 16 := Fin.ofNat 16 (leAt d 3 1)
def fSize (d : List Byte) : Nat := leAt d 4 2
def fK (d : List Byte) : Nat := leAt d 6 2
def fOff (d : List Byte) : Nat := leAt d 8 2
def fPreds (d : List Byte) : Nat := leAt d 11 1

/-- The fields that the two descriptors share, each at its place. -/
def uPaddr (q : UnitReq) : Bool := (leAt q.desc 1 1).testBit (if q.filter then 2 else 4)
def uIndirect (q : UnitReq) : Bool := (leAt q.desc 1 1).testBit (if q.filter then 3 else 5)
def uDest (q : UnitReq) : Nat := leAt q.desc (if q.filter then 42 else 10) 1
def uDestNode (q : UnitReq) : Node := fieldLe 16 q.desc (if q.filter then 40 else 12) 2
def uKey (q : UnitReq) : BitVec 8 := fieldLe 8 q.desc (if q.filter then 10 else 14) 1
def uElem (q : UnitReq) : Nat := leAt q.desc 16 8
def uScale (q : UnitReq) : Nat := leAt q.desc 24 8
def uIndexAddr (q : UnitReq) : Nat := leAt q.desc 32 8
def uCount (q : UnitReq) : Nat := leAt q.desc (if q.filter then 12 else 40) 4
def uDestAddr (q : UnitReq) : Nat := leAt q.desc 48 8
/-- The bytes of an index entry, and of an inline vector. -/
def uEntry (q : UnitReq) : Nat := if uPaddr q then 8 else 4
def uInline (q : UnitReq) : List Byte := q.tail.drop (if q.filter then 24 * fPreds q.desc else 0)

/-- An EBI TOPK. -/
def ebiTopk (d : List Byte) : Bool := fOp d == 1 && (fFormat d == 0 || fFormat d == 2)

/-- The EBI format whose scale words are read with each entry. -/
def scaleFmt (q : UnitReq) : Option Fmt :=
  if q.filter then (if ebiTopk q.desc then fmtOf (fFormat q.desc) else none)
  else if gAction q.desc = 0 then none
  else match fmtOf (gIn q.desc) with | some f => if isEbi f then some f else none | none => none

/-- The scale-plane bytes of a 4 KiB element block (R143). -/
def scaleBytes (f : Fmt) : Nat := 2 * (4096 / blockBytes f)

/-- A Pool Address field of a block. -/
def badBlockAddr (a : Nat) : Bool := a % 4096 != 0 || decide (2 ^ 56 ≤ a)

/-- The rules of R197 on fields that both descriptors have. -/
def commonBad (s : State) (q : UnitReq) : Bool :=
  q.desc.length != 64 || badBlockAddr (uElem q) || (uIndirect q && (uIndexAddr q % 8 != 0 || decide (2 ^ 56 ≤ uIndexAddr q)))
    || uCount q == 0 || decide (2 ^ 20 < uCount q)
    || (uDest q == 1 && !(match aGet s.partners (uDestNode q) with
        | some x => x.state == .admitted && x.role == 0
        | none => false))
    || (uDest q == 2 && badBlockAddr (uDestAddr q))
    || ((scaleFmt q).isSome && (uPaddr q || uScale q == 0 || badBlockAddr (uScale q)))
    || (!uIndirect q && !q.seq && decide ((uInline q).length < uEntry q * uCount q))

/-- A gather descriptor breaks R197; from a CMX request, DEST 3 names no stream port. -/
def gatherBad (s : State) (q : UnitReq) : Bool :=
  let d := q.desc
  let port : Bool := match q.src with | .port _ _ => true | .cmx _ _ => false
  let whole := gSelOff d == 0 && gSelLen d == 4096
  let unitOf : Nat := match fmtOf (gIn d) with | some f => if isEbi f then blockBytes f else 1 | none => 1
  commonBad s q || leAt d 0 1 != 1 || gAction d == 3 || gRmode d == 3 || (gIn d != 255 && (fmtOf (gIn d)).isNone)
    || (gAction d == 2 && (decide (2 < gOut d) || decide (2 < gIn d))) || (gAction d != 2 && gOut d != gIn d)
    || gSelLen d == 0 || decide (4096 < gSelOff d + gSelLen d) || decide (3 < uDest q) || (uDest q == 3 && !port)
    || (gAction d == 0 && (uDest q == 0 || uDest q == 1 || !whole))
    || (gAction d != 0 && (gSelOff d % unitOf != 0 || gSelLen d % unitOf != 0))
    || (gCodeOut d && uDest q != 2)
    || (gWindow d && (q.session == 0 || uPaddr q || decide (63 < leAt d 15 1)))

/-- Predicate i of a filter. -/
def predAt (q : UnitReq) (i : Nat) : List Byte := (q.tail.drop (24 * i)).take 24

/-- A predicate breaks a range of R206. -/
def predBad (size : Nat) (p : List Byte) : Bool :=
  let w := bitsOf (leAt p 1 1) 3 0
  decide (p.length < 24) || decide (6 < leAt p 0 1) || !(w == 1 || w == 2 || w == 4 || w == 8) || leAt p 2 2 % w != 0
    || decide (size < leAt p 2 2 + w)

/-- A filter descriptor breaks R206 or R197. -/
def filterBad (s : State) (q : UnitReq) : Bool :=
  let d := q.desc
  let size := fSize d
  -- KEY_OFF is the offset of the TOPK field or of the lookup key: a PREDICATE has neither.
  let field := if fOp d = 2 then 20 else if fOp d = 1 then (if fFormat d = 3 then 4 else 8) else 0
  commonBad s q || leAt d 0 1 != 2 || fOp d == 3 || decide (2 < uDest q) || decide (4 < fPreds d)
    || (fOp d == 1 && (fK d == 0 || decide (4096 < fK d) || !([0, 2, 3, 4].contains (fFormat d))))
    || (if ebiTopk d then fPreds d != 0
        else !((List.range 10).any fun i => size == 2 ^ (i + 3)) || (field != 0 && decide (size < fOff d + field))
          || (List.range (fPreds d)).any fun i => predBad size (predAt q i))

/-! ## Choosing a Shed and a unit (R194) -/

/-- A unit takes requests: it is active or an engaged spare, enabled, not about to be retired, and its island runs. -/
def unitTakes (s : State) (sh : ShedIx) (k : UnitKind) (u : UnitIx) : Bool :=
  let n := unit s sh k u
  islRunning s (shcOf sh) && n.en && !n.draining && (n.st == .active || n.st == .spareEngaged)

/-- The requests of a unit. -/
def unitReqs (s : State) (sh : ShedIx) (k : UnitKind) (u : UnitIx) : List UnitReq :=
  s.work.reqs.filter fun q => q.shed == sh && reqKind q == k && q.unit == some u

/-- The units with the fewest requests among those that have room in their queues (R194). -/
def pickUnits (s : State) (sh : ShedIx) (k : UnitKind) : List UnitIx :=
  leastBy (fun u => (unitReqs s sh k u).length)
    (((List.range 17).map (Fin.ofNat 17)).filter fun u => unitTakes s sh k u && decide ((unitReqs s sh k u).length < 64))

/-- The Shed whose units serve a CMX request. -/
def reqShed (s : State) (p : Rx) (q : UnitReq) : ShedIx :=
  let out (n : Node) : ShedIx :=
    match nodeEntry s.routes.current n with
    | none => portShed p.port
    | some e => ((pickPort s e (srcPort { op := 0x29, pen := p.pen, addr := 0 })).map portShed).getD (portShed p.port)
  if uDest q = 0 then out p.src else if uDest q = 1 then out (uDestNode q) else portShed p.port

/-! ## Ends (R203, R204, R225) -/

/-- What a request leaves behind in its unit and in its session. -/
def countReq (q : UnitReq) (s : State) : State :=
  let s := modReqUnit q (fun n => { n with cnt0 := satInc n.cnt0,
                                           cnt1 := satAdd n.cnt1 (if q.filter then q.records else q.count / 1024) }) s
  match q.sess with
  | none => s
  | some slot => modSession slot (fun x =>
      if isCounted x then
        { x with requests := x.requests + 1, lastStep := q.step,
                 gatherBytes := x.gatherBytes + BitVec.ofNat 64 (if q.filter then 0 else q.count),
                 filterRecords := x.filterRecords + BitVec.ofNat 64 (if q.filter then q.records else 0) }
      else x) s

/-- The accesses of a request that have not been taken. -/
def ownJob (id : Nat) (j : Job) : Bool := j.orig == .fetch id || j.orig == .out id

/-- A request leaves its unit: its accesses and its blocks in the expander go. -/
def removeReq (q : UnitReq) (s : State) : State :=
  let s := countReq q s
  let s := { s with pool := { s.pool with jobs := s.pool.jobs.filter fun j => !ownJob q.id j } }
  let s := match q.unit with
    | some u => if q.filter then s else dropBlocks (.gather q.shed u) (fun b => b.slot == q.id) s
    | none => s
  dropReq q.id s

/-- A read port's stream ends. -/
def endStream (y : YardRef) (p : Fin 16) (e : StreamEnd) (s : State) : State :=
  { s with work := { s.work with yards := aAdjust s.work.yards y fun d =>
    { d with ports := aAdjust d.ports p fun x => { x with ended := some e } } } }

/-- The 16 B payload of a status packet. -/
def statusBytes (q : UnitReq) (st : Nat) : List Byte := toLe 2 st ++ toLe 2 (bitNat q.sat) ++ toLe 4 q.packets ++ toLe 8 q.count

/-- The opcode of a request's result packets. -/
def dataOp (q : UnitReq) : BitVec 8 := if q.filter then 0x31 else 0x29

/-- A request ends with a status: the status packet with LAST, or the end of its stream. -/
def endReq (q : UnitReq) (st : Nat) (s : State) : State :=
  let s := if st = 3 then reqEvent q 2 s else s
  let s := removeReq q s
  match q.src with
  | .port y p => endStream y p (.status st q.sat q.packets q.count) s
  | .cmx _ rx =>
    let p := { respPkt (dataOp q) rx with flags := 0x10, length := 16, addr := BitVec.ofNat 56 q.packets, keyId := 0,
                                          step := rx.step, payload := statusBytes q st }
    if muted rx then finishEpoch rx.epoch s else sendVia rx.src p { fin := some rx.epoch, own := some q.shed } s

/-- A request ends with a NACK in place of the status packet. -/
def nackReq (q : UnitReq) (reason : BitVec 8) (station : Nat) (d : W32) (s : State) : State :=
  let s := removeReq q s
  match q.src with
  | .port y p => endStream y p (.nack (reason.setWidth 16 + BitVec.ofNat 16 (station * 256))) s
  | .cmx _ rx => nack rx reason station d s

/-- A request ends with no answer: a key was removed under it (R361), or its Pen is torn down (R227). What it has not sent yet
is not sent. -/
def quietReq (q : UnitReq) (s : State) : State :=
  let s := dropKept (.req q.id) (removeReq q s)
  match q.src with
  | .port _ _ => s
  | .cmx _ rx => finishEpoch rx.epoch s

/-- The request ends with a status once what precedes entry `cut` has been put out. -/
def cutReq (id : Nat) (cut st : Nat) (s : State) : State :=
  match reqAt s id with
  | none => s
  | some q =>
    let gone := (q.fetches.filter fun f => decide (cut ≤ f.entry)).map (·.job)
    let s := { s with pool := { s.pool with jobs := s.pool.jobs.filter fun j => !gone.contains j.id } }
    modReq id (fun q => { q with next := cut, ending := some st, fetches := q.fetches.filter fun f => decide (f.entry < cut) }) s

/-- The request ends with a status and puts nothing more out. -/
def stopReq (id st : Nat) (s : State) : State :=
  match reqAt s id with
  | none => s
  | some q =>
    let s := match q.unit with
      | some u => if q.filter then s else dropBlocks (.gather q.shed u) (fun b => b.slot == id) s
      | none => s
    cutReq id q.done st (modReq id (fun q => { q with enq := q.done, pieces := [], elems := [], scales := [] }) s)

/-! ## Accesses (R195, R199) -/

/-- The extent that an address of a request names, in the table that translates it, or the NACK of its fetch. -/
def fetchKey (s : State) (q : UnitReq) (a : Nat) : ExtKey × Verdict :=
  let e : BitVec 35 := BitVec.ofNat 35 (a / 2 ^ 21)
  let k : ExtKey := match handleAt s q.handle with | some x => (x.rpen, e) | none => (q.pen, e)
  match leaf s k with
  | none => (k, .nack rTierError 9 noExtent)
  | some l =>
    let granted : Option Handle := (handleAt s q.handle).filter isGranted
    (k, if (granted.any fun x => decide (¬ (l.cls = .sealed)) || !versionHas s x e) then .nack rTierError 9 noExtent
        else if l.st = .lost then .nack rTierError 9 (tierDetail (tierCode l.tier) 2)
        else if l.st = .draining ∨ l.st = .scrubbing then .nack rLeaseRevoked 8 0
        else if granted.isNone ∧ l.keyId ≠ uKey q then .nack rPenClosed 9 1 else .pass)

/-- A fetch of the block at an address begins, or the request ends with its NACK. One whose home slot is being rebuilt waits,
and is checked when it goes on (R15). -/
def startFetch (id : Nat) (entry : Nat) (part : FetchPart) (a : Nat) (s : State) : State :=
  match reqAt s id with
  | none => s
  | some q =>
    let (k, v) := fetchKey s q a
    let moving := slotMoving s (keySlot k)
    let f : Fetch := { job := s.pool.nextJob, entry, part }
    let begin (held : Bool) : State :=
      startJob { id := 0, orig := .fetch id, pen := q.pen, key := k, off := a % 2 ^ 21 / 4096 * 4096, len := 4096, handle := q.handle, held }
        (modReq id (fun q => { q with fetches := q.fetches ++ [f] }) s)
    if moving then begin true
    else match v with
      | .pass => begin false
      | .nack r st d => nackReq q r st d s
      | .wait _ => s

/-- The Pen whose tables code the blocks that a request reads: the granting Pen under a granted handle. -/
def tablePen (s : State) (q : UnitReq) : BitVec 12 := match handleAt s q.handle with | some x => x.rpen | none => q.pen

/-- A stored block as plain bytes: itself, or decoded; else the status that ends the request. -/
def plainBlock (s : State) (q : UnitReq) (bytes : List Byte) (d : W32) : Nat ⊕ List Byte :=
  if descRaw d then .inr bytes
  else match boundTable s (tablePen s q) (descTable d) with
    | none => .inl 3
    | some t => match decodeBlock t.lens t.tag d bytes with
      | some b => .inr b
      | none => .inl 2

/-! ## Output (R200 to R203, R210) -/

/-- The packet that carries an output block. -/
def dataPkt (q : UnitReq) (rx : Rx) (bytes : List Byte) : Pkt :=
  { respPkt (dataOp q) rx with length := BitVec.ofNat 16 bytes.length, addr := BitVec.ofNat 56 q.packets, keyId := 0,
                               step := rx.step, payload := bytes }

/-- The WRITE, from the requester's node, of an output block at an address. -/
def outRx (q : UnitReq) (rx : Rx) (a : Nat) : Rx :=
  { rx with addr := BitVec.ofNat 56 a, keyId := uKey q, handle := 0, length := 4096, flags := 0 }

/-- A block written to the pool as a WRITE from the requester's node (R202). One whose home slot is being rebuilt waits, and
its home's checks are made when it goes on (R15). -/
def putPool (q : UnitReq) (rx : Rx) (bytes : List Byte) (d : W32) (s : State) : State :=
  let a := uDestAddr q + 4096 * q.packets
  let w := outRx q rx a
  let coded := !q.filter && (gAction q.desc == 0 || gCodeOut q.desc)
  let k := rxKey s w
  let held := slotMoving s (keySlot k)
  if 2 ^ 56 ≤ a then stopReq q.id 1 s
  else match firstGate (gate6 0x03 w s :: if held then [] else homeGates 0x03 w s) with
    | .nack r st e => nackReq q r st e s
    | .wait _ => s
    | .pass =>
      if coded ∧ (extAt s k).comp = false then stopReq q.id 1 s
      else
        let job := s.pool.nextJob
        startJob { id := 0, orig := .out q.id, pen := q.pen, key := k, off := addrOff w.addr, len := 4096, store := true,
                   data := bytes, desc := if coded then some d else none, held }
          (modReq q.id (fun q => { q with packets := q.packets + 1, writes := q.writes ++ [job] }) s)

/-- An output block with its side descriptor leaves the unit; `n` of its bytes, or entries of it, hold data. -/
def putBlock (id : Nat) (bytes : List Byte) (d : W32) (n : Nat) (s : State) : State :=
  match reqAt s id with
  | none => s
  | some q =>
    let s := modReq id (fun q => { q with count := q.count + n }) s
    match q.src with
    | .port _ _ => modReq id (fun q => { q with port := q.port ++ [(bytes, d)], packets := q.packets + 1 }) s
    | .cmx _ rx =>
      if uDest q = 2 then putPool q rx bytes d s
      else
        let s := modReq id (fun q => { q with packets := q.packets + 1 }) s
        if muted rx then s
        else sendVia (if uDest q = 1 then uDestNode q else rx.src) (dataPkt q rx bytes) { own := some q.shed, whose := some (.req q.id) } s

/-- An output block, coded first where CODE_OUT asks for it (R157); an unbound OUT_TABLE ends the request. A block that passes
keeps the SCALE bit of its descriptor; what the unit packs itself is an element block (DESIGN CHOICE, log 169). -/
def putCoded (id : Nat) (bytes : List Byte) (d : W32) (n : Nat) (s : State) : State :=
  match reqAt s id with
  | none => s
  | some q =>
    if q.filter ∨ gCodeOut q.desc = false ∨ descRaw d = false then putBlock id bytes d n s
    else
      let t : BitVec 3 := BitVec.ofNat 3 (leAt q.desc 11 1)
      match boundTable s q.pen t with
      | none => stopReq id 3 s
      | some x => match encodeBlock x.lens x.tag t bytes with
        | some c => putBlock id (padTo 4096 c) (codedDesc c.length t (descScale d)) n s
        | none => putBlock id bytes d n s

/-- The EBI format of the packed output, when it has one. -/
def outFmt (q : UnitReq) : Option Fmt :=
  if q.filter then none
  else match fmtOf (if gAction q.desc = 2 then gOut q.desc else gIn q.desc) with
    | some f => if isEbi f then some f else none
    | none => none

/-- Element bytes and scale words packed into one block of R201 or R172, and what they count in the status. -/
def packOut (q : UnitReq) (elems : List Byte) (scales : List (BitVec 16)) : List Byte :=
  match outFmt q with
  | some f => padTo (scaleOff f) elems ++ padTo (4096 - scaleOff f) ((scales.map fun w => toLe 2 w.toNat).flatten)
  | none => padTo 4096 elems

/-- The element bytes and the scale words of a full output block. -/
def outCap (q : UnitReq) : Nat × Nat := match outFmt q with | some f => (scaleOff f, chunkBlocks f) | none => (4096, 0)

/-- The bytes of a filter's result entry. -/
def entrySize (q : UnitReq) : Nat :=
  if fOp q.desc = 0 then (if fRecords q.desc then fSize q.desc else 4)
  else if fOp q.desc = 2 ∧ fRecords q.desc ∧ fPart q.desc = 1 then 128 else 16

/-- What packed output counts: bytes that hold data, or result entries. -/
def outCount (q : UnitReq) (elems : List Byte) (scales : List (BitVec 16)) : Nat :=
  if q.filter then elems.length / entrySize q else elems.length + 2 * scales.length

/-- Full output blocks leave, at most `n`; with `last`, what remains leaves in a padded block. -/
def flushOut : Nat → Bool → Nat → State → State
  | 0, _, _, s => s
  | n + 1, last, id, s =>
    match reqAt s id with
    | none => s
    | some q =>
      let (c, w) := outCap q
      if q.elems.length < c ∧ (last = false ∨ q.elems.isEmpty) then s
      else
        let e := q.elems.take c
        let x := q.scales.take w
        flushOut n last id (putCoded id (packOut q e x) rawDesc (outCount q e x)
          (modReq id (fun q => { q with elems := q.elems.drop c, scales := q.scales.drop w }) s))

/-! ## A gather's entries (R198, R200) -/

/-- Selected EBI blocks of an element block: their bytes with their scale words. -/
def selBlocks (f : Fmt) (d : List Byte) (elem scale : List Byte) (b : Nat) : List (List Byte × BitVec 16) :=
  let w := blockBytes f
  let so := b * scaleBytes f % 4096
  (List.range (gSelLen d / w)).map fun i =>
    let k := gSelOff d / w + i
    ((elem.drop (k * w)).take w, fieldLe 16 scale (so + 2 * k) 2)

/-- One EBI block requantised for output element ordinals from `pos` on (R147, R200). -/
def requantBlock (s : State) (q : UnitReq) (fin fout : Fmt) (pos : Nat) (b : List Byte × BitVec 16) : Quant :=
  let stream : BitVec 16 := 0x4000 + BitVec.ofNat 16 (bitsOf (leAt q.desc 4 2) 13 0)
  requant ((elemsOf fin b.1 32).map fun v => v * scaleM b.2) (scaleE b.2) (qmax fout) (gRmode q.desc)
    fun i => rand16 (pen s q.pen).seed q.step stream (pos + i)

/-- The output of one entry joins what is not yet packed. -/
def emitEntry (id : Nat) (s : State) : State :=
  match reqAt s id with
  | none => s
  | some q =>
    let elem := q.pieces.headD []
    let scale := (q.pieces.drop 1).headD []
    let b := (q.index.drop q.done).headD 0
    let d := q.desc
    let step (q : UnitReq) : UnitReq := { q with done := q.done + 1, pieces := [] }
    match scaleFmt q with
    | none => flushOut 4 false id (modReq id (fun q => step { q with elems := q.elems ++ (elem.drop (gSelOff d)).take (gSelLen d) }) s)
    | some f =>
      let bs := selBlocks f d elem scale b
      if gAction d = 1 then
        flushOut 4 false id (modReq id (fun q => step { q with elems := q.elems ++ (bs.map (·.1)).flatten,
                                                                scales := q.scales ++ bs.map (·.2) }) s)
      else
        let fo := (fmtOf (gOut d)).getD .ebi8
        let qs := (List.range bs.length).map fun i => requantBlock s q f fo (q.pos + 32 * i) (bs.getD i ([], 0))
        let sats := (qs.filter (·.sat)).length
        let s := if 0 < sats then reqEvent q 0 (modReqUnit q (fun n => { n with cnt3 := satAdd n.cnt3 sats }) s) else s
        flushOut 8 false id (modReq id (fun q => step { q with
          elems := q.elems ++ (qs.map fun x => packElems fo x.q).flatten
          scales := q.scales ++ qs.map fun x => mkScale x.e x.m
          pos := q.pos + 32 * bs.length
          sat := q.sat || decide (0 < sats) }) s)

/-- A decode error or an unbound table: what precedes the entry is still put out, nothing after it. -/
def breakReq (id st : Nat) (s : State) : State :=
  match reqAt s id with
  | none => s
  | some q =>
    let s := stopReq id st s
    modReq id (fun r => { r with elems := q.elems, scales := q.scales }) s

/-- A fetched block as its unit reads it: zeros where the Loft cells' tag is not the request's Pen (R353). -/
def cellData (q : UnitReq) (f : Fetch) : Option (List Byte × W32) :=
  if f.cell = some q.pen then f.data else f.data.map fun x => (List.replicate x.1.length 0, x.2)

/-- A block's fetched data. -/
def partOf (q : UnitReq) (entry : Nat) (part : FetchPart) : Option (List Byte × W32) :=
  (q.fetches.find? fun f => f.entry == entry && f.part == part).bind (cellData q)

/-- An entry's fetches are over. -/
def clearFetches (id entry : Nat) (s : State) : State :=
  modReq id (fun q => { q with fetches := q.fetches.filter fun f => ¬ (f.entry = entry ∧ ¬ f.part = .index) }) s

/-- The fetched blocks of an entry; none while one is missing. -/
def entryData (q : UnitReq) (entry : Nat) : Option ((List Byte × W32) × Option (List Byte × W32)) :=
  match partOf q entry .elem with
  | none => none
  | some e => match scaleFmt q with
    | none => some (e, none)
    | some _ => (partOf q entry .scale).map fun x => (e, some x)

/-- The gather's next entry passes, or enters the expander; none where nothing can. -/
def enterEntry (q : UnitReq) (u : UnitIx) (s : State) : Option State :=
  match (if q.enq < q.next then entryData q q.enq else none) with
  | none => none
  | some (e, sc) =>
    if gAction q.desc = 0 then
      let s := modReq q.id (fun q => { q with enq := q.enq + 1, done := q.done + 1 }) (clearFetches q.id q.enq s)
      some (putCoded q.id e.1 e.2 4096 s)
    else
      let x := ExpRef.gather q.shed u
      let p := tablePen s q
      let s1 := enqueueBlock x { slot := q.id, pen := p, desc := e.2, bytes := e.1 } s
      let s2 := match sc with
        | none => s1
        | some w => s1.bind (enqueueBlock x { slot := q.id, pen := p, desc := w.2, bytes := w.1 })
      match s2 with
      | none => some (cutReq q.id q.enq 3 s)
      | some s => some (modReq q.id (fun q => { q with enq := q.enq + 1 }) (clearFetches q.id q.enq s))

/-- The unit's expander delivers a piece of the gather's next entry; none where it cannot. -/
def takePiece (q : UnitReq) (u : UnitIx) (s : State) : Option State :=
  if q.enq ≤ q.done ∨ gAction q.desc = 0 then none
  else match deliverBlock (.gather q.shed u) q.id s with
    | (.wait, _) => none
    | (.data b, s) =>
      let full := q.pieces.length + 1 == if (scaleFmt q).isSome then 2 else 1
      let s := modReq q.id (fun q => { q with pieces := q.pieces ++ [b] }) s
      some (if full then emitEntry q.id s else s)
    | (d, s) =>
      let s := if d = .bad then reqEvent q 1 (modReqUnit q (fun n => { n with cnt2 := satInc n.cnt2 }) s) else s
      some (breakReq q.id (if d = .bad then 2 else 3) s)

/-! ## A filter's entries (R206 to R210) -/

/-- A predicate holds for a record. -/
def predHolds (p rec : List Byte) : Bool :=
  let w := bitsOf (leAt p 1 1) 3 0
  let read (bs : List Byte) (off : Nat) : Int :=
    let n := leAt bs off w
    if (leAt p 1 1).testBit 7 then signedOf (8 * w) n else n
  let v := read rec (leAt p 2 2)
  let a := read p 8
  let b := read p 16
  match leAt p 0 1 with
  | 0 => v == a
  | 1 => v != a
  | 2 => decide (v < a)
  | 3 => decide (v ≤ a)
  | 4 => decide (a < v)
  | 5 => decide (a ≤ v)
  | _ => decide (a ≤ v) && decide (v ≤ b)

/-- A record passes. -/
def passes (q : UnitReq) (rec : List Byte) : Bool := (List.range (fPreds q.desc)).all fun i => predHolds (predAt q i) rec

/-- A candidate's exact value (R142). -/
def candValue (ebi : Bool) (c : Cand) : Int × Int := if ebi then (c.value * scaleM c.scale, scaleE c.scale) else (c.value, 0)

/-- A candidate stands before another in selection order (R208). -/
def candBefore (ebi smallest : Bool) (a b : Cand) : Bool :=
  let x := candValue ebi a
  let y := candValue ebi b
  if valueLt x y then smallest else if valueLt y x then !smallest else decide (a.index < b.index)

/-- A candidate takes its place among the k best. -/
def insertCand (ebi smallest : Bool) (c : Cand) : List Cand → List Cand
  | [] => [c]
  | x :: xs => if candBefore ebi smallest c x then c :: x :: xs else x :: insertCand ebi smallest c xs

/-- The k best with more candidates. -/
def addCands (q : UnitReq) (cs : List Cand) : List Cand :=
  cs.foldl (fun l c => (insertCand (ebiTopk q.desc) (fSmallest q.desc) c l).take (fK q.desc)) q.best

/-- The records of a block: index and bytes. -/
def blockRecs (q : UnitReq) (b : List Byte) : List (Nat × List Byte) :=
  let n := 4096 / fSize q.desc
  (List.range n).map fun i => ((q.done * n + i) % 2 ^ 32, (b.drop (i * fSize q.desc)).take (fSize q.desc))

/-- The candidates of an EBI block: every element. -/
def ebiCands (q : UnitReq) (f : Fmt) (elem scale : List Byte) (b : Nat) : List Cand :=
  let n := 32 * (4096 / blockBytes f)
  let so := b * scaleBytes f % 4096
  (List.range n).map fun i =>
    { value := elemAt f elem i, scale := fieldLe 16 scale (so + 2 * (i / 32)) 2, index := (q.done * n + i) % 2 ^ 32 }

/-- A TOPK entry. -/
def topkEntry (ebi : Bool) (c : Cand) : List Byte :=
  (if ebi then toLe 2 (rawOf 16 c.value) ++ toLe 2 c.scale.toNat ++ [0, 0, 0, 0] else toLe 8 (rawOf 64 c.value))
    ++ toLe 4 c.index ++ [0, 0, 0, 0]

/-- The 160-bit key of a record. -/
def recKey (q : UnitReq) (rec : List Byte) : BitVec 160 := fieldLe 160 rec (fOff q.desc) 20

/-- The output bytes of one LOOKUP; none where the session that it found is not Active (R224). -/
def lookupEntry (s : State) (q : UnitReq) (i : Nat) (m : Option MRow) : Option (List Byte) :=
  if fRecords q.desc ∧ fPart q.desc = 1 then
    match m with
    | none => some (List.replicate 128 0)
    | some r => (activeSession s (r.result.setWidth 32)).bind fun slot => (sessionAt s slot).map (sessionRecord slot)
  else some (match m with
    | some r => toLe 8 r.result.toNat ++ toLe 4 i ++ [1, 0, 0, 0]
    | none => toLe 8 0 ++ toLe 4 i ++ [0, 0, 0, 0])

/-- The LOOKUPs of records, in order. -/
def lookups (id : Nat) (q : UnitReq) (corrupt : List (ShedIx × Nat)) : List (Nat × List Byte) → State → State
  | [], s => s
  | (i, r) :: rs, s =>
    let (m, s) := matchSearch (fPart q.desc) q.pen (recKey q r) corrupt s
    let s := modReqUnit q (fun n => { n with cnt2 := satInc n.cnt2, cnt3 := satAdd n.cnt3 (bitNat m.isSome) }) s
    match lookupEntry s q i m with
    | some e => lookups id q corrupt rs (flushOut 2 false id (modReq id (fun q => { q with elems := q.elems ++ e }) s))
    | none => cutReq id (q.done + 1) 4 s

/-- The filter works through a plain block. -/
def filterBlock (q : UnitReq) (elem : List Byte) (scale : List Byte) (corrupt : List (ShedIx × Nat)) (s : State) : State :=
  let id := q.id
  match scaleFmt q with
  | some f =>
    let b := (q.index.drop q.done).headD 0
    modReq id (fun q => { q with best := addCands q (ebiCands q f elem scale b) }) s
  | none =>
    let recs := blockRecs q elem
    let good := recs.filter fun r => passes q r.2
    let s := modReq id (fun q => { q with records := q.records + recs.length }) s
    if fOp q.desc = 0 then
      let out := (good.map fun r => if fRecords q.desc then r.2 else toLe 4 r.1).flatten
      flushOut 4 false id (modReq id (fun q => { q with elems := q.elems ++ out }) s)
    else if fOp q.desc = 1 then
      let w := if fFormat q.desc = 3 then 4 else 8
      let cs := good.map fun r => ({ value := signedOf (8 * w) (leAt r.2 (fOff q.desc) w), index := r.1 } : Cand)
      modReq id (fun q => { q with best := addCands q cs }) s
    else lookups id q corrupt good s

/-- The filter takes its next block; none where it cannot: the block is missing, or a search waits for a lost bank's
entries (R220). -/
def filterEntry (q : UnitReq) (corrupt : List (ShedIx × Nat)) (s : State) : Option State :=
  match (if q.done < q.next then entryData q q.done else none) with
  | none => none
  | some (e, sc) =>
    match plainBlock s q e.1 e.2, (match sc with | some w => plainBlock s q w.1 w.2 | none => .inr []) with
    | .inr b, .inr w =>
      if fOp q.desc = 2 ∧ (blockRecs q b).any (fun r => passes q r.2 && searchWaits s (fPart q.desc) q.pen (recKey q r.2)) then none
      else
        let s := filterBlock q b w corrupt (clearFetches q.id q.done s)
        some (modReq q.id (fun q => { q with done := q.done + 1, enq := q.done + 1 }) s)
    | .inl st, _ => some (cutReq q.id q.done st (if st = 2 then reqEvent q 1 s else s))
    | _, .inl st => some (cutReq q.id q.done st (if st = 2 then reqEvent q 1 s else s))

/-! ## Fetching ahead (R198, R199) -/

/-- Index entry i, once known. -/
def indexEntry (q : UnitReq) (i : Nat) : Option Nat := if q.seq then some i else (q.index.drop i).head?

/-- The Pool Address of an entry's block; none where it is out of range. -/
def entryAddr (q : UnitReq) (b : Nat) : Option Nat :=
  let a : Option Nat := if uPaddr q then (if b % 4096 = 0 then some b else none) else q.front.map fun f => f + b * 4096
  a.bind fun a => if a < 2 ^ 56 then some a else none

/-- Entries of the index vector from bytes. -/
def entriesOf (w : Nat) (bs : List Byte) : List Nat := (List.range (bs.length / w)).map fun i => leAt bs (i * w) w

/-- A block of the index vector has arrived: its entries are known. -/
def takeIndex (q : UnitReq) (s : State) : Option State :=
  match q.fetches.find? fun f => f.part == .index && f.data.isSome with
  | none => none
  | some f =>
    match cellData q f with
    | none => none
    | some (bytes, d) =>
      match plainBlock s q bytes d with
      | .inl st => some (cutReq q.id q.next st (if st = 2 then reqEvent q 1 s else s))
      | .inr b =>
        let b := if f.entry = 0 then b.drop (uIndexAddr q % 4096) else b
        some (modReq q.id (fun q => { q with
          index := (q.index ++ entriesOf (uEntry q) b).take (uCount q)
          fetches := q.fetches.filter fun g => ¬ g.part = .index }) s)

/-- The next fetch begins; none where none may. -/
def fetchNext (q : UnitReq) (s : State) : Option State :=
  let pend := (q.fetches.filter fun f => f.part = .elem).length + (q.enq - q.done) + q.port.length
  if q.ending.isSome ∨ uCount q ≤ q.next ∨ effective s 0x20703 ≤ pend then none
  else match indexEntry q q.next with
    | none =>
      if uIndirect q = false ∨ q.fetches.any (fun f => f.part == .index) then none
      else some (startFetch q.id q.idxBlocks .index ((uIndexAddr q / 4096 + q.idxBlocks) * 4096)
        (modReq q.id (fun q => { q with idxBlocks := q.idxBlocks + 1 }) s))
    | some b =>
      match entryAddr q b with
      | none => some (cutReq q.id q.next 5 s)
      | some a =>
        let s := startFetch q.id q.next .elem a (modReq q.id (fun q => { q with next := q.next + 1 }) s)
        match scaleFmt q with
        | none => some s
        | some f =>
          let w := uScale q + b * scaleBytes f
          if 2 ^ 56 ≤ w then some (cutReq q.id q.next 5 s) else some (startFetch q.id q.next .scale (w / 4096 * 4096) s)

/-! ## A request goes on -/

/-- The rest of the output, and the status. -/
def finishReq (q : UnitReq) (st : Nat) (s : State) : Option State :=
  if q.done ≠ q.next then none
  else if q.best ≠ [] then
    let out := (q.best.map (topkEntry (ebiTopk q.desc))).flatten
    some (flushOut 18 false q.id (modReq q.id (fun q => { q with best := [], elems := q.elems ++ out }) s))
  else if q.elems ≠ [] then some (flushOut 4 true q.id s)
  else if q.writes ≠ [] ∨ q.port ≠ [] then none
  else some (endReq q st s)

/-- What a running request does next; none where it waits. -/
def pumpOne (q : UnitReq) (u : UnitIx) (corrupt : List (ShedIx × Nat)) (s : State) : Option State :=
  let work := if q.filter then filterEntry q corrupt s
    else match takePiece q u s with
      | some s => some s
      | none => enterEntry q u s
  match work with
  | some s => some s
  | none =>
    match takeIndex q s with
    | some s => some s
    | none =>
      match fetchNext q s with
      | some s => some s
      | none =>
        match q.ending with
        | some st => finishReq q st s
        | none => if uCount q ≤ q.done then some (modReq q.id (fun q => { q with ending := some 0 }) s) else none

/-- A running request goes on as far as it can; at most `n` actions. -/
def pump : Nat → Nat → List (ShedIx × Nat) → State → State
  | 0, _, _, s => s
  | n + 1, id, corrupt, s =>
    match reqAt s id with
    | none => s
    | some q =>
      match q.unit with
      | none => s
      | some u => if q.running = false then s else match pumpOne q u corrupt s with
        | some s => pump n id corrupt s
        | none => s

/-- Actions that suffice between two events: the blocks that a request may hold, with their pieces and output. -/
def pumpFuel : Nat := 1000

/-- A request starts in its unit: the descriptor is checked, then the session, the window and the partition (R197, R198,
R211, R225). -/
def startReq (id : Nat) (s : State) : State :=
  match reqAt s id with
  | none => s
  | some q =>
    let s := modReq id (fun q => { q with
      running := true
      index := if uIndirect q ∨ q.seq then [] else entriesOf (uEntry q) ((uInline q).take (uEntry q * uCount q)) }) s
    let sess := (activeSession s q.session).filter fun slot => ((sessionAt s slot).map (·.pen)) == some q.pen
    if (if q.filter then filterBad s q else gatherBad s q) then endReq q 1 s
    else if q.session ≠ 0 ∧ sess.isNone then endReq q 4 s
    else
      let s := modReq id (fun q => { q with sess := if q.session = 0 then none else sess }) s
      if q.front.isNone then cutReq id 0 5 s
      else if q.filter ∧ fOp q.desc = 2 ∧ (fPart q.desc = 0 ∨ (mpart s (fPart q.desc)).kind = 0) then cutReq id 0 7 s
      else s

/-- Queued requests of a unit start while fewer than 16 run; at most `n`. -/
def refill : Nat → ShedIx → UnitKind → UnitIx → State → State
  | 0, _, _, _, s => s
  | n + 1, sh, k, u, s =>
    let rs := unitReqs s sh k u
    if 16 ≤ (rs.filter (·.running)).length then s
    else match rs.find? fun q => !q.running with
      | none => s
      | some q => refill n sh k u (pump pumpFuel q.id [] (startReq q.id s))

/-- A request goes on, and when it ends its unit takes the next. -/
def runReq (id : Nat) (corrupt : List (ShedIx × Nat)) (s : State) : State :=
  match reqAt s id with
  | none => s
  | some q =>
    let s := pump pumpFuel id corrupt s
    match q.unit with
    | some u => refill 64 q.shed (reqKind q) u s
    | none => s

/-- A request joins a unit of its Shed, or waits in the Loft. -/
def placeReq (id : Nat) (s : State) : State :=
  match reqAt s id with
  | none => s
  | some q =>
    match takeOne (pickUnits s q.shed (reqKind q)) s with
    | (none, s) => s
    | (some u, s) => refill 64 q.shed (reqKind q) u (modReq id (fun q => { q with unit := some u }) s)

/-- A request is new. -/
def addReq (q : UnitReq) (s : State) : State :=
  let id := s.work.nextReq
  pfcSettle (placeReq id { s with work := { s.work with nextReq := id + 1, reqs := s.work.reqs ++ [{ q with id }] } })

/-! ## Commands -/

/-- The window front of R198, read when the request passes station 8: what replaces ELEM_BASE. -/
def windowFront (s : State) (q : UnitReq) : Option Nat :=
  if q.filter ∨ gWindow q.desc = false then some (uElem q)
  else match aGet s.pool.windows (fieldLe 32 q.desc 44 4) with
    | none => none
    | some w =>
      let l := w.front + leAt q.desc 15 1
      if w.pen ≠ q.pen ∨ (w.wrap = false ∧ w.layers ≤ l) then none
      else some ((w.ext.2.toNat + l % w.layers * w.stride) * 2 ^ 21)

/-- A gather or filter after station 8. -/
def doUnitReq (op : BitVec 8) (filter : Bool) (p : Rx) (s : State) : State :=
  let q : UnitReq := { id := 0, src := .cmx op p, filter, pen := p.pen, cls := p.cls, handle := p.handle, step := p.step,
                       session := p.group, desc := p.payload.take 64, tail := p.payload.drop 64, shed := 0 }
  addReq { q with shed := reqShed s p q, front := windowFront s q } s

/-- GATHER_REQ. -/
def execGatherReq (p : Rx) (s : State) : Res := .next (request 0x28 p (doUnitReq 0x28 false) s)

/-- FILTER_REQ. -/
def execFilterReq (p : Rx) (s : State) : Res := .next (request 0x30 p (doUnitReq 0x30 true) s)

/-- REQUEST_TO_UNIT: the oldest request of a kind that waits in a Shed's Loft is taken once a unit has room. -/
def execRequestToUnit (sh : ShedIx) (k : UnitKind) (s : State) : Res :=
  match s.work.reqs.find? fun q => q.shed == sh && reqKind q == k && q.unit.isNone with
  | some q => .next (pfcSettle (placeReq q.id s))
  | none => .next s

/-- A unit takes the end of one of its accesses: a fetched block, or a write that has been applied; an error ends the
request with a NACK (R70), a removed key without an answer (R361). -/
def takeEnd (id : Nat) (filter : Bool) (corrupt : List (ShedIx × Nat)) (s : State) : State :=
  match jobAt s id with
  | none => s
  | some j =>
    let rid : Option Nat := match j.orig with | .fetch r => some r | .out r => some r | _ => none
    match rid.bind (reqAt s), j.result with
    | some q, some r =>
      if q.filter ≠ filter then s
      else
        let s := dropJob id s
        let more (s : State) : State := match q.unit with | some u => refill 64 q.shed (reqKind q) u s | none => s
        match r with
        | .ok bytes =>
          let put (f : Fetch) : Fetch := if f.job = id then { f with data := some (bytes, j.got), cell := some q.pen } else f
          runReq q.id corrupt (modReq q.id (fun q => { q with fetches := q.fetches.map put, writes := q.writes.erase id }) s)
        | .err reason d => more (nackReq q reason 9 d s)
        | .refused reason st d => more (nackReq q reason st d s)
        | .discarded => more (quietReq q s)
    | _, _ => s

/-- GATHER_FETCH_DONE. -/
def execGatherFetchDone (id : Nat) (s : State) : Res := .next (takeEnd id false [] s)

/-- FILTER_FETCH_DONE; `corrupt` names the rows whose check fails when a search verifies them. -/
def execFilterFetchDone (id : Nat) (corrupt : List (ShedIx × Nat)) (s : State) : Res := .next (takeEnd id true corrupt s)

end Sys2Proof.Machine
end

