-- ==== Sys2Proof/Machine/Partners.lean ====
section
/-! DEFINITION. Partners and their pairs: PARTNER_HELLO (R85, R86, R418 to R420), the retransmission timer and the failure
of a pair (R89), and the end of the detach hold time (R421, R63). -/

namespace Sys2Proof.Machine

/-! ## A pair ends or restarts (R85, R89) -/

/-- A stored request of a node is carried to its end, its responses discarded. -/
def muteOf (n : Node) (rx : Rx) : Rx := if rx.src = n then mute rx else rx

/-- The requests of a node that have begun executing answer no more. -/
def muteNode (n : Node) (s : State) : State :=
  let job (j : Job) : Job := match j.orig with | .cmx op rx => { j with orig := .cmx op (muteOf n rx) } | _ => j
  let req (q : UnitReq) : UnitReq := match q.src with | .cmx op rx => { q with src := .cmx op (muteOf n rx) } | .port _ _ => q
  let chunk (c : Chunk) : Chunk := { c with arrived := c.arrived.map fun a => (muteOf n a.1, a.2) }
  let group (g : Group) : Group :=
    { g with opened := g.opened.map chunk, upward := g.upward.map fun u => (u.1, u.2.1, u.2.2.1, u.2.2.2.map (muteOf n))
             waiting := g.waiting.map fun u => (u.1, u.2.1, u.2.2.1, u.2.2.2.1, u.2.2.2.2.map (muteOf n)) }
  let recall_ (r : Recall) : Recall := { r with rx := muteOf n r.rx }
  let inval (v : Inval) : Inval := { v with rx := muteOf n v.rx }
  { s with pool := { s.pool with jobs := s.pool.jobs.map job, recalls := s.pool.recalls.map recall_ },
           share := { s.share with invals := s.share.invals.map inval },
           work := { s.work with reqs := s.work.reqs.map req },
           groups := s.groups.map fun g => (g.1, group g.2) }

/-- A waiting CMX request of a node. -/
def waitsFrom (n : Node) (w : Option (Fin 4) × Waiting) : Bool := match w.2 with | .cmx _ rx => rx.src == n | _ => false

/-- A request of a node that its unit has not begun. -/
def unbegun (n : Node) (q : UnitReq) : Bool := match q.src with | .cmx _ rx => rx.src == n && !q.running | .port _ _ => false

/-- Requests that end without effect, each finished under its epoch (R102). -/
def finishAll (rs : List Rx) (s : State) : State := rs.foldl (fun s rx => finishEpoch rx.epoch s) s

/-- The requests of a node that have not begun are discarded: those that wait for a home slot or the control area, those
that its pair holds, and those that no unit has begun. -/
def dropUnbegun (n : Node) (s : State) : State :=
  let ws := (s.share.waiting.filter (waitsFrom n)).filterMap fun w => match w.2 with | .cmx _ rx => some rx | _ => none
  let held : List Rx := match aGet s.pairs n with | some p => p.held.map (·.rx) | none => []
  let s := finishAll (ws ++ held) { s with share := { s.share with waiting := s.share.waiting.filter fun w => !waitsFrom n w } }
  let s := modPair n (fun p => { p with held := [] }) s
  (s.work.reqs.filter (unbegun n)).foldl (fun s q => quietReq q s) s

/-- The responses to a node that wait to be sent are discarded. -/
def dropQueued (n : Node) (s : State) : State :=
  let mine (f : QFrame) : Bool := match f.body with | .own d _ _ _ => d == n | _ => false
  let fs := s.sw.voqs.flatMap fun v => v.2.frames.filter mine
  let back : List (BitVec 16) := match aGet s.pairs n with
    | some p => p.backlog.filterMap fun b => if b.fin then some b.pkt.epoch else none
    | none => []
  let s := { s with sw := { s.sw with voqs := s.sw.voqs.map fun v => (v.1, { v.2 with frames := v.2.frames.filter fun f => !mine f }) } }
  let s := modPair n (fun p => { p with backlog := [], unacked := [] }) (fs.foldl (fun s f => finishFrame f s) (clearDeficits s))
  back.foldl (fun s e => finishEpoch e s) s

/-- The device's own requests to a node have no answer to come (R71, R85): what waited for them fails. -/
def failOwn (n : Node) (s : State) : State :=
  let rs := s.pool.devReqs.filter fun r => r.node = n
  let s := { s with pool := { s.pool with devReqs := s.pool.devReqs.filter fun r => ¬ r.node = n } }
  rs.foldl (fun s r => devFailed r false 3 s) s

/-- What the end of a pair and its restart have in common. -/
def quietPair (n : Node) (s : State) : State := muteNode n (dropQueued n (dropUnbegun n s))

/-- The pair of a node is declared failed (R89). -/
def failPair (n : Node) (s : State) : State :=
  if (aGet s.pairs n).isNone then s else pfcSettle (failOwn n (dropPair n (quietPair n s)))

/-! ## Retransmission (R89) -/

/-- A partner's counts of a timer expiry, and of a pair failure (R387, R388). -/
def countExpiry (n : Node) (s : State) : State :=
  modPartner n (fun p => { p with expiries := satInc p.expiries, wExpiries := p.wExpiries + 1 }) s
def countPairFail (n : Node) (s : State) : State :=
  modPartner n (fun p => { p with pairFails := satInc p.pairFails, wFails := p.wFails + 1 }) s

/-- RETRANSMIT_TIMER_EXPIRY: the packet is sent again; its twelfth expiry fails the pair, or that of R109's setting. The
timers of a node stand still while its home slot is being rebuilt (R16). -/
def execRetransmitTimerExpiry (n : Node) (seq : W32) (s : State) : Res :=
  match aGet s.pairs n with
  | none => .next s
  | some pr =>
    match pr.unacked.find? (fun x => x.seq == seq) with
    | none => .next s
    | some x =>
      if slotMoving s (nodeSlot n) then .next s
      else
      let t := countExpiry n s
      if effective s 0x20303 ≤ x.expiries + 1 then .next (failPair n (countPairFail n t))
      else
        let mark (y : Sent) : Sent := if y.seq = seq then { y with expiries := y.expiries + 1 } else y
        .next (route n seq x.pkt { own := x.own } (modPair n (fun p => { p with unacked := p.unacked.map mark }) t))

/-! ## PARTNER_HELLO (R418 to R420) -/

def helloRole (b : List Byte) : Nat := beAt b 0 1
def helloMax (b : List Byte) : Nat := min 2048 (beAt b 2 2)
def helloId (b : List Byte) : BitVec 128 := BitVec.ofNat 128 (beAt b 16 16)
def helloNonce (b : List Byte) : BitVec 128 := BitVec.ofNat 128 (beAt b 32 16)
def helloEcho (b : List Byte) : BitVec 128 := BitVec.ofNat 128 (beAt b 48 16)
def helloKey (b : List Byte) : List Byte := (b.drop 64).take 1793

/-- A secure channel is up on the Hello's port under an installed CAK (R366). -/
def mkaUp (s : State) (p : PortIx) : Bool := match (port s p).secy with | some c => s.sec.caks.any fun k => k.ckn == c.ckn | none => false

/-- The key's digest is in the trusted-key list. -/
def trustedKey (s : State) (key : List Byte) : Bool :=
  let d := bytesOf (Config.digest key)
  (List.range 256).any fun i => jValue s (0x80000 + i) == some d

/-- The device's latest nonce to a node, 0 before it sent one. -/
def sentNonce (s : State) (n : Node) : BitVec 128 := ((aGet s.partners n).map (·.sent)).getD 0

/-- The Hello is signed by a trusted key, and echoes the device's latest nonce to its node. -/
def signedOk (s : State) (n : Node) (b : List Byte) : Bool :=
  beAt b 1 1 == 2 && trustedKey s (helloKey b) && helloEcho b == sentNonce s n
    && Config.falconVerify (helloKey b) (Config.digest (b.take 1864)) ((b.drop 1864).take 1280)

/-- The port's AUTH setting admits the Hello (R419): open, MKA or signed, MKA only, signed only. -/
def authOk (s : State) (n : Node) (p : PortIx) (b : List Byte) : Bool :=
  let a := (port s p).auth
  if a = 0 then true
  else if a = 1 then mkaUp s p || signedOk s n b
  else if a = 2 then mkaUp s p
  else signedOk s n b

/-- The record of a partner that is not absent. -/
def presentPartner (s : State) (n : Node) : Option Partner := (aGet s.partners n).filter fun q => q.state ≠ .absent

/-- R420: the node is admitted on another port with another device id, or changes its role. -/
def clashes (s : State) (n : Node) (p : PortIx) (b : List Byte) : Bool :=
  match presentPartner s n with
  | some q => q.role.toNat ≠ helloRole b || (q.deviceId ≠ helloId b && q.ports.any fun x => x ≠ p)
  | none => false

/-- The device refuses the Hello. A role of no meaning, and a payload without all its fields, fail the check too. -/
def helloRefused (s : State) (p : Rx) : Bool :=
  let b := p.payload
  b.length ≠ 3144 || decide (4 < helloRole b) || beAt b 2 2 == 0 || !authOk s p.src p.port b || clashes s p.src p.port b

/-- A refused Hello: PRT_STAT, PRT_EVT and event 0x0103; no Hello answers it. -/
def refuseHello (p : Rx) (s : State) : State :=
  let s := if (presentPartner s p.src).any (fun q => q.ports.contains p.port) then s else modPort p.port (fun q => { q with partner := 3 }) s
  codedD 0x103 (lniOf (portShed p.port)) 0 p.src.toNat 0 0 (setPrtEvt 2 p.src.toNat p.port s)

/-- The device's Hello on a port, up to its signature. -/
def helloBody (s : State) (p : PortIx) (nonce echo : BitVec 128) : List Byte :=
  [3, 2] ++ toBe 2 2048 ++ toBe 4 (capsWord s p).toNat ++ List.replicate 8 0 ++ bytesOf Config.deviceId ++ bytesOf nonce
    ++ bytesOf echo ++ bytesOf Config.identityKey ++ List.replicate 7 0

/-- The device answers with its own Hello: a fresh nonce, and the first sequence number of its numbering. -/
def answerHello (p : Rx) (first : W32) (s : State) : State :=
  let (nonce, s) := takeFree 128 s
  let b := helloBody s p.port nonce (helloNonce p.payload)
  let out := b ++ bytesOf (Config.falconSign (Config.digest b))
  route p.src first { htype := 2, op := 0x50, cls := p.cls, epoch := s.routes.current.epoch, length := BitVec.ofNat 16 out.length, payload := out } {}
    (modPartner p.src (fun q => { q with sent := nonce }) s)

/-- A port that another partner had is that partner's no more. -/
def takePort (n : Node) (p : PortIx) (s : State) : State :=
  (s.partners.filter fun q => decide (q.1 ≠ n) && q.2.ports.contains p).foldl (fun s q =>
    let s := modPartner q.1 (fun x => { x with ports := x.ports.erase p }) s
    match presentPartner s q.1 with
    | some x => holdIfDown q.1 x (lniOf (portShed p)) s
    | none => s) s

/-- The partner's record after the Hello: the health score and the counts start (R387, R388). -/
def admitPartner (p : Rx) (s : State) : State :=
  let b := p.payload
  let ports := match presentPartner s p.src with
    | some q => if q.ports.contains p.port then q.ports else q.ports ++ [p.port]
    | none => [p.port]
  let role : BitVec 3 := BitVec.ofNat 3 (helloRole b)
  let q : Partner := { role, deviceId := helloId b, nonce := helloNonce b, sent := sentNonce s p.src, caps := BitVec.ofNat 32 (beAt b 4 4), ports }
  let s := { s with partners := aSet s.partners p.src q }
  ports.foldl (fun s k => modPort k (fun x => { x with partner := 1, node := p.src, role }) s) s

/-- A flash tray's layer runs in the Shed of the port on which it was first admitted (R65). -/
def placeTray (p : Rx) (s : State) : State :=
  if helloRole p.payload = 2 ∧ (aGet s.pool.trays p.src).isNone then modTray p.src (fun t => { t with shed := portShed p.port }) s else s

/-- The peer channels of a node are reset (R334). -/
def resetPeer (n : Node) (s : State) : State :=
  ((List.range 32).map fun i => (Fin.ofNat 160 (128 + i) : ChanIx)).foldl (fun s c =>
    if (chan s c).bound ∧ (chan s c).peerNode = n then resetChannel c s else s) s

/-- Both sequence spaces start (R85): the node's at the SEQ of its Hello, the device's at a random number. -/
def startPair (p : Rx) (first : W32) (s : State) : State :=
  let m := helloMax p.payload
  let pr : Pair := { rxCum := p.seq - 1, settled := p.seq - 1, txNext := first, maxOut := m, window := m }
  let s := failOwn p.src (quietPair p.src s)
  { s with pairs := aSet s.pairs p.src pr }

/-- A Hello that passes its check. -/
def acceptHello (p : Rx) (s : State) : State :=
  let s := recordPacket 0x50 p s
  let (first, s) := takeFree 32 s
  let s := resetPeer p.src (startPair p first s)
  let s := placeTray p (admitPartner p (takePort p.src p.port s))
  let s := codedD 0x102 (lniOf (portShed p.port)) 0 p.src.toNat 0 0 (setPrtEvt 1 p.src.toNat p.port s)
  evalLevel (pfcSettle (answerHello p first s))

/-- PARTNER_HELLO: header type 2, exempt from station 4 and from the pair's check. -/
def execPartnerHello (p : Rx) (s : State) : Res :=
  if rxArrives s p = false then .next s
  else if (port s p.port).macsec ∧ p.l2.macsecOk = false then .next (sampleRx p true (drop2 p s))
  else if headersOk s 0x50 2 p = false then .next (sampleRx p true (drop3 p s))
  else
    let s := sampleRx p false s
    if (aGet s.pairs p.src).isNone ∧ 65536 ≤ s.pairs.length then
      .next (codedD 0x12 (shcOf (homeMap s (nodeSlot p.src))) 0 p.src.toNat 0 0 s)
    else if helloRefused s p then .next (refuseHello p s)
    else .next (acceptHello p s)

/-! ## The end of the hold time (R421, R63, R377) -/

/-- A lender's extents become Lost, its frames leave the LENT list. -/
def loseLender (n : Node) (s : State) : State :=
  let ks := (s.pool.exts.filter fun e => e.2.v && e.2.tier == .lent && e.2.node == n && e.2.st ≠ .lost).map (·.1)
  let s := ks.foldl (fun s k => leaveRecalls k (loseExtent k s)) s
  { s with pool := { s.pool with lent := aErase s.pool.lent n } }

/-- A flash tray must be mounted again; writes gathered for it and not durable fail. -/
def unmountTray (n : Node) (s : State) : State :=
  match aGet s.pool.trays n with
  | none => s
  | some t =>
    let js := (t.gather.filterMap (·.job)) ++ t.pages.flatMap fun p => p.writes.filterMap (·.1.job)
    let s := modTray n (fun t => { t with mounted := false, gather := [], pages := [] }) s
    js.foldl (fun s id => jobFailed id (.err rTierError (tierDetail 3 3)) s) s

/-- The frames of closing Pens on a detached tray or lender are dropped without a write (R377). -/
def dropScrubs (n : Node) (s : State) : State :=
  { s with pool := { s.pool with scrubs := s.pool.scrubs.filter fun c =>
      ¬ (c.frm.node = n ∧ c.frm.tier ≠ .near ∧ ((pen s c.key.1).state = .closing ∨ (pen s c.key.1).state = .quarantine)) } }

/-- DETACH_HOLD_EXPIRY: the partner is Absent, its pairs fail, its role acts. -/
def execDetachHoldExpiry (n : Node) (s : State) : Res :=
  match aGet s.partners n with
  | none => .next s
  | some q =>
    if q.state ≠ .holding then .next s
    else
      let sh := match q.ports with | p :: _ => portShed p | [] => 0
      let s := q.ports.foldl (fun s k => modPort k (fun x => { x with partner := 0, node := 0, role := 0 }) s) s
      let s := modPartner n (fun q => { q with state := .absent, ports := [] }) s
      let s := codedD 0x105 (lniOf sh) 0 n.toNat 0 0 s
      let s := if (aGet s.pairs n).isSome then failPair n (countPairFail n s) else s
      let s := if q.role = 4 then loseLender n s else s
      let s := if q.role = 2 then unmountTray n s else s
      .next (evalLevel (dropScrubs n s))

end Sys2Proof.Machine
end

