-- ==== Sys2Proof/Machine/Switch.lean ====
section
/-! DEFINITION. Switching, queuing and traffic control (R268 to R296): forwarded and bridged frames, meters, admission,
egress scheduling, time gates, PFC, samples, and the commands that configure ports (R343). -/

namespace Sys2Proof.Machine

/-! ## Meters (R283, R284) -/

/-- The colour of a frame. -/
inductive Colour where
  | green | yellow | red
deriving DecidableEq, Repr

/-- The meter of a frame: the one bound to its port, class and Pen, else the one with ANY_PEN. -/
def findMeter (s : State) (p : PortIx) (c : Fin 8) (pn : Option (BitVec 12)) : Option (Fin 16384 × Meter) :=
  let here := (s.sw.meters.filter fun m =>
    m.1.1 = portShed p ∧ m.2.en ∧ m.2.port.toNat = p.val % 128 ∧ m.2.cls.toNat = c.val).map fun m => (m.1.2, m.2)
  let own := match pn with
    | some q => here.find? fun m => !m.2.anyPen && m.2.pen == q
    | none => none
  match own with
  | some m => some m
  | none => here.find? fun m => m.2.anyPen

/-- A meter's buckets at a time; a rate of one Mb/s is a thousandth of a bit in each ns. -/
def fillMeter (m : Meter) (now : Nat) : Meter :=
  let dt := now - m.time
  { m with cTok := min (m.cbs.toNat * 8000) (m.cTok + dt * m.cir.toNat), pTok := min (m.pbs.toNat * 8000) (m.pTok + dt * m.pir.toNat),
           time := now }

/-- A frame of `len` bytes is coloured. -/
def colourFrame (m : Meter) (len : Nat) (dei : Bool) : Colour × Meter :=
  let b := len * 8000
  if m.pTok < b then (.red, { m with redCnt := satInc m.redCnt })
  else if m.cTok < b ∨ (m.aware ∧ dei) then (.yellow, { m with pTok := m.pTok - b, yel := satInc m.yel })
  else (.green, { m with pTok := m.pTok - b, cTok := m.cTok - b })

/-- A frame's meter acts: its colour after RED_PASS. -/
def meterFrame (fr : Frame) (c : Fin 8) (now : Nat) (s : State) : Colour × State :=
  match findMeter s fr.port c (fr.cmx.map (·.pen)) with
  | none => (.green, s)
  | some (i, m) =>
    let (k, m') := colourFrame (fillMeter m now) fr.len fr.dei
    let s := { s with sw := { s.sw with meters := aSet s.sw.meters (portShed fr.port, i) m' } }
    (if k = .red ∧ m.redPass then .yellow else k, s)

/-! ## Admission of forwarded frames (R275, R288) -/

/-- A VOQ frame is admitted in its ingress Shed: within the limits of R275, else in the headroom of a lossless class. -/
def admitFrame (fr : Frame) (c : Fin 8) (p : PortIx) (q : QFrame) (yellow : Bool) (s : State) : Bool × State :=
  let sh := portShed fr.port
  let v := voqNo p c
  let pq := portQ s fr.port
  if admits s sh v (cellsOf pq.maxFrame.toNat) yellow then (true, pushVoq sh v q s)
  else if pq.pfcMask.getLsbD c.val then
    let used := (((ingressFrames s fr.port c).filter (·.headroom)).map fun f => cellsOf f.len).sum
    if used + cellsOf q.len ≤ (sched s sh).headroom.toNat * 4 then (true, pushVoq sh v { q with headroom := true } s)
    else (false, setSchEvt 3 sh (dropFrame sh v q s))
  else (false, dropFrame sh v q s)

/-! ## Routed and bridged frames (R268 to R272) -/

/-- What becomes of a frame: its egress port, the depth of its VOQ, whether it is dropped. -/
structure Fate where
  egress : Nat := 0xFFFF
  depth : Nat := 0
  dropped : Bool := true
deriving DecidableEq, Repr

/-- A frame counts in VOQ_DROP_CNT of its ingress port and class. -/
def dropIngress (fr : Frame) (c : Fin 8) (s : State) : State := countDrop (portShed fr.port) (voqNo fr.port c) s

def countRoutes (f : Routes → Routes) (s : State) : State := { s with routes := f s.routes }

/-- The frame may leave before its last byte has arrived (R278). -/
def cutThrough (s : State) (fr : Frame) (p : PortIx) (c : Fin 8) : Bool :=
  (portQ s p).ctMask.getLsbD c.val && decide (lanesOf (port s p).width ≤ lanesOf (port s fr.port).width)

/-- The frame has failed its FCS or station 2. -/
def frameBad (s : State) (fr : Frame) : Bool := !fr.fcsOk || ((port s fr.port).macsec && !fr.macsecOk)

/-- The drop of a frame that fails: counted per port where it is station 2's. -/
def countBad (fr : Frame) (s : State) : State :=
  if fr.fcsOk then modPort fr.port (fun q => { q with dropMacsec := satInc q.dropMacsec }) s else s

/-- A frame goes to its egress ports: metered, then admitted for each. -/
def switchFrame (fr : Frame) (out : Frame) (c : Fin 8) (ports : List PortIx) (fin : Option (BitVec 16)) (now : Nat) (s : State) :
    Fate × State :=
  let (colour, s) := meterFrame fr c now s
  if colour = .red then
    let s := modSched (portShed fr.port) (fun g => { g with red := satInc g.red }) s
    ({}, match fin with | some e => finishEpoch e s | none => s)
  else
    let q : QFrame := { body := .forward out, len := fr.len, ingress := some fr.port, ect := fr.ect,
                        dei := colour == .yellow, fin, bad := frameBad s fr, time := some now }
    let depth := match ports with | p :: _ => voqDepth (voq s (portShed fr.port) (voqNo p c)) | [] => 0
    let (any, s) := ports.foldl (fun (acc : Bool × State) p =>
      let (ok, t) := admitFrame fr c p q (colour == .yellow) acc.2
      (acc.1 || ok, t)) (false, s)
    ({ egress := match ports with | p :: _ => p.val | [] => 0xFFFF, depth, dropped := !any }, pfcSettle s)

/-- The fields of a forwarded packet that a NACK to its sender needs. -/
def rxOf (fr : Frame) (x : FwdCmx) : Rx :=
  { port := fr.port, l2 := { udpLen := 40 }, pen := x.pen, cls := x.cls, src := x.src, seq := x.seq, epoch := x.epoch, addr := x.addr,
    keyId := x.keyId, group := x.group, handle := x.handle, tag := x.tag }

/-- A routed frame's rewriting: the MAC addresses, the hop count and the tag of the entry (R270, R271). -/
def rewriteFrame (fr : Frame) (c : Fin 8) (e : NodeEntry) (p : PortIx) : Frame :=
  let f := { fr with dst := e.mac, src := Config.portMac p.val, ttl := fr.ttl - 1, tags := bitNat e.tagged,
                     vid := if e.tagged then e.vid else 0, pcp := if fr.tags = 1 then fr.pcp else BitVec.ofNat 3 c.val }
  { f with head := hopHead f.tags (routedHead f fr.head fr.tags) }

/-- The entry of a map for an IP address. -/
def ipEntry (m : RouteMap) (ip : BitVec 128) : Option NodeEntry := m.nodes.find? fun e => e.v && e.ip == ip

/-- A CMX packet for another node (R100, R101, R103, R269, R271). -/
def routeCmx (fr : Frame) (x : FwdCmx) (ip : BitVec 128) (c : Fin 8) (now : Nat) (s : State) : Fate × State :=
  match (if x.request then epochCheck s x.epoch else none) with
  | some d => ({}, send x.src (nackPkt (rxOf fr x) rStaleEpoch 4 d) s)
  | none =>
    let old : Option RouteMap := s.routes.previous.filter fun m => m.epoch == x.epoch && x.epoch ≠ s.routes.current.epoch
    let m := old.getD s.routes.current
    match ipEntry m ip with
    | none =>
      if old.isSome ∧ x.request then ({}, send x.src (nackPkt (rxOf fr x) rStaleEpoch 4 (epochDetail s false true)) s)
      else ({}, countRoutes (fun r => { r with noRoute := satInc r.noRoute }) s)
    | some e =>
      if e.isLocal then ({}, s)
      else if fr.ttl.toNat ≤ 1 then ({}, countRoutes (fun r => { r with ttlDrop := satInc r.ttlDrop }) s)
      else match pickPort s e fr.sport.toNat with
        | none => ({}, countRoutes (fun r => { r with linkDown := satInc r.linkDown }) s)
        | some p => switchFrame fr (rewriteFrame fr c e p) c [p] (some m.epoch) now (admitEpoch m.epoch s)

/-- The key of a MAC entry (R272). -/
def macKey (mac : BitVec 48) (vid : BitVec 12) : BitVec 160 :=
  fieldLe 160 (toBe 6 mac.toNat ++ toLe 2 vid.toNat ++ List.replicate 12 0) 0 20

/-- A frame's search of partition 0. -/
def macSearch (fr : Frame) (mac : BitVec 48) (vid : BitVec 12) (s : State) : Option MRow × State :=
  matchSearch 0 0 (macKey mac vid) fr.corrupt s

def macPort (r : MRow) : Nat := bitsOf r.result.toNat 9 0
def macStatic (r : MRow) : Bool := r.result.getLsbD 16
def macDiscard (r : MRow) : Bool := r.result.getLsbD 17

/-- A group address: multicast or broadcast. -/
def isGroupMac (m : BitVec 48) : Bool := m.getLsbD 40

/-- A learn event is queued, up to 4,000,000 in a second (R272); while the Keeper is away it is dropped (R349). -/
def queueLearn (fr : Frame) (vid : BitVec 12) (now : Nat) (s : State) : State :=
  let sec := now / 10 ^ 9
  let n := if s.sw.learnSec = sec then s.sw.learnN else 0
  if 4000000 ≤ n ∨ s.kpr.state ≠ .running then { s with sw := { s.sw with learnDrop := satInc s.sw.learnDrop } }
  else
    let sh := portShed fr.port
    let q := aGetD s.sw.learns sh [] ++ [{ mac := fr.src, vid, port := fr.port }]
    { s with sw := { s.sw with learns := aSet s.sw.learns sh q, learnSec := sec, learnN := n + 1 } }

/-- Learning from a bridged frame's source. -/
def learnFrom (fr : Frame) (vid : BitVec 12) (now : Nat) (s : State) : State :=
  if frameBad s fr then s
  else
    let (r, s) := macSearch fr fr.src vid s
    match r with
    | some r => if macPort r = fr.port.val then s else queueLearn fr vid now s
    | none => queueLearn fr vid now s

/-- The VLAN in which a frame is bridged; a frame without a tag belongs to VLAN 0. -/
def frameVid (fr : Frame) : BitVec 12 := if fr.tags = 1 then fr.vid else 0

/-- The ports of a flooded frame: the VLAN's members but its ingress port. -/
def floodPorts (s : State) (fr : Frame) (vid : BitVec 12) : List PortIx :=
  let m := aGetD s.sw.vlans vid 0
  ((List.range 512).filter fun i => m.getLsbD i && i != fr.port.val).map (Fin.ofNat 512)

/-- A bridged frame (R272). -/
def bridgeFrame (fr : Frame) (c : Fin 8) (now : Nat) (s : State) : Fate × State :=
  let vid := frameVid fr
  let s := learnFrom fr vid now s
  let (r, s) := if isGroupMac fr.dst then (none, s) else macSearch fr fr.dst vid s
  match r with
  | some r =>
    let p : PortIx := Fin.ofNat 512 (macPort r)
    if macDiscard r ∨ p = fr.port then ({}, dropIngress fr c s)
    else if portUsable s p = false then ({}, countRoutes (fun q => { q with linkDown := satInc q.linkDown }) s)
    else switchFrame fr fr c [p] none now s
  | none =>
    let ps := floodPorts s fr vid
    let up := ps.filter (portUsable s)
    let s := countRoutes (fun q => { q with linkDown := satAdd q.linkDown (ps.length - up.length) }) s
    if up.isEmpty then ({}, dropIngress fr c s)
    else switchFrame fr fr c up none now s

/-- HTYPE and OPCODE are listed (R76, R82). -/
def listedOp (x : FwdCmx) : Bool :=
  if x.htype = 0 then
    ([0x01, 0x02, 0x03, 0x04, 0x05, 0x08, 0x09, 0x10, 0x11, 0x20, 0x21, 0x28, 0x29, 0x30, 0x31, 0x40, 0x41, 0x44, 0x45, 0x48, 0x50, 0x58,
      0x59, 0x5A] : List (BitVec 8)).contains x.op
  else if x.htype = 1 then x.op == 0
  else x.htype == 2 && x.op == 0x50

/-- The frame passes station 3 of R22: its length and tags, and the headers of a CMX packet. -/
def frameHeaderOk (s : State) (fr : Frame) : Bool :=
  decide (fr.len ≤ (portQ s fr.port).maxFrame.toNat) && decide (fr.tags ≤ 1) && fr.cmx.all fun x => x.headerOk && listedOp x

/-- The frame is counted as dropped at station 3. -/
def dropHeader (fr : Frame) (s : State) : State := modPort fr.port (fun q => { q with dropHeader := satInc q.dropHeader }) s

/-- The first rule of R269 that applies to a frame that has passed stations 1 to 3. -/
def forwardFrame (fr : Frame) (c : Fin 8) (now : Nat) (s : State) : Fate × State :=
  if fr.pause then ({}, countRoutes (fun r => { r with pauseDrop := satInc r.pauseDrop }) s)
  else match fr.cmx, fr.ipDst with
    | some x, some ip => routeCmx fr x ip c now s
    | _, _ => if (portQ s fr.port).bridge then bridgeFrame fr c now s else ({}, dropIngress fr c s)

/-- The one port that a frame goes to. -/
def onePort (fr : Frame) (s : State) : Option PortIx :=
  match fr.cmx, fr.ipDst with
  | some x, some ip =>
    if x.request ∧ (epochCheck s x.epoch).isSome then none
    else
      let m := (s.routes.previous.filter fun m => m.epoch == x.epoch && x.epoch ≠ s.routes.current.epoch).getD s.routes.current
      (ipEntry m ip).bind fun e => if e.isLocal ∨ fr.ttl.toNat ≤ 1 then none else pickPort s e fr.sport.toNat
  | _, _ =>
    if (portQ s fr.port).bridge = false ∨ isGroupMac fr.dst then none
    else (macSearch fr fr.dst (frameVid fr) s).1.bind fun r =>
      let p : PortIx := Fin.ofNat 512 (macPort r)
      if macDiscard r ∨ p = fr.port ∨ portUsable s p = false then none else some p

/-- A frame that fails its FCS or station 2 is dropped there, unless it is cut through and its transmission has begun, which
is open (R22, R279). -/
def decideFrame (fr : Frame) (c : Fin 8) (now : Nat) (s : State) : Fate × State :=
  let (k, s) := if frameBad s fr then takePick s else (1, s)
  let s := if frameBad s fr then countBad fr s else s
  if frameBad s fr ∧ (k % 2 = 0 ∨ (onePort fr s).all (fun p => !cutThrough s fr p c)) then ({}, s)
  else if frameHeaderOk s fr = false then ({}, dropHeader fr s)
  else forwardFrame fr c now s

/-- A frame is for the device itself: its commands carry it. -/
def isLocalFrame (s : State) (fr : Frame) : Bool :=
  match fr.ipDst with
  | some ip => s.routes.current.nodes.any fun e => e.v && e.isLocal && e.ip == ip
  | none => false

/-- A bridged frame whose search waits for the rewriting of a lost bank is held in its ingress Loft (R220). -/
def frameWaits (s : State) (fr : Frame) : Bool :=
  !frameBad s fr && frameHeaderOk s fr && !fr.pause && (fr.cmx.isNone || fr.ipDst.isNone) && (portQ s fr.port).bridge
    && (searchWaits s 0 0 (macKey fr.src (frameVid fr)) || (!isGroupMac fr.dst && searchWaits s 0 0 (macKey fr.dst (frameVid fr))))

/-- A frame is decided, and sampled. -/
def acceptFrame (fr : Frame) (now : Nat) (s : State) : State :=
  let c := frameClass s fr
  let (f, s) := decideFrame fr c now s
  sampleFrame fr.port false now (stampOf s fr.port fr.lni)
    { ingress := fr.port.val, egress := f.egress, cls := c.val, dropped := f.dropped, len := fr.len, depth := f.depth, head := fr.head } s

/-- A frame is decided, or waits. -/
def receiveFrame (fr : Frame) (now : Nat) (s : State) : State :=
  if frameWaits s fr then pfcSettle { s with sw := { s.sw with lofted := s.sw.lofted ++ [(fr, now)] } } else acceptFrame fr now s

/-- The frames that waited go on, in their order. -/
def releaseFrames (s : State) : State :=
  s.sw.lofted.foldl (fun s x => receiveFrame x.1 x.2 s) { s with sw := { s.sw with lofted := [] } }

/-- FRAME_RECEIVE. A frame for the device is its command's, but for one with a reserved opcode, which no command carries. -/
def execFrameReceive (fr : Frame) (now : Nat) (s : State) : Res :=
  if portUsable s fr.port = false ∨ islRunning s (shcOf (portShed fr.port)) = false then .next s
  else if isLocalFrame s fr then
    (if frameBad s fr = false ∧ fr.cmx.any (fun x => !listedOp x) then .next (dropHeader fr s) else .next s)
  else .next (receiveFrame fr now s)

/-! ## The end of the previous map's window (R102) -/

/-- A queued packet that was admitted under an epoch and is forwarded: its frame and its destination. -/
def forwardedUnder (e : BitVec 16) (q : QFrame) : Option (Frame × BitVec 128) :=
  match q.body with
  | .forward f => if q.fin = some e then f.ipDst.map fun ip => (f, ip) else none
  | _ => none

/-- Where the current map sends a queued packet: its port and its frame as that port sends it; none with no route or no link. -/
def rerouted (s : State) (q : QFrame) (f : Frame) (ip : BitVec 128) : Option (PortIx × QFrame) :=
  match ipEntry s.routes.current ip with
  | none => none
  | some e => (pickPort s e f.sport.toNat).map fun p =>
      let g := { f with dst := e.mac, src := Config.portMac p.val, tags := bitNat e.tagged, vid := if e.tagged then e.vid else 0 }
      (p, { q with body := .forward { g with head := routedHead g f.head f.tags }, fin := none })

/-- A packet still queued when the window runs out is finished under the current map: it moves to the VOQ of its new port, or
is dropped and counted. -/
def reroute (sh : ShedIx) (v : Fin 4096) (q : QFrame) (f : Frame) (ip : BitVec 128) (s : State) : State :=
  match rerouted s q f ip with
  | some (p, q) => pushVoq sh (voqNo p (Fin.ofNat 8 v.val)) q s
  | none =>
    if (ipEntry s.routes.current ip).isNone then countRoutes (fun r => { r with noRoute := satInc r.noRoute }) s
    else countRoutes (fun r => { r with linkDown := satInc r.linkDown }) s

/-- Every such packet leaves its VOQ and is forwarded again, in the order of the VOQs. -/
def rerouteAll (e : BitVec 16) (s : State) : State :=
  let mine := s.sw.voqs.flatMap fun x => x.2.frames.filterMap fun q => (forwardedUnder e q).map fun f => (x.1, q, f)
  let voqs := s.sw.voqs.map fun x => (x.1, { x.2 with frames := x.2.frames.filter fun q => (forwardedUnder e q).isNone })
  clearDeficits (mine.foldl (fun s m => reroute m.1.1 m.1.2 m.2.1 m.2.2.1 m.2.2.2 s) { s with sw := { s.sw with voqs } })

/-- PREVIOUS_MAP_WINDOW_EXPIRY: packets still in flight are finished under the current map, each counted in EPOCH_FORCED
with its Daymark event. -/
def execPreviousMapWindowExpiry (s : State) : Res :=
  match s.routes.previous with
  | none => .next s
  | some m =>
    let n := s.routes.inflightPrev
    let s := (List.range n).foldl (fun s _ => coded 0x3 0 s) s
    .next (rerouteAll m.epoch (retireMap { s with routes := { s.routes with epochForced := satAdd s.routes.epochForced n } }))

/-! ## Time gates (R285 to R287) -/

def modGate (p : PortIx) (f : Gate → Gate) (s : State) : State := { s with sw := { s.sw with gates := aMod s.sw.gates p {} f } }


/-- The entries of a bank; an unwritten one opens every gate for no time. -/
def gateLen (g : Gate) (b : Bool) : Nat := if b then g.len1.toNat else g.len0.toNat
def gateEntry (g : Gate) (b : Bool) (i : Nat) : BitVec 8 × BitVec 24 := (if b then g.bank1 else g.bank0).getD i (0xFF, 0)

/-- The entry that applies, and the one after it: at the end of a cycle the first of the list that follows (R287). -/
def gateNow (g : Gate) : BitVec 8 × BitVec 24 := gateEntry g g.active g.idx
def gateNext (g : Gate) : BitVec 8 × BitVec 24 :=
  if g.idx + 1 < gateLen g g.active then gateEntry g g.active (g.idx + 1)
  else gateEntry g (g.active != (g.pending && decide (g.base.toNat ≤ g.start + (gateNow g).2.toNat))) 0

/-- A port's rate in bits in each ns. -/
def bitsPerNs (s : State) (p : PortIx) : Nat := 400 * lanesOf (port s p).width

/-- A class's gate is open. -/
def gateIsOpen (g : Gate) (c : Fin 8) : Bool := !g.en || !g.running || (gateNow g).1.getLsbD c.val

/-- A class's gate is open and not inside its guard band. -/
def gatePasses (s : State) (p : PortIx) (c : Fin 8) (now : Nat) : Bool :=
  let g := gate s p
  if g.en = false ∨ g.running = false then true
  else
    let left := g.start + (gateNow g).2.toNat - portTime g now
    (gateNow g).1.getLsbD c.val
      && ((gateNext g).1.getLsbD c.val || decide ((g.guard.toNat + 20) * 8 ≤ left * bitsPerNs s p))

/-! ## Shapers (R282) -/

def shaper (s : State) (p : PortIx) (c : Fin 8) : Shaper := aGetD s.sw.shapers (p, c) {}
def modShaper (p : PortIx) (c : Fin 8) (f : Shaper → Shaper) (s : State) : State :=
  { s with sw := { s.sw with shapers := aMod s.sw.shapers (p, c) {} f } }

/-- The ns that a frame takes at a port's rate. -/
def lineTime (s : State) (p : PortIx) (len : Nat) : Nat := (len * 8 + bitsPerNs s p - 1) / bitsPerNs s p

/-- The time that a class has transmitted since a time. -/
def txTime (s : State) (p : PortIx) (c : Fin 8) (since now : Nat) : Nat :=
  (((portQ s p).sending.filter fun x => x.1 = c).map fun x => min now x.2.2 - max since x.2.1).sum

/-- A frame's transmission begins, after those that are under way. -/
def startTx (p : PortIx) (c : Fin 8) (len now : Nat) (s : State) : State :=
  let t := lineTime s p len
  modPortQ p (fun q =>
    let rest := q.sending.filter fun x => decide (now < x.2.2)
    let start := (rest.map (·.2.2)).foldl max now
    { q with sending := rest ++ [(c, start, start + t)] }) s

/-- When the first frame of a class began to wait, on the port's LNI counter: known of frames that have come by a port of the
same Shed alone, where every frame that waits is one. -/
def firstWait (s : State) (p : PortIx) (c : Fin 8) : Option Nat :=
  let fs := allSheds.flatMap fun sh => (voq s sh (voqNo p c)).frames
  let at_ (f : QFrame) : Option Nat := match f.body with
    | .forward fr => if portShed fr.port = portShed p then some fr.lni else none
    | _ => none
  if fs.all fun f => (at_ f).isSome then ((fs.filterMap at_).mergeSort fun a b => decide (a ≤ b)).head? else none

/-- A credit held between −MAX_FRAME and +MAX_FRAME. -/
def clampCredit (s : State) (p : PortIx) (x : Int) : Int :=
  let m : Int := (portQ s p).maxFrame.toNat * 8000
  max (-m) (min m x)

/-- What the credit of a class without a waiting frame comes to after a time (R282). -/
def idleCredit (i x : Int) (span : Nat) : Int := if span = 0 then x else if 0 < x then 0 else min 0 (x + span * i)

/-- The moment, within a span of ns before a time, at which something has happened: known, or open. -/
def momentOf (known : Option Nat) (lo now : Nat) (s : State) : Nat × State :=
  match known with
  | some t => (max lo (min now t), s)
  | none => let (k, s) := takePick s; (lo + k % (now - lo + 1), s)

/-- A shaper's credit is brought to an LNI time. Where Keeper firmware has written the settings, or a frame began to wait, since
the last time, at a moment that no command gives, the moment is open. -/
def bringCredit (p : PortIx) (now : Nat) (s : State) (c : Fin 8) : State :=
  let h := shaper s p c
  let w := !(requesters s p c).isEmpty
  if h.en = false then s
  else if gateIsOpen (gate s p) c = false then modShaper p c (fun h => { h with time := now, waiting := w, written := false }) s
  else
    let (since, s) := if h.written then momentOf none h.time now s else (h.time, s)
    let tx := txTime s p c since now
    let i : Int := h.idle.toNat
    let r : Int := bitsPerNs s p * 1000
    let c1 := h.credit + tx * (i - r)
    let (began, s) := if h.waiting = false ∧ w then momentOf (firstWait s p c) since now s else (since, s)
    let idle := began - (since + tx)
    let v := if w then idleCredit i c1 idle + (now - since - tx - idle : Nat) * i else idleCredit i c1 (now - since - tx)
    modShaper p c (fun h => { h with credit := clampCredit s p v, time := now, waiting := w, written := false }) s

/-- Every shaper of a port. -/
def bringCredits (p : PortIx) (now : Nat) (s : State) : State := classes.foldl (bringCredit p now) s

/-- GATE_INTERVAL_BOUNDARY: the next entry, or the switch of banks at a cycle's boundary, or at the base time where no list
is active. -/
def execGateIntervalBoundary (p : PortIx) (now : Nat) (s : State) : Res :=
  let s := bringCredits p now s
  let g := gate s p
  let t := portTime g now
  let due := g.pending && decide (g.base.toNat ≤ t)
  let first (g : Gate) (start : Nat) : Gate :=
    { g with active := !g.active, pending := false, running := true, idx := 0, start, guard := (portQ s p).maxFrame }
  if g.running = false then
    if due then .next (modGate p (fun g => first g t) s) else .next s
  else
    let start := g.start + (gateNow g).2.toNat
    if g.idx + 1 < gateLen g g.active then
      .next (modGate p (fun g => { g with idx := g.idx + 1, start, guard := (portQ s p).maxFrame }) s)
    else if due then .next (modGate p (fun g => first g start) s)
    else .next (modGate p (fun g => { g with idx := 0, start, guard := (portQ s p).maxFrame }) s)

/-! ## Egress scheduling (R277, R280, R281, R290) -/

/-- A class of an egress port may be served. -/
def eligible (s : State) (p : PortIx) (now : Nat) (c : Fin 8) : Bool :=
  let q := portQ s p
  let h := shaper s p c
  !(requesters s p c).isEmpty && gatePasses s p c now && (!h.en || decide (0 ≤ h.credit)) && !q.paused.getLsbD c.val
    && !q.wdTrip.getLsbD c.val

/-- The Shed whose turn it is for a class. -/
def nextShed (s : State) (p : PortIx) (c : Fin 8) : Option ShedIx :=
  let last := aGetD (portQ s p).rr c 3
  let rs := requesters s p c
  ((List.range 4).map fun i => shedOf ((last.val + 1 + i) % 4)).find? fun sh => rs.contains sh

/-- The length that the round counts for a class's head frame. -/
def headLen (s : State) (p : PortIx) (c : Fin 8) : Nat :=
  match (nextShed s p c).bind fun sh => (voq s sh (voqNo p c)).frames.head? with
  | some f => match f.body with
    | .forward fr => if fr.ipDst.isNone then (portQ s p).maxFrame.toNat else f.len
    | _ => f.len
  | none => 0

/-- Deficit round robin: the class that is granted, at most `n` turns of the round. -/
def deficitRound (p : PortIx) (elig : List (Fin 8)) : Nat → State → Option (Fin 8) × State
  | 0, s => (none, s)
  | n + 1, s =>
    let q := portQ s p
    let c := q.round
    let next : Fin 8 := Fin.ofNat 8 (c.val + 1)
    if elig.contains c = false then deficitRound p elig n (modPortQ p (fun q => { q with round := next, served := false }) s)
    else
      let dc := aGetD q.deficit c 0 + (if q.served then 0 else (aGetD q.quant c 9216).toNat)
      let len := headLen s p c
      if len ≤ dc then (some c, modPortQ p (fun q => { q with deficit := aSet q.deficit c (dc - len), served := true }) s)
      else deficitRound p elig n (modPortQ p (fun q => { q with deficit := aSet q.deficit c dc, round := next, served := false }) s)

/-- The class that a grant opportunity serves: the highest strict one, else by deficit round robin. -/
def chooseClass (p : PortIx) (now : Nat) (s : State) : Option (Fin 8) × State :=
  let el := classes.filter (eligible s p now)
  let q := portQ s p
  match (el.filter fun c => q.strict.getLsbD c.val).getLast? with
  | some c => (some c, s)
  | none => if el.isEmpty then (none, s) else deficitRound p el 400 s

/-- Every frame of a class toward a port is discarded and counted (R289). -/
def discardClass (p : PortIx) (s : State) (c : Fin 8) : State :=
  allSheds.foldl (fun s sh =>
    let fs := (voq s sh (voqNo p c)).frames
    fs.foldl (fun s f => finishFrame f s)
      (modVoq sh (voqNo p c) (fun q => { q with frames := [], drop := satAdd q.drop fs.length }) s)) s |> clearDeficits

/-- The frames of the classes whose watchdog has tripped. -/
def discardTripped (p : PortIx) (s : State) : State :=
  (classes.filter fun c => (portQ s p).wdTrip.getLsbD c.val).foldl (discardClass p) s

/-- CE is set in an ECN-capable frame of a class with ECN enabled whose VOQ holds at least ECN_THR at its grant. -/
def marksCe (s : State) (sh : ShedIx) (v : Fin 4096) (c : Fin 8) (f : QFrame) : Bool :=
  (effective s 0x20307).testBit c.val && f.ect && decide ((sched s sh).ecnThr.toNat * 4 ≤ voqDepth (voq s sh v))

/-- The frame as it leaves, with its mark; one that failed after its transmission began is ended with an inverted FCS. -/
def putOut (sh : ShedIx) (p : PortIx) (f : QFrame) (ce : Bool) (s : State) : State :=
  match f.body with
  | .forward fr =>
    if f.bad then setSchEvt 1 sh (modSched sh (fun g => { g with stomp := satInc g.stomp }) (emit (.stomped p fr) s))
    else emit (.frame p (.forward (if f.dei ∧ fr.tags = 1 then { fr with dei := true } else fr)) ce) s
  | b => emit (.frame p b ce) s

/-- A leaving frame's first bytes: of its own datagrams the fields that no rule gives are free, and so is an LLDP frame. -/
def headOf (f : QFrame) (ce : Bool) (s : State) : List Byte × State :=
  match f.body with
  | .forward fr => (markedHead fr (f.dei && fr.tags == 1) ce, s)
  | .own _ seq p w => let (x, s) := takeFree 64 s; (wireBytes w x (pktHdr w.src seq p ++ p.payload), s)
  | .sample _ bytes w => let (x, s) := takeFree 64 s; (wireBytes w x bytes, s)
  | .lldp => let (h, s) := takeFree 2048 s; (bytesOf h, s)

/-- A transmitted frame is sampled. -/
def sampleTx (p : PortIx) (c : Fin 8) (f : QFrame) (ce : Bool) (depth now : Nat) (s : State) : State :=
  if (portQ s p).tx.n = 0 then s
  else
    let (head, s) := headOf f ce s
    sampleFrame p true now (stampOf s p now)
      { ingress := (f.ingress.map (·.val)).getD 0xFFFF, egress := p.val, cls := c.val, len := f.len, depth, head } s

/-- A frame is granted and leaves. -/
def grantClass (p : PortIx) (c : Fin 8) (now : Nat) (s : State) : State :=
  match nextShed s p c with
  | none => s
  | some sh =>
    let v := voqNo p c
    match (voq s sh v).frames with
    | [] => s
    | f :: rest =>
      let ce := marksCe s sh v c f
      let depth := voqDepth (voq s sh v)
      let s := modVoq sh v (fun q => { q with frames := rest }) s
      let s := putOut sh p f ce s
      let s := startTx p c f.len now (modPortQ p (fun q => { q with rr := aSet q.rr c sh }) s)
      let s := modPort p (fun q => { q with secy := q.secy.map fun y => { y with pn := y.pn + 1 } }) s
      let s := modShaper p c (fun h => { h with waiting := !(requesters s p c).isEmpty }) s
      pfcSettle (sampleTx p c f ce depth now (clearDeficits (finishFrame f s)))

/-- GRANT_OPPORTUNITY. -/
def execGrantOpportunity (p : PortIx) (now : Nat) (s : State) : Res :=
  if portUsable s p = false ∨ islRunning s (shcOf (portShed p)) = false then .next s
  else
    let s := bringCredits p now (discardTripped p s)
    let (c, s) := chooseClass p now s
    match c with
    | none => .next (pfcSettle s)
    | some c => .next (grantClass p c now s)

/-! ## Learning and ageing (R272) -/

/-- The row of a MAC entry. -/
def macRow (mac : BitVec 48) (vid : BitVec 12) (result : W64) : MRow :=
  { key := macKey mac vid, mask := BitVec.allOnes 160, prio := 0, pen := 0, part := 0, result }

/-- The entries of an address. -/
def isMac (mac : BitVec 48) (vid : BitVec 12) (q : MRow) : Bool := q.part == 0 && q.pen == 0 && q.key == macKey mac vid

/-- The MAC entry that stands for an address in a row, and what the table or the Keeper's shadow copy holds for it. -/
def macEntry (s : State) (mac : BitVec 48) (vid : BitVec 12) : Option (ShedIx × RowAt × MRow) := findRow s (isMac mac vid)
def macKnown (s : State) (mac : BitVec 48) (vid : BitVec 12) : Option MRow :=
  ((macEntry s mac vid).map (·.2.2)).or (findOwed s (isMac mac vid))

/-- The Keeper inserts a MAC entry, or moves it with REPLACE; none where no row is free. -/
def macPut (mac : BitVec 48) (vid : BitVec 12) (result : W64) (s : State) : Option State :=
  if (macKnown s mac vid).isSome then
    match loadReplace (macRow mac vid result) s with
    | (st, t) => if st = stOk then some t else none
  else insertRow (macRow mac vid result) s

/-- A MAC entry is deleted. -/
def macDelete (mac : BitVec 48) (vid : BitVec 12) (s : State) : State :=
  match macEntry s mac vid with
  | some (b, a, _) => dropRow b a s
  | none => dropOwed (isMac mac vid) s

/-- MAC_LEARN: the Keeper inserts or moves an entry; a static entry stays; with no free row the learn is dropped. -/
def execMacLearn (sh : ShedIx) (s : State) : Res :=
  match aGetD s.sw.learns sh [] with
  | [] => .next s
  | l :: rest =>
    if s.kpr.state ≠ .running then .next s
    else
      let s := { s with sw := { s.sw with learns := aSet s.sw.learns sh rest } }
      if (macKnown s l.mac l.vid).any macStatic then .next s
      else match macPut l.mac l.vid (BitVec.ofNat 64 l.port.val) s with
        | some s => .next s
        | none => .next { s with sw := { s.sw with learnDrop := satInc s.sw.learnDrop } }

/-- MAC_AGEING_EXPIRY: a dynamic entry that has not been seen for the ageing time is deleted. -/
def execMacAgeingExpiry (mac : BitVec 48) (vid : BitVec 12) (s : State) : Res :=
  match macKnown s mac vid with
  | some r => if macStatic r ∨ s.kpr.state ≠ .running then .next s else .next (macDelete mac vid s)
  | none => .next s

/-! ## PFC (R288, R289) -/

/-- PFC_FRAME_RECEIVE: a pause, or its end; ignored while the class's watchdog is tripped. -/
def execPfcFrameReceive (p : PortIx) (c : Fin 8) (quanta : BitVec 16) (s : State) : Res :=
  if portUsable s p = false ∨ (portQ s p).wdTrip.getLsbD c.val then .next s
  else .next (modPortQ p (fun q => { q with
    paused := if quanta = 0 then q.paused &&& ~~~ (BitVec.twoPow 8 c.val) else orBit q.paused c.val }) s)

/-- PFC_PAUSE_EXPIRY. -/
def execPfcPauseExpiry (p : PortIx) (c : Fin 8) (s : State) : Res :=
  .next (modPortQ p (fun q => { q with paused := q.paused &&& ~~~ (BitVec.twoPow 8 c.val) }) s)

/-- PFC_XOFF_REFRESH: the frame again while the count stays above XON. -/
def execPfcXoffRefresh (p : PortIx) (c : Fin 8) (s : State) : Res :=
  let s := pfcSettle s
  if (portQ s p).xoff.getLsbD c.val then .next (emit (.pfc p c 0xFFFF) s) else .next s

/-- PFC_WATCHDOG_TRIP: it has no effect on a class that is not paused, or with the watchdog off. -/
def execPfcWatchdogTrip (p : PortIx) (c : Fin 8) (s : State) : Res :=
  let q := portQ s p
  if q.paused.getLsbD c.val = false ∨ (sched s (portShed p)).watchdog = 0 then .next s
  else
    let s := modPortQ p (fun q => { q with
      paused := q.paused &&& ~~~ (BitVec.twoPow 8 c.val), wdTrip := orBit q.wdTrip c.val }) s
    .next (pfcSettle (discardClass p (setSchEvt 2 (portShed p) s) c))

/-- PFC_WATCHDOG_RECOVERY_END; what the class queued meanwhile is discarded. -/
def execPfcWatchdogRecoveryEnd (p : PortIx) (c : Fin 8) (s : State) : Res :=
  if (portQ s p).wdTrip.getLsbD c.val then
    .next (pfcSettle (modPortQ p (fun q => { q with wdTrip := q.wdTrip &&& ~~~ (BitVec.twoPow 8 c.val) }) (discardTripped p s)))
  else .next s

/-! ## VOQ_SAMPLE (R291) -/

/-- VOQ_SAMPLE: the maxima of every VOQ of a Shed. How long a head frame of the device's own has waited is open. -/
def execVoqSample (sh : ShedIx) (now : Nat) (s : State) : Res :=
  if islRunning s (shcOf sh) = false then .next s
  else
    let vs := (s.sw.voqs.filter fun v => decide (v.1.1 = sh) && !v.2.frames.isEmpty).map (·.1.2)
    .next (vs.foldl (fun s v =>
      let q := voq s sh v
      let t := (q.frames.head?.bind (·.time))
      let (k, s) := if t.isNone then takePick s else (0, s)
      let wait := match t with | some t => now - t | none => k
      modVoq sh v (fun q => { q with depthMax := BitVec.ofNat 32 (max q.depthMax.toNat (voqDepth q)),
                                     delayMax := BitVec.ofNat 32 (max q.delayMax.toNat (min wait (2 ^ 32 - 1))) }) s) s)

/-! ## SHAPER_CONFIG, METER_CONFIG, GATE_LIST_LOAD (R284, R287, R295, R343) -/

def cmdShaperConfig : Cmd := { op := 0xB1, f := true, level := 1, fields := [(0, 3), (4, 4)] }

def shaperConfig (r : Req) (rep : Reply) (s : State) : State :=
  let p := leAt r.payload 0 2
  let c := leAt r.payload 2 1
  let v := leAt r.payload 4 4
  let cls : Fin 8 := Fin.ofNat 8 c
  if 511 < p ∨ 7 < c ∨ bitsOf v 30 21 ≠ 0 then post rep stBadParam [] s
  else post rep stOk [] (modShaper (Fin.ofNat 512 p) cls (fun _ =>
    { idle := BitVec.ofNat 21 v, en := v.testBit 31, credit := 0, time := r.now, waiting := !(requesters s (Fin.ofNat 512 p) cls).isEmpty }) s)

/-- SHAPER_CONFIG. -/
def execShaperConfig (r : Req) (s : State) : Res := .next (mbx cmdShaperConfig false r (shaperConfig r) s)

def cmdMeterConfig : Cmd := { op := 0xB2, f := true, level := 1, fields := [(0, 2), (4, 20)] }

/-- A meter as METER_CONFIG writes it: both buckets full. -/
def newMeter (pl : List Byte) (old : Meter) (now : Nat) : Meter :=
  let b := leAt pl 4 4
  { port := BitVec.ofNat 7 b, cls := BitVec.ofNat 3 (b / 2 ^ 7), pen := BitVec.ofNat 12 (b / 2 ^ 10), anyPen := b.testBit 22,
    en := b.testBit 23, aware := b.testBit 24, redPass := b.testBit 25, cir := fieldLe 21 pl 8 4, cbs := fieldLe 24 pl 12 4,
    pir := fieldLe 21 pl 16 4, pbs := fieldLe 24 pl 20 4, yel := old.yel, redCnt := old.redCnt, cTok := leAt pl 12 4 * 8000,
    pTok := leAt pl 20 4 * 8000, time := now }

/-- Two meters bind the same frames. -/
def sameBinding (a b : Meter) : Bool :=
  a.en && b.en && a.port == b.port && a.cls == b.cls && a.anyPen == b.anyPen && (a.anyPen || a.pen == b.pen)

def meterConfig (r : Req) (rep : Reply) (s : State) : State :=
  let pl := r.payload
  let n := leAt pl 0 2
  let ix : ShedIx × Fin 16384 := (shedOf (n / 16384), Fin.ofNat 16384 n)
  let m := newMeter pl (aGetD s.sw.meters ix {}) r.now
  if bitsOf (leAt pl 4 4) 31 26 ≠ 0 ∨ 2 ^ 21 ≤ leAt pl 8 4 ∨ 2 ^ 24 ≤ leAt pl 12 4 ∨ 2 ^ 21 ≤ leAt pl 16 4 ∨ 2 ^ 24 ≤ leAt pl 20 4
    ∨ m.pir.toNat < m.cir.toNat then post rep stBadParam [] s
  else if s.sw.meters.any fun x => x.1.1 == ix.1 && x.1.2 != ix.2 && sameBinding x.2 m then post rep stBusy [] s
  else post rep stOk [] { s with sw := { s.sw with meters := aSet s.sw.meters ix m } }

/-- METER_CONFIG. -/
def execMeterConfig (r : Req) (s : State) : Res := .next (mbx cmdMeterConfig false r (meterConfig r) s)

def cmdGateLoad (r : Req) : Cmd :=
  { op := 0xB3, f := true, level := 1, fields := [(0, 3), (8, 8)], blen := fun n => n == 8 * leAt r.payload 2 1 }

def gateEntries (b : List Byte) (n : Nat) : List (BitVec 8 × BitVec 24) :=
  (List.range n).map fun i => (fieldLe 8 b (8 * i) 1, fieldLe 24 b (8 * i + 4) 4)

/-- Every interval of a gate list is in its range, the reserved bytes are zero, and the cycle lasts at most 1 s. -/
def gateListOk (b : List Byte) (n : Nat) : Bool :=
  decide (b.length = 8 * n)
    && (List.range n).all (fun i => decide (64 ≤ leAt b (8 * i + 4) 4 ∧ leAt b (8 * i + 4) 4 < 2 ^ 24) && leAt b (8 * i + 1) 3 == 0)
    && decide (((List.range n).map fun i => leAt b (8 * i + 4) 4).sum ≤ 10 ^ 9)

def gateLoad (r : Req) (rep : Reply) (s : State) : State :=
  let p := leAt r.payload 0 2
  let n := leAt r.payload 2 1
  let ix : PortIx := Fin.ofNat 512 p
  let b := inBuf s r
  let es := gateEntries b n
  let len : BitVec 7 := BitVec.ofNat 7 n
  let base : W64 := fieldLe 64 r.payload 8 8
  if 511 < p ∨ n = 0 ∨ 64 < n ∨ gateListOk b n = false then post rep stBadParam [] s
  else if (gate s ix).pending then post rep stBusy [] s
  else post rep stOk [] (modGate ix (fun g =>
    if g.active then { g with bank0 := es, len0 := len, base, pending := true }
    else { g with bank1 := es, len1 := len, base, pending := true }) s)

/-- GATE_LIST_LOAD. -/
def execGateListLoad (r : Req) (s : State) : Res := .next (mbx (cmdGateLoad r) true r (gateLoad r) s)

/-! ## The registers of a port (R343, R462) -/

/-- A port's width changes: every lane of its old and its new group goes down and is trained again (R411). -/
def changeWidth (p : PortIx) (w : BitVec 2) (s : State) : State :=
  let n := max (lanesOf (port s p).width) (lanesOf w)
  let lanes := (List.range n).map fun i => (Fin.ofNat 512 (p.val + i) : PortIx)
  let s := lanes.foldl (fun s q => portDownFree q s) s
  modPort p (fun q => { q with width := w }) s

/-- A write of PRT_CFG. -/
def writePrtCfg (p : PortIx) (v : Nat) (s : State) : Nat × State :=
  let w : BitVec 2 := BitVec.ofNat 2 v
  if w = 3 ∨ p.val % lanesOf w ≠ 0 then (stBadParam, s)
  else
    let s := if w = (port s p).width then s else changeWidth p w s
    (stOk, modPort p (fun q => { q with
      auth := BitVec.ofNat 2 (v / 4), macsec := v.testBit 4, xpn := v.testBit 5, llrOff := v.testBit 6 }) s)

/-- The lossless classes of a Shed's other ports. -/
def losslessElsewhere (s : State) (p : PortIx) : Nat :=
  ((s.sw.ports.filter fun q => decide (portShed q.1 = portShed p ∧ q.1 ≠ p)).map fun q => (classes.filter fun c => q.2.pfcMask.getLsbD c.val).length).sum

/-- A write of SCH_PCFG: the headroom reservations may take at most half of the VOQ buffer (R288). -/
def writePcfg (p : PortIx) (v : Nat) (s : State) : Nat × State :=
  let g := sched s (portShed p)
  let mask : BitVec 8 := BitVec.ofNat 8 (v / 2 ^ 8)
  let n := losslessElsewhere s p + (classes.filter fun c => mask.getLsbD c.val).length
  if mask ≠ 0 ∧ g.bootMib * 4096 / 2 < n * (g.headroom.toNat * 4) then (stNoSpace, s)
  else (stOk, pfcSettle (modPortQ p (fun q => { q with
    ctMask := BitVec.ofNat 8 v, pfcMask := mask, strict := BitVec.ofNat 8 (v / 2 ^ 16), defClass := BitVec.ofNat 3 (v / 2 ^ 24),
    bridge := v.testBit 27 }) s))

/-- A write of SCH_PSAMP_RX or SCH_PSAMP_TX: the countdown begins anew. -/
def writeSampler (p : PortIx) (tx : Bool) (v : Nat) (s : State) : Nat × State :=
  if bitsOf v 25 24 = 3 then (stBadParam, s)
  else (stOk, modSampler p tx (fun m => { m with n := BitVec.ofNat 24 v, dest := BitVec.ofNat 2 (v / 2 ^ 24), countdown := none }) s)

/-- A list with entry i set, the entries before it at their reset value. -/
def putEntry (l : List (BitVec 8 × BitVec 24)) (i : Nat) (e : BitVec 8 × BitVec 24) : List (BitVec 8 × BitVec 24) :=
  (l ++ List.replicate (i + 1 - l.length) (0xFF, 0)).set i e

/-- The cycle of a bank, in ns. -/
def gateCycle (g : Gate) (b : Bool) : Nat := ((List.range (gateLen g b)).map fun i => (gateEntry g b i).2.toNat).sum

/-- A write of a gate entry's GTE_GATES or GTE_IVAL: an interval below 64 ns, or a cycle above 1 s, is refused (R286). -/
def writeGateEntry (p : PortIx) (o v : Nat) (s : State) : Nat × State :=
  let b := decide (0x200 ≤ o)
  let i := o % 0x200 / 8
  let t := modGate p (fun g =>
    let old := gateEntry g b i
    let e := if o % 8 = 0 then (BitVec.ofNat 8 v, old.2) else (old.1, BitVec.ofNat 24 v)
    if b then { g with bank1 := putEntry g.bank1 i e } else { g with bank0 := putEntry g.bank0 i e }) s
  if o % 8 ≠ 0 ∧ (v % 2 ^ 24 < 64 ∨ 10 ^ 9 < gateCycle (gate t p) b) then (stBadParam, s) else (stOk, t)

/-- A 64-bit register with one of its halves written. -/
def setHalf (x : W64) (hi : Bool) (v : Nat) : W64 :=
  if hi then BitVec.ofNat 64 (x.toNat % 2 ^ 32 + v * 2 ^ 32) else BitVec.ofNat 64 (x.toNat / 2 ^ 32 * 2 ^ 32 + v)

/-- A length of a gate list that R286 does not allow; 0 only stands where no list has been written. -/
def badGateLen (old : BitVec 7) (new : Nat) : Bool := decide (64 < new ∨ (new = 0 ∧ old ≠ 0))

/-- A write of a register in a port's gate control block. -/
def writeGateReg (p : PortIx) (o v : Nat) (s : State) : Nat × State :=
  let g := gate s p
  let t := modGate p (fun g =>
    if o = 0 then { g with en := v.testBit 0, pending := v.testBit 2, len0 := BitVec.ofNat 7 (v / 2 ^ 8), len1 := BitVec.ofNat 7 (v / 2 ^ 16) }
    else if o = 4 then { g with base := setHalf g.base false v }
    else if o = 8 then { g with base := setHalf g.base true v }
    else if o = 0xC then { g with off := setHalf g.off false v }
    else { g with off := setHalf g.off true v }) s
  if o = 0 ∧ (badGateLen g.len0 (v / 2 ^ 8 % 128) ∨ badGateLen g.len1 (v / 2 ^ 16 % 128) ∨ 10 ^ 9 < gateCycle (gate t p) false
      ∨ 10 ^ 9 < gateCycle (gate t p) true) then (stBadParam, s) else (stOk, t)

/-- A write to a register of a port by Keeper firmware, at an offset of its Shed block, at a time where its command gives one:
the status and the state; none where the offset is no register of the port. A write to an RO field has no effect. -/
def writePortReg (p : PortIx) (off v : Nat) (now : Option Nat) (s : State) : Option (Nat × State) :=
  let k := p.val % 128
  let at_ (base size len : Nat) : Option Nat :=
    if base + k * size ≤ off ∧ off < base + k * size + len ∧ off % 4 = 0 then some (off - (base + k * size)) else none
  let ok (s : State) : Option (Nat × State) := some (stOk, s)
  match at_ 0x10000 0x1000 0x28 with
  | some o =>
    if o = 0 then some (writePrtCfg p v s)
    else if o = 0x1C then ok (modPort p (fun q => { q with evt := q.evt &&& ~~~ (BitVec.ofNat 4 v) }) s)
    else if o = 0x20 then ok (modPort p (fun q => { q with mka := BitVec.ofNat 8 v }) s)
    else if o = 0x24 then ok (modPort p (fun q => { q with replayWin := BitVec.ofNat 31 v }) s)
    else ok s
  | none =>
  match at_ 0x420000 0x20 0x14 with
  | some o =>
    if o = 0 then some (writePcfg p v s)
    else if o = 4 then
      let m := v % 2 ^ 14
      if m < 1522 ∨ 9216 < m then some (stBadParam, s) else ok (modPortQ p (fun q => { q with maxFrame := BitVec.ofNat 14 m }) s)
    else if o = 8 then some (writeSampler p false v s)
    else if o = 0xC then some (writeSampler p true v s)
    else ok s
  | none =>
  match at_ 0x430000 0x20 0x20 with
  | some o =>
    let q := v % 2 ^ 17
    if q < 256 then some (stBadParam, s)
    else ok (modPortQ p (fun x => { x with quant := aSet x.quant (Fin.ofNat 8 (o / 4)) (BitVec.ofNat 17 q) }) s)
  | none =>
  match at_ 0x600000 0x40 0x40 with
  | some o =>
    if o % 8 = 0 then ok (modShaper p (Fin.ofNat 8 (o / 8)) (fun h =>
      { h with idle := BitVec.ofNat 21 v, en := v.testBit 31, credit := 0, time := now.getD h.time, written := now.isNone
               waiting := !(requesters s p (Fin.ofNat 8 (o / 8))).isEmpty }) s)
    else ok s
  | none =>
  match at_ 0x610000 0x20 0x14 with
  | some o => some (writeGateReg p o v s)
  | none =>
  match at_ 0x620000 0x400 0x400 with
  | some o => some (writeGateEntry p o v s)
  | none => none

/-! ## PORT_CONFIG (R343) -/

def cmdPortRegs (r : Req) : Cmd :=
  { op := 0xB0, f := true, level := 1, fields := [(0, 3), (4, 4), (8, 8 * (leAt r.payload 4 4 % 64))] }

/-- Pairs in order, up to the first that fails; the ones before it stay. -/
def applyPairs (p : PortIx) (isF : Bool) (now : Nat) : List (Nat × Nat) → State → Nat × State
  | [], s => (stOk, s)
  | (off, v) :: rest, s =>
    if isF ∧ off = 0x10000 + p.val % 128 * 0x1000 ∧ bitsOf v 3 2 = 0 then (stNotPermitted, s)
    else match writePortReg p off v (some now) s with
      | none => (stNotPermitted, s)
      | some (st, t) => if st = stOk then applyPairs p isF now rest t else (st, s)

def portRegs (r : Req) (rep : Reply) (s : State) : State :=
  let p := leAt r.payload 0 2
  let n := leAt r.payload 4 4
  let ps := (List.range n).map fun i => (leAt r.payload (8 + 8 * i) 4, leAt r.payload (12 + 8 * i) 4)
  if 511 < p ∨ 28 < n ∨ leAt r.payload 2 1 ≠ 0 then post rep stBadParam [] s
  else
    let (st, s) := applyPairs (Fin.ofNat 512 p) (isAdmin r.chan = false) r.now ps s
    post rep st [] s

/-- PORT_REGISTER_WRITE: PORT_CONFIG sub-operation 0. -/
def execPortRegisterWrite (r : Req) (s : State) : Res := .next (mbx (cmdPortRegs r) false r (portRegs r) s)

def cmdVlanSet : Cmd := { op := 0xB0, f := true, level := 1, fields := [(0, 3), (4, 4), (8, 2), (16, 64)] }

def vlanSet (r : Req) (rep : Reply) (s : State) : State :=
  let vid := leAt r.payload 8 2
  if 511 < leAt r.payload 0 2 ∨ leAt r.payload 2 1 ≠ 1 ∨ 4095 < vid then post rep stBadParam [] s
  else post rep stOk [] { s with sw := { s.sw with vlans := aSet s.sw.vlans (BitVec.ofNat 12 vid) (fieldLe 512 r.payload 16 64) } }

/-- VLAN_MEMBER_SET: PORT_CONFIG sub-operation 1. -/
def execVlanMemberSet (r : Req) (s : State) : Res := .next (mbx cmdVlanSet false r (vlanSet r) s)

def cmdStaticMac (r : Req) : Cmd :=
  { op := 0xB0, f := true, level := 1, fields := [(0, 3), (4, 4)], blen := fun n => n == 16 * leAt r.payload 4 4 }

/-- One static MAC operation: its status and the state. -/
def staticOp (o : List Byte) (s : State) : Nat × State :=
  let mac : BitVec 48 := BitVec.ofNat 48 (beAt o 0 6)
  let vid : BitVec 12 := fieldLe 12 o 6 2
  let p := leAt o 8 2
  let result : W64 := BitVec.ofNat 64 (p + 2 ^ 16 + leAt o 10 1 * 2 ^ 17)
  let op := leAt o 11 1
  if 4095 < leAt o 6 2 ∨ 511 < p ∨ 1 < leAt o 10 1 ∨ ¬ (op = 1 ∨ op = 2) ∨ leAt o 12 4 ≠ 0 then (stBadParam, s)
  else if op = 2 then (if (macKnown s mac vid).isNone then (stNotFound, s) else (stOk, macDelete mac vid s))
  else match macPut mac vid result s with
    | some s => (stOk, s)
    | none => (stNoSpace, s)

/-- Operations in order, up to the first that fails. -/
def staticOps : List (List Byte) → State → Nat × State
  | [], s => (stOk, s)
  | o :: os, s =>
    let (st, t) := staticOp o s
    if st = stOk then staticOps os t else (st, s)

def staticMac (r : Req) (rep : Reply) (s : State) : State :=
  let n := leAt r.payload 4 4
  let b := inBuf s r
  if 511 < leAt r.payload 0 2 ∨ leAt r.payload 2 1 ≠ 2 then post rep stBadParam [] s
  else
    let (st, s) := staticOps ((List.range n).map fun i => (b.drop (16 * i)).take 16) s
    post rep st [] s

/-- STATIC_MAC_LOAD: PORT_CONFIG sub-operation 2. -/
def execStaticMacLoad (r : Req) (s : State) : Res := .next (mbx (cmdStaticMac r) true r (staticMac r) s)

end Sys2Proof.Machine
end

