-- ==== Sys2Proof/Machine/Coherence.lean ====
section
/-! DEFINITION. On-chip coherence (R297 to R308, R352, R353): lines in caches, the homes' transactions, snoops, timeouts,
poison and the loss of a Shed. -/

namespace Sys2Proof.Machine

/-! ## Lines, homes, channels -/

/-- The home Shed of a line (R14). -/
def cohHome (s : State) (line : BitVec 32) : ShedIx := homeMap s (lineSlot line)
def home (s : State) (sh : ShedIx) : Home := aGetD s.coh.homes sh {}
def modHome (sh : ShedIx) (f : Home → Home) (s : State) : State :=
  { s with coh := { s.coh with homes := aMod s.coh.homes sh {} f } }

/-- The line that a cache holds; none in state I. -/
def cline (s : State) (c : CacheIx) (line : BitVec 32) : Option CLine := aGet s.coh.caches (c, line)
def setLine (c : CacheIx) (line : BitVec 32) (x : CLine) (s : State) : State :=
  { s with coh := { s.coh with caches := aSet s.coh.caches (c, line) x } }
def dropLine (c : CacheIx) (line : BitVec 32) (s : State) : State :=
  { s with coh := { s.coh with caches := aErase s.coh.caches (c, line) } }

/-- The caches that hold a line, and those of them that own it. -/
def holders (s : State) (line : BitVec 32) : List CacheIx :=
  (s.coh.caches.filter fun x => x.1.2 == line).map (·.1.1)
def owners (s : State) (line : BitVec 32) : List CacheIx :=
  (s.coh.caches.filter fun x => x.1.2 == line && x.2.st != .s).map (·.1.1)

/-- The line in the backing store: bytes, tag, poison mark. -/
def homeData (s : State) (line : BitVec 32) : List Byte := readBytes s.coh.mem (line.toNat * 128) 128
def homeTag (s : State) (line : BitVec 32) : Option (BitVec 12) := aGet s.coh.tags line
def isPoisoned (s : State) (line : BitVec 32) : Bool := s.coh.poisoned.contains line

/-- The backing store's line is written with its tag. -/
def setHome (line : BitVec 32) (data : List Byte) (tag : Option (BitVec 12)) (s : State) : State :=
  { s with coh := { s.coh with
      mem := writeBytes s.coh.mem (line.toNat * 128) data
      tags := match tag with | some p => aSet s.coh.tags line p | none => aErase s.coh.tags line } }

/-- The home cache of 65,536 lines takes a line as its most recently used (R299). -/
def touchHome (line : BitVec 32) (s : State) : State :=
  modHome (cohHome s line) (fun h => { h with lines := (line :: h.lines.filter fun l => ¬ l = line).take 65536 }) s

/-- A bit of COH_EVT (Shed offset +0x50_0028); the event names a line's address. -/
def setCohEvt (bit addr : Nat) (sh : ShedIx) (s : State) : State :=
  evtBitD (shedBase sh + 0x500028) bit (shcOf sh) 0 0 0 addr (modHome sh (fun h => { h with evt := orBit h.evt bit }) s)

/-- A line is poisoned at its home (R305): mark, COH_POISON_CNT, COH_POISON_ADDR, event. -/
def poisonLine (line : BitVec 32) (s : State) : State :=
  let sh := cohHome s line
  setCohEvt 1 (line.toNat * 128) sh (modHome sh (fun h => { h with poisonCnt := satInc h.poisonCnt, poisonAddr := BitVec.ofNat 64 (line.toNat * 128) })
    { s with coh := { s.coh with poisoned := line :: s.coh.poisoned.filter fun l => ¬ l = line } })

def dch (s : State) (c : DmaIx) : DCh := aGetD s.dma.chs c {}
def modDch (c : DmaIx) (f : DCh → DCh) (s : State) : State := { s with dma := { s.dma with chs := aMod s.dma.chs c {} f } }

/-- A DMA channel that acts for no Pen: channels 30 and 31 of each engine serve the Keeper (R309). -/
def keeperDma (c : DmaIx) : Bool := decide (30 ≤ c.val % 32)

/-- A read of a line for a Pen: zeros, counted in COH_TAG_CNT, where the tag is not that Pen's (R298, R353). -/
def taggedRead (p : BitVec 12) (line : BitVec 32) (tag : Option (BitVec 12)) (data : List Byte) (s : State) : List Byte × State :=
  if tag = some p then (data, s)
  else (List.replicate 128 0, modHome (cohHome s line) (fun h => { h with tagCnt := satInc h.tagCnt }) s)

/-- A line's bytes as a writer of a Pen finds them: what another Pen's tag hides is zero (R353). -/
def ownBase (p : BitVec 12) (tag : Option (BitVec 12)) (data : List Byte) : List Byte :=
  if tag = some p then data else List.replicate 128 0

/-- Bytes laid over a line. -/
def overlay (old : List Byte) (off : Nat) (new : List Byte) : List Byte := old.take off ++ new ++ old.drop (off + new.length)

/-! ## Requests at the home (R301, R302) -/

/-- The cache that made a request. -/
def reqCache (r : CohReq) : Option CacheIx :=
  match r with
  | .rdS c => some c
  | .rdU c => some c
  | .upg c => some c
  | .wb c => some c
  | .evc c => some c
  | .once _ => none
  | .full _ _ => none
  | .part _ _ _ => none

/-- The caches that the home snoops. -/
def snoopsFor (s : State) (line : BitVec 32) (r : CohReq) : List CacheIx :=
  let others (l : List CacheIx) : List CacheIx := l.filter fun c => ¬ some c = reqCache r
  match r with
  | .rdS _ => others (owners s line)
  | .rdU _ => others (holders s line)
  | .upg _ => others (holders s line)
  | .wb _ => []
  | .evc _ => []
  | .once _ => owners s line
  | .full _ _ => holders s line
  | .part _ _ _ => holders s line

/-- The set of a line, and the lines that a cache holds in it. -/
def setLines (s : State) (c : CacheIx) (line : BitVec 32) : List (BitVec 32) :=
  (s.coh.caches.filter fun x => x.1.1 == c && x.1.2.toNat % 128 == line.toNat % 128).map (·.1.2)

/-- A line is written back or evicted: its cache holds it no more (R303). -/
def giveBack (c : CacheIx) (line : BitVec 32) (s : State) : State :=
  match cline s c line with
  | none => s
  | some x => dropLine c line (if x.st = .m then touchHome line (setHome line x.data x.tag s) else s)

/-- The slot of a line is moving or being rebuilt: requests for it wait (R308). -/
def cohWaits (s : State) (line : BitVec 32) : Bool :=
  slotMoving s (lineSlot line) || (aGet s.coh.rebuild (lineSlot line)).isSome

/-- A cache evicts a line: WB or EVC to its home, which serves it at once unless the line is busy (R299, R301). -/
def evictLine (c : CacheIx) (line : BitVec 32) (s : State) : State :=
  let dirty : Bool := match cline s c line with | some x => x.st == .m | none => false
  let r : CohReq := if dirty then .wb c else .evc c
  if (aGet s.coh.busy line).isSome ∨ cohWaits s line then
    (if s.coh.queue.contains (line, r) then s else { s with coh := { s.coh with queue := s.coh.queue ++ [(line, r)] } })
  else giveBack c line (modHome (cohHome s line) (fun h => { h with reqCnt := satInc h.reqCnt }) s)

/-- A cache makes room for a line in its set of 16 ways; which line goes is open. -/
def makeRoom (c : CacheIx) (line : BitVec 32) (s : State) : State :=
  let ls := (setLines s c line).filter fun l => ¬ l = line
  if ls.length < 16 then s
  else
    let (k, s) := takePick s
    evictLine c (ls.getD (k % ls.length) 0) s

/-- The line as the backing store has it, in a state. -/
def homeLine (s : State) (line : BitVec 32) (st : LineSt) : CLine :=
  { st, data := homeData s line, tag := homeTag s line, poison := isPoisoned s line }

/-- A cache is given a line with its mark: what another cache forwards, else what the home holds. -/
def fillLine (c : CacheIx) (line : BitVec 32) (st : LineSt) (fwd : Option CLine) (s : State) : State :=
  let s := touchHome line (makeRoom c line s)
  setLine c line (match fwd with | some x => { x with st } | none => homeLine s line st) s

/-- Keeper firmware that loads a poisoned line records an event (R306). No code is given to it: it is recorded as the POISON
event of the line's home, from the Keeper's island (DESIGN CHOICE, log 174). -/
def keeperMeets (c : CacheIx) (line : BitVec 32) (s : State) : State :=
  match cline s c line with
  | some x => if c.val = 68 ∧ x.poison = true then evtBitD (shedBase (cohHome s line) + 0x500028) 1 1 0 0 0 (line.toNat * 128) s else s
  | none => s

/-- A channel's read of a line is done: its bytes and mark. A channel that has dropped the request meanwhile takes nothing. -/
def dmaRead (ch : DmaIx) (line : BitVec 32) (data : List Byte) (poison : Bool) (s : State) : State :=
  if (((dch s ch).xfer.bind (·.acc)).map (·.place)) = some (.line line) then modDch ch (fun d => { d with got := some (data, poison) }) s else s

/-- Its write of a line has been applied. -/
def dmaWrote (ch : DmaIx) (line : BitVec 32) (s : State) : State :=
  if (((dch s ch).xfer.bind (·.wr)).map (·.place)) = some (.line line) then modDch ch (fun d => { d with wrote := true }) s else s

/-- The tag that a channel's write leaves. -/
def dmaTag (s : State) (ch : DmaIx) : Option (BitVec 12) := if keeperDma ch then none else some (dch s ch).pen

/-- The request's own effect once every snoop has been answered, with the line that an owner forwarded. -/
def cohComplete (line : BitVec 32) (r : CohReq) (fwd : Option CLine) (s : State) : State :=
  match r with
  | .rdS c => keeperMeets c line (fillLine c line (if (holders s line).any (fun x => ¬ x = c) then .s else .e) fwd s)
  | .rdU c => fillLine c line .m fwd s
  | .upg c =>
    match cline s c line with
    | some x => setLine c line { x with st := .m } s
    | none => fillLine c line .m fwd s
  | .wb c => giveBack c line s
  | .evc c => giveBack c line s
  | .once ch =>
    let s := touchHome line s
    let x := fwd.getD (homeLine s line .s)
    let (data, s) := if keeperDma ch then (x.data, s) else taggedRead (dch s ch).pen line x.tag x.data s
    dmaRead ch line data x.poison s
  | .full ch data =>
    let s := touchHome line (setHome line data (dmaTag s ch) s)
    dmaWrote ch line { s with coh := { s.coh with poisoned := s.coh.poisoned.filter fun l => ¬ l = line } }
  | .part ch off data =>
    let base := if keeperDma ch then homeData s line else ownBase (dch s ch).pen (homeTag s line) (homeData s line)
    dmaWrote ch line (touchHome line (setHome line (overlay base off data) (dmaTag s ch) s))

/-- A snooped cache's answer (R302): for a load miss or a partial write dirty data goes to the home, a store miss has it from
the owner alone, a whole-line write needs none; the cache keeps the line in S, as it is, or not. -/
def snoopEffect (c : CacheIx) (line : BitVec 32) (r : CohReq) (s : State) : State :=
  match cline s c line with
  | none => s
  | some x =>
    let home (s : State) : State := if x.st = .m then setHome line x.data x.tag s else s
    match r with
    | .rdS _ => setLine c line { x with st := .s } (home s)
    | .part _ _ _ => dropLine c line (home s)
    | .once _ => s
    | _ => dropLine c line s

/-- A forward from cache to cache. -/
def isForward (s : State) (c : CacheIx) (line : BitVec 32) (r : CohReq) : Bool :=
  let own : Bool := match cline s c line with | some x => x.st != .s | none => false
  match r with
  | .rdS _ => own
  | .rdU _ => own
  | .upg _ => own
  | .once _ => own
  | _ => false

/-- A snoop of a cache expires (R305): a line held in S is dropped from the filter, an owned one is poisoned. -/
def expireSnoop (line : BitVec 32) (s : State) (c : CacheIx) : State :=
  let sh := cohHome s line
  let s := setCohEvt 0 (line.toNat * 128) sh (modHome sh (fun h => { h with timeoutCnt := satInc h.timeoutCnt }) s)
  match cline s c line with
  | none => s
  | some x => dropLine c line (if x.st = .s then s else poisonLine line s)

/-- A Yard's cache after the Yard has been fenced: what it has queued at homes is its flush (R307). -/
def flushing (s : State) (c : CacheIx) : Bool :=
  decide (c.val < 68) && (unit s (Fin.ofNat 4 (c.val / 17)) .yard (Fin.ofNat 17 (c.val % 17))).st == .fenced

/-- The island of a cache: the Shed's YRD, or the Keeper's. -/
def cacheIsland (c : CacheIx) : IslandIx := if c.val < 68 then yrdOf (Fin.ofNat 4 (c.val / 17)) else 1

/-- A transaction begins: its snoops are sent; a crossing to a fenced island answers at once as an expiry. -/
def cohStart (line : BitVec 32) (r : CohReq) (s : State) : State :=
  let sh := cohHome s line
  let ws := snoopsFor s line r
  let s := modHome sh (fun h => { h with reqCnt := satInc h.reqCnt, snoopCnt := satAdd h.snoopCnt ws.length }) s
  let dead := ws.filter fun c => !islRunning s (cacheIsland c)
  let live := ws.filter fun c => islRunning s (cacheIsland c)
  let s := dead.foldl (expireSnoop line) s
  if live.isEmpty then cohComplete line r none s
  else { s with coh := { s.coh with busy := aSet s.coh.busy line { req := r, waiting := live } } }

/-- The oldest waiting request for a line, and the queue without it. -/
def takeQueued (line : BitVec 32) : List (BitVec 32 × CohReq) → Option (CohReq × List (BitVec 32 × CohReq))
  | [] => none
  | (l, r) :: q => if l = line then some (r, q) else (takeQueued line q).map fun x => (x.1, (l, r) :: x.2)

/-- Requests that wait for a line are served in order until one has to wait for snoops; at most `n`. -/
def serveLine (line : BitVec 32) : Nat → State → State
  | 0, s => s
  | n + 1, s =>
    if (aGet s.coh.busy line).isSome ∨ cohWaits s line then s
    else match takeQueued line s.coh.queue with
      | none => s
      | some (r, q) => serveLine line n (cohStart line r { s with coh := { s.coh with queue := q } })

/-- A request reaches the home of its line (R301). -/
def cohSubmit (line : BitVec 32) (r : CohReq) (s : State) : State :=
  serveLine line (s.coh.queue.length + 1) { s with coh := { s.coh with queue := s.coh.queue ++ [(line, r)] } }

/-- A cache has a request for a line that has not ended. -/
def cacheAsked (s : State) (c : CacheIx) (line : BitVec 32) : Bool :=
  s.coh.queue.any (fun q => q.1 == line && reqCache q.2 == some c)
    || match aGet s.coh.busy line with | some t => reqCache t.req == some c | none => false

/-- Caches in `gone` have answered or expired; the transaction ends when none is left. -/
def endSnoops (line : BitVec 32) (gone : List CacheIx) (s : State) : State :=
  match aGet s.coh.busy line with
  | none => s
  | some t =>
    let left := t.waiting.filter fun c => !gone.contains c
    if left.isEmpty then
      let s := cohComplete line t.req t.fwd { s with coh := { s.coh with busy := aErase s.coh.busy line } }
      serveLine line (s.coh.queue.length + 1) s
    else { s with coh := { s.coh with busy := aSet s.coh.busy line { t with waiting := left } } }

/-- The snoops of caches in `gone` expire (R305). -/
def expireSnoops (line : BitVec 32) (gone : List CacheIx) (s : State) : State :=
  endSnoops line gone (gone.foldl (expireSnoop line) s)

/-- The snoops that wait for caches of a fenced island expire at once (R20, R305). -/
def expireIsland (i : IslandIx) (s : State) : State :=
  s.coh.busy.foldl (fun s t =>
    let gone := t.2.waiting.filter fun c => cacheIsland c == i
    if gone.isEmpty then s else expireSnoops t.1 gone s) s

/-- A line that a fenced Yard's flush has not written when the home timeout expires: a dirty one is poisoned (R307). -/
def missFlush (line : BitVec 32) (s : State) : State :=
  let flushed (q : BitVec 32 × CohReq) : Option CacheIx :=
    if q.1 = line then
      match q.2 with
      | .wb c => if flushing s c then some c else none
      | .evc c => if flushing s c then some c else none
      | _ => none
    else none
  let cs := s.coh.queue.filterMap flushed
  let s := { s with coh := { s.coh with queue := s.coh.queue.filter fun q => (flushed q).isNone } }
  cs.foldl (fun s c =>
    match cline s c line with
    | none => s
    | some x => dropLine c line (if x.st = .m then poisonLine line s else s)) s

/-! ## Loads and stores through a cache (R302, R353) -/

/-- The cache of a Yard's L1. -/
def yardCache (y : YardRef) : CacheIx := Fin.ofNat 69 (y.shed.val * 17 + y.yard.val)

/-- A load of a line by a cache: the miss is sent once; what the cache then holds, none while it waits. -/
def cohLoad (c : CacheIx) (line : BitVec 32) (s : State) : Option CLine × State :=
  match cline s c line with
  | some x => (some x, s)
  | none =>
    let s := if cacheAsked s c line then s else cohSubmit line (.rdS c) s
    (cline s c line, s)

/-- A store to a line by a Yard for a Pen: true once it is done. -/
def cohStore (c : CacheIx) (p : BitVec 12) (line : BitVec 32) (off : Nat) (data : List Byte) (s : State) : Bool × State :=
  let s := match cline s c line with
    | some x => if x.st = .s ∧ cacheAsked s c line = false then cohSubmit line (.upg c) s else s
    | none => if cacheAsked s c line then s else cohSubmit line (.rdU c) s
  match cline s c line with
  | some x =>
    if x.st = .s then (false, s)
    else (true, setLine c line { x with st := .m, tag := some p, data := overlay (ownBase p x.tag x.data) off data } s)
  | none => (false, s)

/-- A Yard's L1 flushes (R307): M lines are written back, the others evicted. -/
def flushCache (c : CacheIx) (s : State) : State :=
  ((s.coh.caches.filter fun x => x.1.1 == c).map (·.1.2)).foldl (fun s l => evictLine c l s) s

/-- A line that a cache cannot write back is poisoned, another is dropped (R305, R307). -/
def loseLine (s : State) (k : CacheIx × BitVec 32) : State :=
  match cline s k.1 k.2 with
  | none => s
  | some x => dropLine k.1 k.2 (if x.st = .s then s else poisonLine k.2 s)

/-- A request comes from a Yard or a DMA channel of a Shed. -/
def fromShed (sh : ShedIx) (r : CohReq) : Bool :=
  match r with
  | .once ch => ch.val / 32 == sh.val
  | .full ch _ => ch.val / 32 == sh.val
  | .part ch _ _ => ch.val / 32 == sh.val
  | _ => match reqCache r with | some c => decide (c.val < 68 ∧ c.val / 17 = sh.val) | none => false

/-- A Shed's SHC island is fenced (R308): the lines that its Yards own elsewhere are poisoned, its home state is lost, and
each of its slots awaits a rebuild with the windows, in pages, of the tasks that ran there. Its own requests are gone. -/
def cohLoseShed (sh : ShedIx) (windows : List (Nat × Nat)) (s : State) : State :=
  let mine (c : CacheIx) : Bool := decide (c.val < 68 ∧ c.val / 17 = sh.val)
  let keys := (s.coh.caches.filter fun x => mine x.1.1).map (·.1)
  let here (l : BitVec 32) : Bool := homeMap s (lineSlot l) == sh
  let slots := ((List.range 4).map (Fin.ofNat 4)).filter fun n => homeMap s n == sh
  let s := (keys.filter fun k => here k.2).foldl (fun s k => dropLine k.1 k.2 s) s
  let s := (keys.filter fun k => !here k.2).foldl loseLine s
  let back := (s.coh.busy.filter fun t => here t.1).map fun t => (t.1, t.2.req)
  let s := { s with coh := { s.coh with
    busy := s.coh.busy.filter fun t => !here t.1 && !fromShed sh t.2.req
    queue := (back ++ s.coh.queue).filter fun q => !fromShed sh q.2
    rebuild := slots.foldl (fun r n => aMod r n [] fun w => w ++ windows) s.coh.rebuild } }
  let s := modHome sh (fun h => { h with lines := [] }) s
  (s.coh.queue.map (·.1)).foldl (fun s l => serveLine l (s.coh.queue.length + 1) s) s

/-- The lines of windows given as first page and pages, homed in a slot. -/
def windowLines (slot : Fin 4) (windows : List (Nat × Nat)) : List (BitVec 32) :=
  (windows.flatMap fun w => (List.range (32 * w.2)).map fun i => BitVec.ofNat 32 (32 * w.1 + i)).filter fun l => lineSlot l == slot

/-! ## Commands -/

/-- A line of device space (R297). -/
def lineExists (s : State) (line : BitVec 32) : Bool := decide (line.toNat * 128 < s.near.dsSize)

/-- RD_S: a load miss. -/
def execRdS (c : CacheIx) (line : BitVec 32) (s : State) : Res :=
  if lineExists s line = false ∨ (cline s c line).isSome ∨ cacheAsked s c line then .next s else .next (cohSubmit line (.rdS c) s)

/-- RD_U: a store miss. -/
def execRdU (c : CacheIx) (line : BitVec 32) (s : State) : Res :=
  if lineExists s line = false ∨ (cline s c line).isSome ∨ cacheAsked s c line then .next s else .next (cohSubmit line (.rdU c) s)

/-- UPG: a store to a line in S. -/
def execUpg (c : CacheIx) (line : BitVec 32) (s : State) : Res :=
  match cline s c line with
  | some x => if x.st = .s ∧ cacheAsked s c line = false then .next (cohSubmit line (.upg c) s) else .next s
  | none => .next s

/-- WB: an M line is written back. -/
def execWb (c : CacheIx) (line : BitVec 32) (s : State) : Res :=
  match cline s c line with
  | some x => if x.st = .m ∧ cacheAsked s c line = false then .next (cohSubmit line (.wb c) s) else .next s
  | none => .next s

/-- EVC: a clean line is evicted. -/
def execEvc (c : CacheIx) (line : BitVec 32) (s : State) : Res :=
  match cline s c line with
  | some x => if x.st ≠ .m ∧ cacheAsked s c line = false then .next (cohSubmit line (.evc c) s) else .next s
  | none => .next s

/-- RD_ONCE: a DMA channel reads a line. -/
def execRdOnce (ch : DmaIx) (line : BitVec 32) (s : State) : Res :=
  if lineExists s line then .next (cohSubmit line (.once ch) s) else .next s

/-- WR_FULL: a DMA channel writes a whole line. -/
def execWrFull (ch : DmaIx) (line : BitVec 32) (data : List Byte) (s : State) : Res :=
  if lineExists s line ∧ data.length = 128 then .next (cohSubmit line (.full ch data) s) else .next s

/-- WR_PART: a DMA channel writes a part of a line. -/
def execWrPart (ch : DmaIx) (addr : BitVec 39) (data : List Byte) (s : State) : Res :=
  let line : BitVec 32 := BitVec.ofNat 32 (addr.toNat / 128)
  if lineExists s line ∧ data ≠ [] ∧ addr.toNat % 128 + data.length ≤ 128 then
    .next (cohSubmit line (.part ch (addr.toNat % 128) data) s)
  else .next s

/-- SNOOP_RESPONSE: a snooped cache answers; the last answer completes the transaction. One that arrives after the expiry
is discarded (R305). -/
def execSnoopResponse (c : CacheIx) (line : BitVec 32) (s : State) : Res :=
  match aGet s.coh.busy line with
  | none => .next s
  | some t =>
    if t.waiting.contains c = false then .next s
    else
      let sh := cohHome s line
      let s' := if isForward s c line t.req then modHome sh (fun h => { h with fwdCnt := satInc h.fwdCnt }) s else s
      let fwd := if isForward s c line t.req then cline s c line else t.fwd
      let s' := { s' with coh := { s'.coh with busy := aSet s'.coh.busy line { t with fwd } } }
      .next (endSnoops line [c] (snoopEffect c line t.req s'))

/-- HOME_TIMEOUT: the snoops of a line that have not been answered expire, and so does a flush that is still waiting. -/
def execHomeTimeout (line : BitVec 32) (s : State) : Res :=
  let waiting := match aGet s.coh.busy line with | some t => t.waiting | none => []
  .next (missFlush line (if waiting.isEmpty then s else expireSnoops line waiting s))

/-- HOME_FILTER_REBUILD: the new home of a slot has its filter from the live caches; lines of the lost tasks' windows that
none of them holds are poisoned, and what waited for the slot is served (R308). -/
def execHomeFilterRebuild (slot : Fin 4) (s : State) : Res :=
  match aGet s.coh.rebuild slot with
  | none => .next s
  | some ws =>
    let lost := (windowLines slot ws).filter fun l => (holders s l).isEmpty
    let s := lost.foldl (fun s l => poisonLine l s) { s with coh := { s.coh with rebuild := aErase s.coh.rebuild slot } }
    let s := setCohEvt 2 0 (homeMap s slot) s
    .next ((s.coh.queue.map (·.1)).foldl (fun s l => serveLine l (s.coh.queue.length + 1) s) s)

end Sys2Proof.Machine
end

