-- ==== Sys2Proof/Machine/Yard.lean ====
section
/-! DEFINITION. What every Yard instruction rests on (R229 to R237): registers, scratch with its tags and side descriptors,
the check of an instruction's fields, the end of a task (R261, R262), its ports (R250 to R253), and how a stopped task is
run again (R265). -/

namespace Sys2Proof.Machine

/-! ## Yards and their registers (R229) -/

def yard (s : State) (y : YardRef) : Yard := aGetD s.work.yards y {}
def modYard (y : YardRef) (f : Yard → Yard) (s : State) : State :=
  { s with work := { s.work with yards := aMod s.work.yards y {} f } }

/-- VLEN, in bits, and scratch, in bytes. -/
def vlen : Nat := 2048
def scratchSize : Nat := 0x400000

/-- A Yard can work: it is active or an engaged spare, and its island runs. -/
def yardWorks (s : State) (y : YardRef) : Bool :=
  let n := unit s y.shed .yard y.yard
  islRunning s (yrdOf y.shed) && (n.st == .active || n.st == .spareEngaged)

/-- A bit of YRD_EVT; the event names a task and its Pen. -/
def setYrdEvt (bit : Nat) (t : Option Task) (y : YardRef) (s : State) : State :=
  evtBitD (shedBase y.shed + 0x100000 + y.yard.val * 0x10000 + 0x28) bit (yrdOf y.shed)
    ((t.map (·.pen.toNat)).getD 0) 0 ((t.map (·.id.toNat)).getD 0) 0
    (modUnit y.shed .yard y.yard (fun n => { n with evt := orBit n.evt bit }) s)

/-- s[r]: s0 reads as zero. -/
def getS (d : Yard) (r : BitVec 5) : W64 := if r = 0 then 0 else aGetD d.s (Fin.ofNat 32 r.toNat) 0
/-- s[r] := v; a write to s0 is discarded. -/
def setS (r : BitVec 5) (v : W64) (d : Yard) : Yard := if r = 0 then d else { d with s := aSet d.s (Fin.ofNat 32 r.toNat) v }

def vIx (r : Nat) : Fin 32 := Fin.ofNat 32 r
def zeros (n : Nat) : List Byte := List.replicate n 0
def getV (d : Yard) (r : Nat) : List Byte := aGetD d.v (vIx r) (zeros 256)
def setV (r : Nat) (b : List Byte) (d : Yard) : Yard := { d with v := aSet d.v (vIx r) b }
def getVs (d : Yard) (r : Nat) : List (BitVec 16) := aGetD d.vs (vIx r) (List.replicate 8 0)
def setVs (r : Nat) (w : List (BitVec 16)) (d : Yard) : Yard := { d with vs := aSet d.vs (vIx r) w }
def getP (d : Yard) (r : Nat) : BitVec 256 := aGetD d.p (Fin.ofNat 8 r) 0
def setP (r : Nat) (v : BitVec 256) (d : Yard) : Yard := { d with p := aSet d.p (Fin.ofNat 8 r) v }
def getT (d : Yard) (r : Nat) : List Byte := aGetD d.t (Fin.ofNat 4 r) (zeros 4096)
def getTs (d : Yard) (r : Nat) : List (BitVec 16) := aGetD d.ts (Fin.ofNat 4 r) (List.replicate 256 0)
def getA (d : Yard) (r : Nat) : Acc := aGetD d.acc (Fin.ofNat 2 r) {}
def setA (r : Nat) (a : Acc) (d : Yard) : Yard := { d with acc := aSet d.acc (Fin.ofNat 2 r) a }

/-- Flag SAT is set, where a value saturated. -/
def setSat (sat : Bool) (d : Yard) : Yard := if sat then { d with flags := d.flags ||| 1 } else d

/-- The registers are a task's no more; scratch and the test and fault registers stay (R230, R234). -/
def cleared (d : Yard) : Yard :=
  { scratch := d.scratch, sdesc := d.sdesc, sgrant := d.sgrant, tags := d.tags, testing := d.testing, testResult := d.testResult,
    testRuns := d.testRuns, faultStatus := d.faultStatus, faultCause := d.faultCause, faultPc := d.faultPc }

/-! ## Scratch (R231, R232, R234, R352, R353) -/

/-- The 256 B lines, and the 4 KiB slots, that a range touches. -/
def scratchLines (a n : Nat) : List Nat := if n = 0 then [] else (List.range ((a + n - 1) / 256 + 1 - a / 256)).map (a / 256 + ·)
def scratchSlots (a n : Nat) : List Nat := if n = 0 then [] else (List.range ((a + n - 1) / 4096 + 1 - a / 4096)).map (a / 4096 + ·)

/-- Bytes of scratch as a task of a Pen reads them: a line that another Pen or none owns reads as zero. -/
def scratchRead (d : Yard) (p : BitVec 12) (a n : Nat) : List Byte :=
  (scratchLines a n).flatMap fun l =>
    let lo := max a (256 * l)
    let k := min (a + n) (256 * l + 256) - lo
    if aGet d.tags l = some p then readBytes d.scratch lo k else zeros k

/-- Bytes stored to scratch for a Pen: what a line held for another is gone, and the touched slots become RAW. -/
def scratchWrite (p : BitVec 12) (a : Nat) (bs : List Byte) (d : Yard) : Yard :=
  let foreign := (scratchLines a bs.length).filter fun l => aGet d.tags l ≠ some p
  let m := foreign.foldl (fun m l => zeroRange m (256 * l) 256) d.scratch
  { d with scratch := writeBytes m a bs, tags := foreign.foldl (fun t l => aSet t l p) d.tags,
           sdesc := (scratchSlots a bs.length).foldl (fun t k => aErase t k) d.sdesc,
           sgrant := (scratchSlots a bs.length).foldl (fun t k => aErase t k) d.sgrant }

/-- A slot's side descriptor; an unlisted one is RAW. -/
def slotDesc (d : Yard) (slot : Nat) : W32 := aGetD d.sdesc slot rawDesc

/-- A range lies in scratch. -/
def inScratch (a n : Nat) : Bool := decide (a + n ≤ scratchSize)

/-! ## The fields of an instruction (R236, R237) -/

/-- The fields that an instruction uses; what it does not use must be zero. `b` is the operand of R238: s[RB], or IMM
when IMMB is 1. -/
structure Uses where
  pred : Bool := false
  rd : Bool := false
  ra : Bool := false
  rb : Bool := false
  rc : Bool := false
  b : Bool := false
  imm : Bool := false
  rnd : Bool := false
  fmts : List Nat := [0]
  aux : BitVec 16 := 0
deriving DecidableEq, Repr

/-- R237's check of the fields; RND 3 is reserved. -/
def legal (f : YF) (u : Uses) : Bool :=
  f.rsv == 0 && (u.pred || f.pred == 0) && (u.rd || f.rd == 0) && (u.ra || f.ra == 0) && (u.rc || f.rc == 0)
    && (if u.b then (if f.immb then f.rb == 0 else f.imm == 0)
        else !f.immb && (u.rb || f.rb == 0) && (u.imm || f.imm == 0))
    && f.rnd != 3 && (u.rnd || f.rnd == 0) && u.fmts.contains f.fmt.toNat && (f.aux &&& ~~~ u.aux) == 0

/-- The operand b. -/
def opB (d : Yard) (f : YF) : W64 := if f.immb then f.imm else getS d f.rb

/-- A signed value of AUX bits and of the like is read through these. -/
def auxBits (f : YF) (hi lo : Nat) : Nat := bitsOf f.aux.toNat hi lo

/-! ## Task statuses (R262) -/

def tkIllegal : Nat := 1
def tkAddress : Nat := 2
def tkMisuse : Nat := 3
def tkNack : Nat := 4
def tkStatus : Nat := 5
def tkDecode : Nat := 6
def tkAbsent : Nat := 7
def tkPoisoned : Nat := 8
def tkTime : Nat := 9
def tkYard : Nat := 10
def tkUnit : Nat := 11

/-! ## Ports (R249 to R253) -/

def portAt (d : Yard) (p : Fin 16) : Option StrmPort := aGet d.ports p
def modStrm (y : YardRef) (p : Fin 16) (f : StrmPort → StrmPort) (s : State) : State :=
  modYard y (fun d => { d with ports := aAdjust d.ports p f }) s

/-- Fields of a port descriptor. -/
def pMode (d : List Byte) : Nat := leAt d 0 1
def pFlags (d : List Byte) : Nat := leAt d 1 1
def pClass (d : List Byte) : BitVec 4 := fieldLe 4 d 2 1
def pKey (d : List Byte) : BitVec 8 := fieldLe 8 d 3 1
def pRing (d : List Byte) : Nat := leAt d 4 4
def pSlots (d : List Byte) : Nat := leAt d 8 2
def pNode (d : List Byte) : Node := fieldLe 16 d 10 2
def pTag (d : List Byte) : Nat := bitsOf (leAt d 12 4) 27 0
def pAddr (d : List Byte) : Nat := leAt d 16 8
def pBlocks (d : List Byte) : Nat := leAt d 24 4
def pSession (d : List Byte) : W32 := fieldLe 32 d 28 4
def pHandle (d : List Byte) : W32 := fieldLe 32 d 32 4

/-- The unit requests of a port, or of every port of a Yard, end without an answer. -/
def stopStreams (y : YardRef) (only : Fin 16 → Bool) (s : State) : State :=
  let mine (q : UnitReq) : Bool := match q.src with | .port z p => z == y && only p | .cmx _ _ => false
  (s.work.reqs.filter mine).foldl (fun s q =>
    let s := quietReq q s
    match q.unit with | some u => refill 64 q.shed (reqKind q) u s | none => s) s

/-- A scratch slot is released: its block leaves the expander if it is still there (R247). -/
def releaseSlots (y : YardRef) (slots : List Nat) (s : State) : State :=
  dropBlocks (.yard y) (fun b => slots.contains b.slot) s

/-- The expander's name of a landed block that STRM.READ has not returned: its slot still holds what it held (R233). -/
def landedSlot (k : Nat) : Nat := scratchSize / 4096 + k

/-- The slots of a read port, as the expander names their blocks. -/
def portSlots (x : StrmPort) : List Nat := (x.landed.map fun b => landedSlot b.1) ++ x.held

/-- A Yard's own accesses are forgotten. -/
def dropYardJobs (y : YardRef) (s : State) : State :=
  let mine (j : Job) : Bool := match j.orig with | .yardIn z _ => z == y | .yardOut z _ => z == y | _ => false
  { s with pool := { s.pool with jobs := s.pool.jobs.filter fun j => !mine j } }

/-- A Yard's accesses are nobody's: its reads are forgotten, its writes go on and their ends are for nobody (R237). -/
def leaveYardJobs (y : YardRef) (s : State) : State :=
  let out (j : Job) : Bool := match j.orig with | .yardOut z _ => z == y | _ => false
  let gone (j : Job) : Bool := (match j.orig with | .yardIn z _ => z == y | _ => false) || (out j && j.result.isSome)
  let mine (k : Kept) : Bool := match k.whose with | some (.port z _) => z == y | _ => false
  { s with
    pool := { s.pool with jobs := (s.pool.jobs.filter fun j => !gone j).map fun j => if out j then { j with orig := .gone } else j }
    pairs := s.pairs.map fun p => (p.1, { p.2 with backlog := p.2.backlog.map fun k => if mine k then { k with whose := none } else k }) }

/-- A port's writes that have not ended; the FLAGS of the first that ended with a NACK. -/
def portPending (s : State) (y : YardRef) (p : Fin 16) : Bool :=
  s.pool.jobs.any fun j => j.orig == .yardOut y p && j.result.isNone
def jobFlags (j : Job) : Option (BitVec 16) :=
  match j.result with
  | some (.err r _) => some (r.setWidth 16 + 0x900)
  | some (.refused r st _) => some (r.setWidth 16 + BitVec.ofNat 16 (256 * st))
  | _ => none
def portErr (s : State) (y : YardRef) (p : Fin 16) (x : StrmPort) : Option (BitVec 16) :=
  match x.err with
  | some f => some f
  | none => (s.pool.jobs.filter fun j => j.orig == .yardOut y p).findSome? jobFlags

/-- A Yard's writes that have not ended: WRITEs without their answer, and packets to a node that are not sent yet. -/
def yardPending (s : State) (y : YardRef) : Bool :=
  (s.pool.jobs.any fun j => j.result.isNone && match j.orig with | .yardOut z _ => z == y | _ => false)
    || s.pairs.any fun p => p.2.backlog.any fun k => match k.whose with | some (.port z _) => z == y | _ => false

/-- The starting step of a task (R259). -/
def taskStep (t : Task) : W32 := fieldLe 32 t.desc 8 4

/-- Block n of a WRITE_NODE stream. -/
def nodeBlock (s : State) (t : Task) (x : StrmPort) (bytes : List Byte) (last : Bool) : Pkt :=
  { op := 0x29, flags := if last then 0x10 else 0, pen := t.pen, cls := pClass x.desc, epoch := s.routes.current.epoch,
    length := 4096, addr := BitVec.ofNat 56 x.sent, group := pSession x.desc, step := taskStep t,
    handle := BitVec.ofNat 32 (pTag x.desc * 16 + t.attempt % 16), payload := bytes }

/-- The WRITE of a block of a WRITE_POOL stream, from the device's node. -/
def poolWrite (s : State) (t : Task) (x : StrmPort) (a : Nat) : Rx :=
  { port := 0, l2 := { udpLen := 4136 }, src := localNode s, pen := t.pen, cls := pClass x.desc, keyId := pKey x.desc,
    length := 4096, addr := BitVec.ofNat 56 a }

/-- A port sends a block (R252): the write's NACK of stations 6 to 8 is the port's error. -/
def sendBlock (y : YardRef) (p : Fin 16) (t : Task) (bytes : List Byte) (d : W32) (last : Bool) (s : State) : State :=
  match portAt (yard s y) p with
  | none => s
  | some x =>
    let up (s : State) : State := modStrm y p (fun q => { q with sent := q.sent + 1 }) s
    if pMode x.desc = 4 then
      sendVia (pNode x.desc) (nodeBlock s t x bytes last) { own := some y.shed, whose := some (.port y p) } (up s)
    else
      let a := pAddr x.desc + 4096 * x.sent
      let w := poolWrite s t x a
      let k := rxKey s w
      let fail (f : BitVec 16) (s : State) : State := modStrm y p (fun q => { q with err := some (q.err.getD f) }) (up s)
      let held := slotMoving s (keySlot k)
      if 2 ^ 56 ≤ a then fail 0x605 s
      else match firstGate (gate6 0x03 w s :: if held then [] else homeGates 0x03 w s) with
        | .nack r st _ => fail (r.setWidth 16 + BitVec.ofNat 16 (256 * st)) s
        | .wait _ => s
        | .pass => startJob { id := 0, orig := .yardOut y p, pen := t.pen, key := k, off := addrOff w.addr, len := 4096, store := true,
                              data := bytes, desc := some d, held } (up s)

/-- A full block of a write port, coded first where CODE is set (R157); none where its table is not Bound. The last block of
a WRITE_NODE stream carries LAST, so each is held until the next one or the close. DESIGN CHOICE: what the port makes of a
stream's bytes is an element block, with SCALE 0 (log 169). -/
def fullBlock (y : YardRef) (p : Fin 16) (t : Task) (bytes : List Byte) (d : W32) (s : State) : Option State :=
  match portAt (yard s y) p with
  | none => some s
  | some x =>
    let id : BitVec 3 := BitVec.ofNat 3 (bitsOf (pFlags x.desc) 3 1)
    let out : Option (List Byte × W32) :=
      if (pFlags x.desc).testBit 0 = false then some (bytes, d)
      else (boundTable s t.pen id).map fun tb => match encodeBlock tb.lens tb.tag id bytes with
        | some c => (padTo 4096 c, codedDesc c.length id false)
        | none => (bytes, rawDesc)
    out.map fun o =>
      if pMode x.desc = 4 then
        let s := match x.hold with | some h => sendBlock y p t h.1 h.2 false s | none => s
        modStrm y p (fun q => { q with hold := some o }) s
      else sendBlock y p t o.1 o.2 false s

/-- Bytes join a write port, cut into blocks, at most `n`; none where a block's table is not Bound. -/
def appendBytes (y : YardRef) (p : Fin 16) (t : Task) : Nat → State → Option State
  | 0, s => some s
  | n + 1, s =>
    match portAt (yard s y) p with
    | none => some s
    | some x =>
      if x.buf.length < 4096 then some s
      else (fullBlock y p t (x.buf.take 4096) rawDesc (modStrm y p (fun q => { q with buf := q.buf.drop 4096 }) s)).bind
        (appendBytes y p t n)

/-- Bytes are appended to a write port. -/
def portAppend (y : YardRef) (p : Fin 16) (t : Task) (bytes : List Byte) (s : State) : Option State :=
  appendBytes y p t (bytes.length / 4096 + 2) (modStrm y p (fun q => { q with buf := q.buf ++ bytes }) s)

/-- A write port is closed: the last block is padded and sent, with LAST on a WRITE_NODE stream. -/
def closeWrite (y : YardRef) (p : Fin 16) (t : Task) (s : State) : Option State :=
  match portAt (yard s y) p with
  | none => some s
  | some x =>
    if x.closed then some s
    else
      let s1 := if x.buf.isEmpty then some s
        else fullBlock y p t (padTo 4096 x.buf) rawDesc (modStrm y p (fun q => { q with buf := [] }) s)
      s1.map fun s =>
        let s := match (portAt (yard s y) p).bind (·.hold) with
          | some h => sendBlock y p t h.1 h.2 true s
          | none => s
        modStrm y p (fun q => { q with closed := true, hold := none }) s

/-! ## The end of a task (R261, R262) -/

/-- The completion record. -/
def taskRecord (t : Task) (status code : Nat) (flags : BitVec 8) (detail : W32) : List Byte :=
  toLe 4 t.id.toNat ++ toLe 2 status ++ toLe 2 code ++ [flags, BitVec.ofNat 8 t.attempt, 0, 0] ++ toLe 4 detail.toNat

/-- TASK_DONE to the submitting channel. -/
def postTask (sh : ShedIx) (t : Task) (status code : Nat) (flags : BitVec 8) (detail : W32) (s : State) : State :=
  shedNotice sh t.chan 1 (taskRecord t status code flags detail) s

/-- The Yard is Idle: its streams end, its expander's blocks and its accesses go, and its registers are nobody's. -/
def idleYard (y : YardRef) (s : State) : State :=
  let s := leaveYardJobs y (dropBlocks (.yard y) (fun _ => true) (stopStreams y (fun _ => true) s))
  modYard y cleared s

/-- A task's status other than OK is kept in YRD_FAULT, with the pc. -/
def noteFault (y : YardRef) (status : Nat) (s : State) : State :=
  setYrdEvt 0 (yard s y).task y (modYard y (fun d => { d with faultStatus := BitVec.ofNat 16 status, faultPc := d.pc }) s)

/-- A running task ends with a status other than OK: the Yard stops, the ports close, the record is posted. -/
def taskFault (y : YardRef) (status : Nat) (detail : Option W32) (s : State) : State :=
  let d := yard s y
  match d.task with
  | none => s
  | some t => postTask y.shed t status 0 d.flags (detail.getD (d.pc.setWidth 32)) (idleYard y (noteFault y status s))

/-- A task ends with OK. -/
def taskOk (y : YardRef) (code : Nat) (s : State) : State :=
  let d := yard s y
  match d.task with
  | none => s
  | some t => postTask y.shed t 0 code d.flags 0 (idleYard y s)

/-! ## Queues and re-execution (R260, R265) -/

def taskQ (s : State) (sh : ShedIx) : TaskQ := aGetD s.work.taskQs sh {}
def modTaskQ (sh : ShedIx) (f : TaskQ → TaskQ) (s : State) : State :=
  { s with work := { s.work with taskQs := aMod s.work.taskQs sh {} f } }

/-- NO_RETRY of a task. -/
def noRetry (t : Task) : Bool := (leAt t.desc 5 1).testBit 0

/-- A stopped task whose writes have ended is queued again, at the head, or ends. -/
def settleStop (s : State) (x : Stopped) : State :=
  if yardPending s x.yard then s
  else
    let s := dropYardJobs x.yard { s with work := { s.work with stopped := s.work.stopped.filter fun z => ¬ z = x } }
    if noRetry x.task ∨ 3 ≤ x.task.attempt then
      let s := setYrdEvt 0 (some x.task) x.yard (modYard x.yard (fun d => { d with faultStatus := BitVec.ofNat 16 x.status, faultPc := x.pc }) s)
      postTask x.yard.shed x.task x.status 0 x.flags (x.pc.setWidth 32) s
    else
      codedD 0x8 (yrdOf x.yard.shed) x.task.pen.toNat 0 x.task.id.toNat 0
        (modTaskQ x.yard.shed (fun q => { q with redo := { x.task with attempt := x.task.attempt + 1 } :: q.redo }) s)

/-- Every stopped task whose writes have ended. -/
def settleStops (s : State) : State := s.work.stopped.foldl settleStop s

/-- A running task is stopped by a Yard fault or a Gather Unit's fault (R265 steps 1 and 2). -/
def stopTask (y : YardRef) (status : Nat) (s : State) : State :=
  let d := yard s y
  match d.task with
  | none => s
  | some t =>
    let x : Stopped := { task := t, yard := y, status, flags := d.flags, pc := d.pc }
    let s := dropBlocks (.yard y) (fun _ => true) (stopStreams y (fun _ => true) s)
    settleStops (modYard y cleared { s with work := { s.work with stopped := s.work.stopped ++ [x] } })

/-! ## Running an instruction -/

/-- What an instruction does. -/
inductive YRes where
  /-- It retires, and the pc moves on. -/
  | done (s : State)
  /-- It retires, and the pc is given. -/
  | jump (pc : W64) (s : State)
  /-- It waits and is presented again. -/
  | wait (s : State)
  /-- It ends the task with a status; without a detail, the pc's low half. -/
  | fault (status : Nat) (detail : Option W32) (s : State)
  /-- It retires, and the task has ended. -/
  | over (s : State)

/-- An instruction retires: YRD_INSN_CNT. -/
def retireInsn (y : YardRef) (s : State) : State := modUnit y.shed .yard y.yard (fun n => { n with cnt0 := satInc n.cnt0 }) s

/-- The outcome of an instruction. -/
def settleInsn (y : YardRef) (r : YRes) : State :=
  match r with
  | .done s => modYard y (fun d => { d with pc := d.pc + 16, begun := false }) (retireInsn y s)
  | .jump pc s => modYard y (fun d => { d with pc, begun := false }) (retireInsn y s)
  | .wait s => s
  | .fault st detail s => taskFault y st detail s
  | .over s => retireInsn y s

/-- The word at the pc of a task's image (R236, R258); none where no image holds it. -/
def wordAt (s : State) (t : Task) (pc : W64) : Option (BitVec 128) :=
  (aGet s.work.programs (t.pen, fieldLe 32 t.desc 0 4)).bind fun img =>
    if 64 + pc.toNat + 16 ≤ img.length then some (fieldLe 128 img (64 + pc.toNat) 16) else none

/-- The task's image holds a reserved word at the pc: a reserved GRP, or an OP that its group does not list (R237). -/
def reservedAt (y : YardRef) (s : State) (t : Task) (pc : W64) : Bool := (wordAt s t pc).any fun w => (yardDecode y w).isNone

/-- An instruction of a Yard's running task (R233, R237). It has no effect on a Yard that runs no task, or while a matrix
load before it waits. Where the image holds a reserved word at the pc, the Yard meets that word. -/
def insn (y : YardRef) (f : YF) (u : Uses) (body : Yard → Task → State → YRes) (s : State) : Res :=
  let d := yard s y
  match d.task with
  | none => .next s
  | some t =>
    if yardWorks s y = false ∨ d.mload.isSome then .next s
    else if legal f u = false ∨ reservedAt y s t d.pc then .next (taskFault y tkIllegal none s)
    else .next (settleInsn y (body d t s))

/-- The body of an instruction that only computes on the Yard's registers. -/
def pureInsn (y : YardRef) (g : Yard → Yard) : Yard → Task → State → YRes := fun _ _ s => .done (modYard y g s)

end Sys2Proof.Machine
end

