-- ==== Sys2Proof/Machine/Units.lean ====
section
/-! DEFINITION. Fencing and sparing (R12, R382 to R386): the four kinds of unit with a spare in each Shed, the failures
that fence them, SPARE_STATUS and SPARE_ENGAGE, and the spare rows of the Loft. -/

namespace Sys2Proof.Machine

/-! ## Fencing a unit and engaging its spare (R12, R382, R383) -/

def kindCode (k : UnitKind) : Nat := match k with | .yard => 0 | .reduce => 1 | .gather => 2 | .filter => 3
def kindOf (n : Nat) : Option UnitKind :=
  match n with | 0 => some .yard | 1 => some .reduce | 2 => some .gather | 3 => some .filter | _ => none

/-- The index of the spare (R11). -/
def spareIx : UnitIx := 16

/-- A unit does work: it is active, or an engaged spare. -/
def unitLive (n : Unit) : Bool := n.st == .active || n.st == .spareEngaged

/-- The unit has entered Fenced: its FENCED event. -/
def setFencedEvt (sh : ShedIx) (k : UnitKind) (u : UnitIx) (s : State) : State :=
  match k with
  | .yard => setYrdEvt 4 none ⟨sh, u⟩ s
  | .reduce => setRduEvt 3 0 0 sh u s
  | .gather => setUnitEvt 3 0 0 sh .gather u s
  | .filter => setUnitEvt 3 0 0 sh .filter u s

/-- The requests of a Gather or Filter Unit end with UNIT_FAULT (R226); the tasks that its ports feed act under R265. -/
def failRequests (sh : ShedIx) (k : UnitKind) (u : UnitIx) (s : State) : State :=
  let qs := unitReqs s sh k u
  let isPort (q : UnitReq) : Bool := match q.src with | .port _ _ => true | .cmx _ _ => false
  let s := (qs.filter fun q => !isPort q).foldl (fun s q => endReq q 6 s) s
  (qs.filter isPort).foldl (fun s q => match q.src with | .port y _ => stopTask y tkUnit s | .cmx _ _ => s) s

/-- The work of a unit that is fenced (R384): under R265, R190 or R226; a Yard's L1 flushes first (R307). -/
def endUnitWork (sh : ShedIx) (k : UnitKind) (u : UnitIx) (s : State) : State :=
  match k with
  | .yard => stopTask ⟨sh, u⟩ tkYard (if islRunning s (shcOf sh) then flushCache (yardCache ⟨sh, u⟩) s else s)
  | .reduce => loseChunks sh u s
  | .gather => failRequests sh .gather u s
  | .filter => failRequests sh .filter u s

/-- The journal key of a Shed's retired units of a kind (R383). -/
def retiredKey (sh : ShedIx) (k : UnitKind) : Nat := 0x60000 + kindCode k * 16 + sh.val

/-- A unit is journalled as retired. -/
def retireUnit (sh : ShedIx) (k : UnitKind) (u : UnitIx) (s : State) : State :=
  let m := ((jValue s (retiredKey sh k)).map leNat).getD 0
  ownAppend (BitVec.ofNat 32 (retiredKey sh k)) (toLe 4 (Nat.lor m (2 ^ u.val)))
    (modUnit sh k u (fun n => { n with wear := orBit n.wear 2 }) s)

/-- A cause that R383 journals: not the FENCE bit alone, and not a host request. -/
def hardwareCause (cause : BitVec 8) : Bool := cause != 0 && cause != 5

/-- Chunks that no other unit had a slot for go to the spare. -/
def moveChunks (sh : ShedIx) (u : UnitIx) (s : State) : State :=
  let f (c : Chunk) : Chunk := if c.shed = sh ∧ c.unit = u then { c with unit := spareIx } else c
  { s with groups := s.groups.map fun g => (g.1, { g.2 with opened := g.2.opened.map f }) }

/-- The Keeper engages a Shed's free spare in place of a fenced unit (R382): event 0x000B. -/
def engageSpare (sh : ShedIx) (k : UnitKind) (u : UnitIx) (s : State) : State :=
  if (unit s sh k spareIx).st ≠ .spareFree ∨ u = spareIx ∨ s.kpr.state ≠ .running then s
  else
    let s := modUnit sh k spareIx (fun n => { n with st := .spareEngaged, link := some u, engaged := true }) s
    let s := modUnit sh k u (fun n => { n with link := some spareIx }) s
    let s := codedD 0xB (shcOf sh) 0 0 (kindCode k * 16 + u.val) 0 s
    if k = .reduce then moveChunks sh u s else s

/-- A unit is fenced with a cause of R385: its work ends, a hardware cause is journalled, and the spare is engaged when it
is free. A SPARE_ENGAGE that waited for the unit is answered. -/
def fenceUnit (sh : ShedIx) (k : UnitKind) (u : UnitIx) (cause : BitVec 8) (s : State) : State :=
  let n := unit s sh k u
  if n.st = .off ∨ n.st = .fenced then s
  else
    let s := modUnit sh k u (fun n => { n with st := .fenced, cause, draining := false, drain := none, link := none }) s
    let s := endUnitWork sh k u (setFencedEvt sh k u s)
    let s := if hardwareCause cause then retireUnit sh k u s else s
    let s := engageSpare sh k u s
    match n.drain with
    | some rep => post rep stOk [] s
    | none => s

/-- The fenced units of a kind that wait for their Shed's free spare. -/
def waitingUnits (s : State) (sh : ShedIx) (k : UnitKind) : List UnitIx :=
  ((List.range 16).map (Fin.ofNat 17)).filter fun u => (unit s sh k u).st == .fenced && (unit s sh k u).link.isNone

/-- Engagements that waited for the Keeper (R382): at a boot the lowest index is replaced (R383), otherwise any. -/
def engageWaiting (boot : Bool) (s : State) : State :=
  allSheds.foldl (fun s sh => [UnitKind.yard, .reduce, .gather, .filter].foldl (fun s k =>
    match if boot then ((waitingUnits s sh k).head?, s) else takeOne (waitingUnits s sh k) s with
    | (some u, s) => engageSpare sh k u s
    | (none, s) => s) s) s

/-- UNIT_FENCE: a fence by the FENCE bit (cause 0), by a fault, by a wear action or by the host. -/
def execUnitFence (sh : ShedIx) (k : UnitKind) (u : UnitIx) (cause : BitVec 8) (s : State) : Res :=
  .next (fenceUnit sh k u cause (if cause = 0 then modUnit sh k u (fun n => { n with fence := true }) s else s))

/-- REDUCE_UNIT_FAIL (R190): an accumulator error. -/
def execReduceUnitFail (sh : ShedIx) (u : UnitIx) (s : State) : Res :=
  .next (if (unit s sh .reduce u).st = .off ∨ (unit s sh .reduce u).st = .fenced then s
    else fenceUnit sh .reduce u 1 (setRduEvt 2 0 0 sh u s))

/-- GATHER_UNIT_FAIL (R226), of a Gather or a Filter Unit. -/
def execGatherUnitFail (sh : ShedIx) (k : UnitKind) (u : UnitIx) (s : State) : Res :=
  match k with
  | .gather => .next (fenceUnit sh .gather u 1 s)
  | .filter => .next (fenceUnit sh .filter u 1 s)
  | _ => .next s

/-- MATCH_BANK_LOSS_REWRITE (R220), by the Keeper; the searches that waited for the bank go on. -/
def execMatchBankLossRewrite (sh : ShedIx) (s : State) : Res :=
  if s.kpr.state ≠ .running then .next s
  else
  let s := rewriteBank sh s
  .next (releaseFrames ((s.work.reqs.filter fun q => q.filter && q.unit.isSome).foldl (fun s q => runReq q.id [] s) s))

/-! ## SPARE_STATUS (R385) -/

def cmdSpareStatus : Cmd := { op := 0x110, f := true, fields := [(0, 2)], blen := fun _ => true }

def unitStCode (st : UnitSt) : Nat := match st with | .off => 0 | .active => 1 | .fenced => 2 | .spareFree => 3 | .spareEngaged => 4

/-- A unit's record, its count coarsened for the caller. -/
def unitRecord (s : State) (c : ChanIx) (n : Unit) : List Byte :=
  [BitVec.ofNat 8 (unitStCode n.st), BitVec.ofNat 8 ((n.link.map (·.val)).getD 0xFF), n.wear.setWidth 8, n.cause]
    ++ toLe 4 (coarsen s c n.ce24.toNat)

/-- A slice's STATE in the record: a spare that retunes counts as engaged. -/
def sliceStCode (st : BitVec 3) : Nat :=
  match st.toNat with | 0 => 0 | 1 => 1 | 2 => 3 | 3 => 4 | 4 => 4 | _ => 2

def sliceRecord (q : Slice) : List Byte :=
  [BitVec.ofNat 8 (sliceStCode q.state), BitVec.ofNat 8 ((q.link.map (·.val)).getD 0xFF), q.wear.setWidth 8, q.cause, 0, 0, 0, 0]

/-- The Lanterns of a Shed (R404). -/
def shedLanterns (sh : ShedIx) : List StackIx := (List.range 4).map fun l => Fin.ofNat 16 (4 * sh.val + l)

/-- The records of a kind in a Shed. -/
def spareRecords (s : State) (c : ChanIx) (kind : Nat) (sh : ShedIx) : List Byte :=
  match kindOf kind with
  | some k => allUnits.flatMap fun u => unitRecord s c (unit s sh k u)
  | none => (shedLanterns sh).flatMap fun l => (List.range 36).flatMap fun i => sliceRecord (slice (lantern s l) (Fin.ofNat 36 i))

def spareStatus (r : Req) (rep : Reply) (s : State) : State :=
  let kind := leAt r.payload 0 1
  let sh := leAt r.payload 1 1
  if 4 < kind ∨ 3 < sh then post rep stBadParam [] s
  else
    let out := spareRecords s r.chan kind (shedOf sh)
    if outTooShort r out then tooShort rep out.length s else answerOut rep r out (toLe 4 out.length) s

/-- SPARE_STATUS. -/
def execSpareStatus (r : Req) (s : State) : Res := .next (mbx cmdSpareStatus false r (spareStatus r) s)

/-! ## SPARE_ENGAGE (R384) -/

def cmdSpareEngage : Cmd := { op := 0x111, flags := 1, fields := [(0, 3)] }

/-- Why a SPARE_ENGAGE of kinds 0 to 3 is refused. -/
def engageStatus (s : State) (sh : Nat) (k : UnitKind) (u : Nat) : Nat :=
  let n := unit s (shedOf sh) k (Fin.ofNat 17 u)
  if 3 < sh ∨ 16 ≤ u ∨ n.st ≠ .active then stBadParam
  else if (unit s (shedOf sh) k spareIx).st ≠ .spareFree ∨ n.drain.isSome then stBusy
  else stOk

/-- A SPARE_ENGAGE of a Lantern's lane: the lane moves within the link-retry window, after a retuning where it needs one. -/
def engageLane (r : Req) (rep : Reply) (s : State) : State :=
  let sh := leAt r.payload 1 1
  let ix := leAt r.payload 2 1
  let l : StackIx := Fin.ofNat 16 (4 * sh + ix / 32)
  let a : Fin 32 := Fin.ofNat 32 ix
  let q := lantern s l
  let st := (slice q (laneSlice q a)).state
  if 3 < sh ∨ 127 < ix ∨ ¬ (st = 1 ∨ st = 3) then post rep stBadParam [] s
  else if (freeSpares q).isEmpty ∨ (aGet q.moveReplies a).isSome then post rep stBusy [] s
  else
    let s := moveLane l a 5 false s
    if (lantern s l).retuning.any (fun x => x.2.1 = a) then modLantern l (fun q => { q with moveReplies := aSet q.moveReplies a rep }) s
    else post rep stOk [] s

/-- Without NOW the unit drains: EN is cleared, and SPARE_ENGAGE_COMPLETE ends the command. -/
def engageAct (now : Bool) (r : Req) (rep : Reply) (s : State) : State :=
  let kind := leAt r.payload 0 1
  let sh := leAt r.payload 1 1
  let u := leAt r.payload 2 1
  if kind = 4 then engageLane r rep s
  else match kindOf kind with
    | none => post rep stBadParam [] s
    | some k =>
      if engageStatus s sh k u ≠ stOk then post rep (engageStatus s sh k u) [] s
      else if now then post rep stOk [] (fenceUnit (shedOf sh) k (Fin.ofNat 17 u) 5 s)
      else modUnit (shedOf sh) k (Fin.ofNat 17 u) (fun n => { n with en := false, draining := true, drain := some rep }) s

/-- SPARE_ENGAGE. -/
def execSpareEngage (r : Req) (s : State) : Res :=
  .next (mbx cmdSpareEngage false r (engageAct (r.flags.getLsbD 0) r) s)

/-- SPARE_ENGAGE with NOW. -/
def execSpareEngageNow (r : Req) (s : State) : Res :=
  let r' := { r with flags := r.flags ||| 1 }
  .next (mbx cmdSpareEngage false r' (engageAct true r') s)

/-- A unit's work has finished. -/
def unitIdle (s : State) (sh : ShedIx) (k : UnitKind) (u : UnitIx) : Bool :=
  match k with
  | .yard => (yard s ⟨sh, u⟩).task.isNone
  | .reduce => !(s.groups.any fun g => g.2.opened.any fun c => decide (c.shed = sh ∧ c.unit = u))
  | .gather => (unitReqs s sh .gather u).isEmpty
  | .filter => (unitReqs s sh .filter u).isEmpty

/-- A draining unit whose work has finished is fenced: for a wear action where ACT is met, else for the host. Where the
spare has been taken meanwhile the unit stays in service. -/
def finishDrain (sh : ShedIx) (k : UnitKind) (u : UnitIx) (s : State) : State :=
  let n := unit s sh k u
  if n.draining = false ∨ unitIdle s sh k u = false ∨ unitLive n = false then s
  else if (unit s sh k spareIx).st = .spareFree then fenceUnit sh k u (if n.wear.getLsbD 1 then 4 else 5) s
  else
    let s := modUnit sh k u (fun n => { n with en := true, draining := false, drain := none }) s
    match n.drain with
    | some rep => post rep stBusy [] s
    | none => s

/-- SPARE_ENGAGE_COMPLETE. -/
def execSpareEngageComplete (sh : ShedIx) (k : UnitKind) (u : UnitIx) (s : State) : Res := .next (finishDrain sh k u s)

/-! ## Loft rows (R386) -/

def dayNs : Nat := 86400 * 10 ^ 9

/-- The times of a sliding 24 hours, with one more. -/
def slide (ts : List Nat) (now : Nat) : List Nat := ts.filter (fun t => decide (now < t + dayNs)) ++ [now]

/-- Rows of a Shed's Loft mapped to spare rows; it has 1,024. -/
def mappedRows (s : State) (sh : ShedIx) : Nat := (s.loftMapped.filter fun r => r.1 == sh).length

/-- A row is mapped to a spare row, where one is left. When less than a tenth of them is left, WARN. -/
def mapRow (sh : ShedIx) (row : Nat) (s : State) : State :=
  if s.loftMapped.contains (sh, row) ∨ 1024 ≤ mappedRows s sh then s
  else
    let was := decide (10 * (1024 - mappedRows s sh) < 1024)
    let s := { s with loftMapped := s.loftMapped ++ [(sh, row)], loftErr := aErase s.loftErr (sh, row) }
    if was = false ∧ 10 * (1024 - mappedRows s sh) < 1024 then codedD 0xC (shcOf sh) 0 0 row 0 s else s

/-- The frame that a row with an uncorrectable error held, where it held one: which one is free. -/
def dropHeld (sh : ShedIx) (s : State) : State :=
  let fs := s.sw.voqs.flatMap fun v => if v.1.1 = sh then (List.range v.2.frames.length).map fun i => (v.1.2, i) else []
  let (n, s) := takePick s
  match (fs.drop (n % (fs.length + 1))).head? with
  | none => s
  | some (v, i) =>
    match ((voq s sh v).frames.drop i).head? with
    | none => s
    | some f => finishFrame f (modSched sh (fun c => { c with bufDrop := satInc c.bufDrop })
        (modVoq sh v (fun q => { q with frames := q.frames.eraseIdx i }) s))

/-- LOFT_ROW_ERROR. -/
def execLoftRowError (sh : ShedIx) (row : Nat) (uncorrectable : Bool) (now : Nat) (s : State) : Res :=
  if islRunning s (shcOf sh) = false ∨ s.loftMapped.contains (sh, row) then .next s
  else if uncorrectable then .next (mapRow sh row (dropHeld sh s))
  else
    let ts := slide (aGetD s.loftErr (sh, row) []) now
    let s := { s with loftErr := aSet s.loftErr (sh, row) ts }
    if effective s 0x5000C ≤ ts.length then .next (mapRow sh row (codedD 0xD (shcOf sh) 0 0 row 0 s)) else .next s

end Sys2Proof.Machine
end

