-- ==== Sys2Proof/Machine/Tasks.lean ====
section
/-! DEFINITION. Yard programs and tasks (R258 to R266): YARD_PROGRAM_LOAD, YARD_TASK_SUBMIT, dispatch, the time limit, a
Yard's failures and its self-test. -/

namespace Sys2Proof.Machine

/-! ## Programs (R258) -/

def cmdProgramLoad : Cmd := { op := 0x80, p := true, level := 2, flags := 1, blen := fun _ => true }
def cmdProgramRemove : Cmd := { op := 0x80, p := true, level := 2, flags := 1, fields := [(0, 4)] }

/-- An image is well formed. -/
def imageValid (b : List Byte) : Bool :=
  let count := leAt b 8 4
  decide (64 ≤ b.length) && leAt b 0 4 == 0x59445250 && (leAt b 4 1 == 1 || leAt b 4 1 == 2) && decide (1 ≤ count ∧ count ≤ 65536)
    && (List.range 8).all (fun i => leAt b (12 + 4 * i) 4 % 16 == 0 && decide (leAt b (12 + 4 * i) 4 < 16 * count))
    && b.length == 64 + 16 * count

/-- The programs of a Pen. -/
def penPrograms (s : State) (p : BitVec 12) : List W32 := (s.work.programs.filter fun x => x.1.1 = p).map (·.1.2)

/-- YARD_PROGRAM_LOAD: an image joins the Pen's programs, in the control area and in the measurement log. -/
def loadProgram (r : Req) (rep : Reply) (s : State) : State :=
  let p := actingPen s r
  let img := inBuf s r
  if imageValid img = false then post rep stBadParam [] s
  else if 64 ≤ (penPrograms s p).length ∨ ctlFree s < img.length + 80 then post rep stNoSpace [] s
  else
    let (id, s) := freshId (penPrograms s p) s
    let s := ctlTake img.length { s with work := { s.work with programs := aSet s.work.programs (p, id) img } }
    post rep stOk (toLe 4 id.toNat) (logEntry 4 p.toNat id (Config.digest img) s)

/-- YARD_PROGRAM_LOAD. -/
def execYardProgramLoad (r : Req) (s : State) : Res := .next (mbx cmdProgramLoad true r (loadProgram r) s)

/-- Every task of the device: queued, stopped for re-execution, running. -/
def allTasks (s : State) : List Task :=
  s.work.taskQs.flatMap (fun q => q.2.redo ++ q.2.queue) ++ s.work.stopped.map (·.task) ++ s.work.yards.filterMap (·.2.task)

/-- PROGRAM of a task. -/
def taskProgram (t : Task) : W32 := fieldLe 32 t.desc 0 4

/-- An image leaves a Pen's programs; its removal enters the measurement log (R371). -/
def dropProgram (p : BitVec 12) (id : W32) (s : State) : State :=
  match aGet s.work.programs (p, id) with
  | none => s
  | some img =>
    let s := ctlGive img.length { s with work := { s.work with programs := aErase s.work.programs (p, id) } }
    logEntry 5 p.toNat id (Config.digest img) s

/-- YARD_PROGRAM_LOAD with REMOVE. -/
def removeProgram (r : Req) (rep : Reply) (s : State) : State :=
  let p := actingPen s r
  let id : W32 := fieldLe 32 r.payload 0 4
  if (aGet s.work.programs (p, id)).isNone then post rep stNotFound [] s
  else if (allTasks s).any (fun t => decide (t.pen = p ∧ taskProgram t = id)) then post rep stBusy [] s
  else post rep stOk (toLe 4 id.toNat) (dropProgram p id s)

/-- YARD_PROGRAM_REMOVE. -/
def execYardProgramRemove (r : Req) (s : State) : Res :=
  .next (mbx cmdProgramRemove false { r with flags := r.flags ||| 1 } (removeProgram r) s)

/-! ## Submission (R259, R260, R24, R298) -/

def cmdTaskSubmit : Cmd := { op := 0x81, p := true, level := 3, fields := [(0, 128)] }

/-- A range of device-space pages lies in the grant of the acting Pen; an admin channel may name any page beyond the
first 64 MiB (R297, R298). -/
def inGrant (s : State) (c : ChanIx) (p : BitVec 12) (first pages : Nat) : Bool :=
  if isAdmin c then decide (64 * 256 ≤ first ∧ (first + pages) * 4096 ≤ s.near.dsSize)
  else decide ((pen s p).dsFirst.toNat ≤ first ∧ first + pages ≤ (pen s p).dsFirst.toNat + (pen s p).dsPages.toNat)

/-- The fields of a task descriptor are valid. -/
def taskOkFields (s : State) (c : ChanIx) (p : BitVec 12) (d : List Byte) : Bool :=
  (aGet s.work.programs (p, fieldLe 32 d 0 4)).isSome && decide (leAt d 4 1 ≤ 7) && decide (leAt d 5 1 < 4)
    && (decide (leAt d 6 1 ≤ 3) || !(leAt d 5 1).testBit 1) && leAt d 7 1 == 0 && leAt d 14 2 == 0 && leAt d 28 4 == 0
    && (leAt d 24 4 == 0 || inGrant s c p (leAt d 20 4) (leAt d 24 4))

/-- The tasks queued in a Shed. -/
def queued (s : State) (sh : ShedIx) : Nat := ((taskQ s sh).redo ++ (taskQ s sh).queue).length

/-- The Sheds with the fewest queued tasks, in ascending order. -/
def fewestQueued (s : State) (shs : List ShedIx) : List ShedIx := leastBy (queued s) shs

/-- A Yard of the Shed is active and not fenced, and its island runs. -/
def hasYard (s : State) (sh : ShedIx) : Bool :=
  islRunning s (yrdOf sh) && allUnits.any fun u => unitLive (unit s sh .yard u)

/-- The output Sheds of a node (R24). -/
def outputSheds (s : State) (n : Node) : List ShedIx :=
  match nodeEntry s.routes.current n with
  | none => []
  | some e => allSheds.filter fun sh => e.ports.any (fun p => portShed p == sh && linkUp s p) && hasYard s sh

/-- The Sheds whose queue may take a task (R260): one that is named, or the output Shed of R24, else any with the fewest
queued tasks. -/
def taskSheds (s : State) (d : List Byte) : List ShedIx :=
  if (leAt d 5 1).testBit 1 then [shedOf (leAt d 6 1)]
  else match fewestQueued s (if leAt d 12 2 = 0 then [] else outputSheds s (fieldLe 16 d 12 2)) with
    | sh :: _ => [sh]
    | [] => fewestQueued s (allSheds.filter fun sh => islRunning s (shcOf sh))

/-- The Pen's tasks that are queued or running (R355). -/
def penTasks (s : State) (p : BitVec 12) : Nat := ((allTasks s).filter fun t => t.pen = p).length

/-- YARD_TASK_SUBMIT. -/
def submitTask (r : Req) (rep : Reply) (s : State) : State :=
  let p := actingPen s r
  let d := r.payload.take 128
  if taskOkFields s r.chan p d = false then post rep stBadParam [] s
  else match takeOne (taskSheds s d) s with
    | (none, s) => post rep stServiceDown [] s
    | (some sh, s) =>
      if 1024 ≤ queued s sh then post rep stNoSpace [] (setShdEvt sh p.toNat r.chan.val s)
      else if (pen s p).qTasks.toNat ≤ penTasks s p then post rep stNoSpace [] s
      else
        let (id, s) := freshId ((allTasks s).map (·.id)) s
        let t : Task := { id, chan := r.chan, pen := p, desc := d }
        let s := modTaskQ sh (fun q => { q with
          queue := q.queue ++ [t], turn := if q.turn.contains p then q.turn else q.turn ++ [p] }) s
        post rep stOk (toLe 4 id.toNat) s

/-- YARD_TASK_SUBMIT. -/
def execYardTaskSubmit (r : Req) (s : State) : Res := .next (mbx cmdTaskSubmit false r (submitTask r) s)

/-! ## Dispatch (R230, R260, R261) -/

/-- A task starts: every register is zero, but for those that R230 names. -/
def startTask (y : YardRef) (t : Task) (s : State) : State :=
  let img := aGetD s.work.programs (t.pen, taskProgram t) []
  let vm := leAt img 6 2
  let args (d : Yard) : Yard := (List.range 12).foldl (fun d i => setS (BitVec.ofNat 5 (i + 1)) (fieldLe 64 t.desc (32 + 8 * i) 8) d) d
  modYard y (fun d => args { cleared d with
    task := some t, step := taskStep t, seed := (pen s t.pen).seed, vlmax := vm,
    vl := BitVec.ofNat 12 (if vm = 0 then vlen else min vlen vm),
    pc := BitVec.ofNat 64 (leAt img (12 + 4 * leAt t.desc 4 1) 4) }) s

/-- The next task of a Shed: one to be run again, else the first task of the Pen whose turn it is. -/
def nextTask (q : TaskQ) : Option (Task × TaskQ) :=
  match q.redo with
  | t :: ts => some (t, { q with redo := ts })
  | [] =>
    match q.turn with
    | [] => none
    | p :: ps =>
      match q.queue.find? fun t => t.pen = p with
      | none => none
      | some t =>
        let rest := q.queue.erase t
        some (t, { q with queue := rest, turn := if rest.any (fun x => x.pen = p) then ps ++ [p] else ps })

/-- A Yard may be given a task: Idle, active, enabled, not under test and with no stopped attempt of its own. -/
def yardIdle (s : State) (y : YardRef) : Bool :=
  let n := unit s y.shed .yard y.yard
  let d := yard s y
  yardWorks s y && islRunning s (shcOf y.shed) && (shd s y.shed).dispatch && n.en && !n.draining && d.task.isNone && !d.testing
    && !(s.work.stopped.any fun x => x.yard == y)

/-- TASK_DISPATCH. -/
def execTaskDispatch (y : YardRef) (s : State) : Res :=
  let s := settleStops s
  if yardIdle s y = false then .next s
  else match nextTask (taskQ s y.shed) with
    | none => .next s
    | some (t, q) => .next (startTask y t (modTaskQ y.shed (fun _ => q) s))

/-- TASK_TIME_LIMIT: it has no effect on a task without a limit. -/
def execTaskTimeLimit (y : YardRef) (s : State) : Res :=
  match (yard s y).task with
  | none => .next s
  | some t => if leAt t.desc 16 4 = 0 then .next s else .next (taskFault y tkTime none s)

/-! ## A Yard's failures (R265) -/

/-- The CAUSE of R385 for a cause of YRD_FAULT. -/
def spareCause (cause : BitVec 8) : BitVec 8 := if cause = 4 then 2 else if cause = 5 then 3 else 1

/-- A line of an L1 is lost to an uncorrectable error: which one is free. A Modified copy was the only one. -/
def loseL1Line (y : YardRef) (s : State) : State :=
  let c := yardCache y
  let ls := s.coh.caches.filterMap fun e => if e.1.1 = c then some (e.1.2, e.2.st) else none
  let (n, s) := takePick s
  match (ls.drop (n % (ls.length + 1))).head? with
  | none => s
  | some (l, st) => dropLine c l (if st = .m then poisonLine l s else s)

/-- A Yard fails: HW_FAULT and CAUSE, its task acts under R265, and the Yard is fenced. -/
def failYard (y : YardRef) (cause : BitVec 8) (s : State) : State :=
  let n := unit s y.shed .yard y.yard
  if unitLive n = false ∧ n.st ≠ .spareFree then s
  else
    let s := setYrdEvt 1 (yard s y).task y (modYard y (fun d => { d with faultCause := cause, faultPc := if d.task.isSome then d.pc else d.faultPc }) s)
    let s := if cause = 2 then loseL1Line y s else s
    fenceUnit y.shed .yard y.yard (spareCause cause) s

/-- YARD_FAULT: a scratch, L1 or register-file error (causes 1 to 3). -/
def execYardFault (y : YardRef) (cause : BitVec 8) (s : State) : Res :=
  if islRunning s (yrdOf y.shed) then .next (failYard y cause s) else .next s

/-- YARD_PIPELINE_STALL, of a Yard that runs a task. -/
def execYardPipelineStall (y : YardRef) (s : State) : Res :=
  if (yard s y).task.isSome then .next (failYard y 5 s) else .next s

/-! ## Self-test (R266, R386) -/

/-- YARD_SELFTEST_START: an Idle Yard. -/
def execYardSelftestStart (y : YardRef) (s : State) : Res :=
  if yardWorks s y ∧ (yard s y).task.isNone ∧ (yard s y).testing = false then .next (modYard y (fun d => { d with testing := true }) s)
  else .next s

/-- A failure at the margin alone counts; WARN and ACT are reached at their thresholds, and at ACT the Yard is retired at a
task boundary where the spare is free. -/
def marginFail (y : YardRef) (now : Nat) (s : State) : State :=
  let ts := slide (aGetD s.marginFails y []) now
  let s := { s with marginFails := aSet s.marginFails y ts }
  let was := (unit s y.shed .yard y.yard).wear
  let warn := decide (effective s 0x5000A ≤ ts.length)
  let act := decide (effective s 0x5000B ≤ ts.length)
  let s := if warn ∧ was.getLsbD 0 = false then codedD 0xC (yrdOf y.shed) 0 0 y.yard.val 0 s else s
  let s := if act ∧ was.getLsbD 1 = false then codedD 0xD (yrdOf y.shed) 0 0 y.yard.val 0 s else s
  let w : BitVec 3 := BitVec.ofNat 3 (bitNat warn + 2 * bitNat act)
  let s := modUnit y.shed .yard y.yard (fun n => { n with wear := (n.wear &&& 4) ||| w }) s
  if act ∧ (unit s y.shed .yard spareIx).st = .spareFree ∧ y.yard ≠ spareIx then
    finishDrain y.shed .yard y.yard (modUnit y.shed .yard y.yard (fun n => { n with en := false, draining := true }) s)
  else s

/-- YARD_SELFTEST_DONE: RESULT and RUNS; a failure fences the Yard. -/
def execYardSelftestDone (y : YardRef) (result : BitVec 8) (marginOk : Bool) (now : Nat) (s : State) : Res :=
  if (yard s y).testing = false then .next s
  else
    let s := modYard y (fun d => { d with
      testing := false, testResult := result, testRuns := if d.testRuns = 0xFFFF then d.testRuns else d.testRuns + 1 }) s
    if result ≠ 0 then .next (failYard y 4 (setYrdEvt 3 none y s))
    else if marginOk then .next s
    else .next (marginFail y now s)

end Sys2Proof.Machine
end

