-- ==== Sys2Proof/Machine/Dma.lean ====
section
/-! DEFINITION. The DMA engines (R309 to R320): programs, channels, the seven instructions, beats, bus errors, stops and
aborts. A DMA instruction's command presents the instruction at its channel's DMA_CH_PC; MOVE, FILL and COMPARE then go on
by the engine's beats. -/

namespace Sys2Proof.Machine

/-! ## Engines and channels -/

def eng (s : State) (sh : ShedIx) : DEng := aGetD s.dma.engs sh {}
def modEng (sh : ShedIx) (f : DEng → DEng) (s : State) : State := { s with dma := { s.dma with engs := aMod s.dma.engs sh {} f } }

def dmaShed (c : DmaIx) : ShedIx := Fin.ofNat 4 (c.val / 32)
def engChans (sh : ShedIx) : List DmaIx := (List.range 32).map fun i => Fin.ofNat 128 (32 * sh.val + i)
def allDma : List DmaIx := (List.range 128).map (Fin.ofNat 128)

/-- A bit of DMA_ENG_EVT; the event names a Pen and a channel. -/
def setDmaEvt (bit pen obj : Nat) (sh : ShedIx) (s : State) : State :=
  evtBitD (shedBase sh + 0x350014) bit (shcOf sh) pen 0 obj 0 (modEng sh (fun e => { e with evt := orBit e.evt bit }) s)

/-- The statuses of R315. -/
def dmOk : Nat := 0
def dmBad : Nat := 1
def dmAddress : Nat := 2
def dmNack : Nat := 3
def dmPoisoned : Nat := 4
def dmMismatch : Nat := 5
def dmTimeout : Nat := 6
def dmAborted : Nat := 7

/-- A channel's accesses to the pool are forgotten, and its requests that no home has begun. -/
def dropDmaAcc (c : DmaIx) (s : State) : State :=
  let mine (r : CohReq) : Bool := match r with
    | .once d => d == c
    | .full d _ => d == c
    | .part d _ _ => d == c
    | _ => false
  { s with pool := { s.pool with jobs := s.pool.jobs.filter fun j => ¬ j.orig = .dma c },
           coh := { s.coh with queue := s.coh.queue.filter fun q => !mine q.2 } }

/-- A channel is Idle: its program has ended with a status. -/
def idleDma (c : DmaIx) (status : Nat) (s : State) : State :=
  modDch c (fun d => { d with st := .idle, pen := 0, endStatus := BitVec.ofNat 16 status, loops := [], xfer := none, got := none, wrote := false,
                              abort := none }) (dropDmaAcc c s)

/-- The completion record (R315). -/
def dmaRecord (c : DmaIx) (status pc : Nat) (detail : W32) : List Byte :=
  toLe 2 c.val ++ toLe 2 status ++ toLe 2 pc ++ [0, 0] ++ toLe 4 detail.toNat ++ [0, 0, 0, 0]

/-- A channel's program ends: DMA_DONE to the starting channel. -/
def endDma (c : DmaIx) (status : Nat) (detail : W32) (s : State) : State :=
  let d := dch s c
  let s := if status = dmPoisoned then setDmaEvt 1 d.pen.toNat c.val (dmaShed c) s else s
  shedNotice (dmaShed c) d.chan 2 (dmaRecord c status d.pc detail) (idleDma c status s)

/-! ## Programs (R310) -/

def cmdDmaLoad : Cmd := { op := 0x90, p := true, level := 2, flags := 1, blen := fun _ => true }
def cmdDmaRemove : Cmd := { op := 0x90, p := true, level := 2, flags := 1, fields := [(0, 4)] }

def penDmaPrograms (s : State) (p : BitVec 12) : Nat := (s.dma.programs.filter fun x => x.1.1 = p).length

/-- DMA_PROGRAM_LOAD: 1 to 256 instructions of 32 B. -/
def loadDma (r : Req) (rep : Reply) (s : State) : State :=
  let p := actingPen s r
  let img := inBuf s r
  if img.length % 32 ≠ 0 ∨ img.length = 0 ∨ 8192 < img.length then post rep stBadParam [] s
  else if 64 ≤ penDmaPrograms s p ∨ ctlFree s < img.length then post rep stNoSpace [] s
  else
    let (id, s) := freshId ((s.dma.programs.filter fun x => x.1.1 = p).map (·.1.2)) s
    post rep stOk (toLe 4 id.toNat)
      (ctlTake img.length { s with dma := { s.dma with programs := aSet s.dma.programs (p, id) img } })

/-- DMA_PROGRAM_LOAD. -/
def execDmaProgramLoad (r : Req) (s : State) : Res := .next (mbx cmdDmaLoad true r (loadDma r) s)

/-- A channel runs a program. -/
def runsProgram (d : DCh) (p : BitVec 12) (id : W32) : Bool := d.st ≠ .idle && d.pen == p && d.prog == id

def dropDmaProgram (p : BitVec 12) (id : W32) (s : State) : State :=
  match aGet s.dma.programs (p, id) with
  | none => s
  | some img => ctlGive img.length { s with dma := { s.dma with programs := aErase s.dma.programs (p, id) } }

def removeDma (r : Req) (rep : Reply) (s : State) : State :=
  let p := actingPen s r
  let id : W32 := fieldLe 32 r.payload 0 4
  if (aGet s.dma.programs (p, id)).isNone then post rep stNotFound [] s
  else if s.dma.chs.any (fun c => runsProgram c.2 p id) then post rep stBusy [] s
  else post rep stOk (toLe 4 id.toNat) (dropDmaProgram p id s)

/-- DMA_PROGRAM_LOAD with REMOVE. -/
def execDmaProgramRemove (r : Req) (s : State) : Res :=
  .next (mbx cmdDmaRemove false { r with flags := r.flags ||| 1 } (removeDma r) s)

/-! ## DMA_START (R309, R298) -/

def cmdDmaStart : Cmd := { op := 0x91, p := true, level := 2, flags := 1, fields := [(0, 6), (8, 8)] }
def cmdDmaResume : Cmd := { op := 0x91, p := true, level := 2, flags := 1, fields := [(0, 16)] }

/-- A range of device space lies in what a starting channel may name. -/
def dsRange (s : State) (c : ChanIx) (p : BitVec 12) (a n : Nat) : Bool :=
  if isAdmin c then decide (64 * 2 ^ 20 ≤ a ∧ a + n ≤ s.near.dsSize)
  else decide ((pen s p).dsFirst.toNat * 4096 ≤ a ∧ a + n ≤ ((pen s p).dsFirst.toNat + (pen s p).dsPages.toNat) * 4096)

/-- The device-space operands of an instruction, as loaded, lie in the grant. -/
def operandsOk (s : State) (c : ChanIx) (p : BitVec 12) (i : List Byte) : Bool :=
  let op := leAt i 0 1
  let spaces := leAt i 1 1
  let n := leAt i 4 4
  let src := op == 1 || (op == 3 && !(leAt i 2 1).testBit 1)
  let dst := op == 1 || op == 2 || op == 3
  (!src || bitsOf spaces 1 0 != 0 || dsRange s c p (leAt i 8 8) n) && (!dst || bitsOf spaces 3 2 != 0 || dsRange s c p (leAt i 16 8) n)

/-- Every instruction of a program. -/
def programOk (s : State) (c : ChanIx) (p : BitVec 12) (img : List Byte) : Bool :=
  (List.range (img.length / 32)).all fun i => operandsOk s c p ((img.drop (32 * i)).take 32)

/-- The Idle channels of a Shed that a start may be given. -/
def idleChans (s : State) (sh : ShedIx) : List DmaIx :=
  if (eng s sh).en ∧ islRunning s (shcOf sh) then ((engChans sh).take 30).filter fun c => (dch s c).st == .idle else []

/-- The lowest Idle channel of the named Shed, or of each Shed that has the most (R309). -/
def startChans (s : State) (shed : Nat) : List DmaIx :=
  if shed = 0xFF then (mostBy (fun sh => (idleChans s sh).length) allSheds).filterMap fun sh => (idleChans s sh).head?
  else (idleChans s (shedOf shed)).head?.toList

/-- DMA channels that a Pen holds. -/
def penDma (s : State) (p : BitVec 12) : Nat := (s.dma.chs.filter fun c => c.2.st ≠ .idle ∧ c.2.pen = p).length

def startDma (r : Req) (rep : Reply) (s : State) : State :=
  let p := actingPen s r
  let pl := r.payload
  let id : W32 := fieldLe 32 pl 0 4
  let mask : W64 := fieldLe 64 pl 8 8
  match aGet s.dma.programs (p, id) with
  | none => post rep stNotFound [] s
  | some img =>
    if 3 < leAt pl 4 1 ∨ (3 < leAt pl 5 1 ∧ leAt pl 5 1 ≠ 0xFF) ∨ programOk s r.chan p img = false then post rep stBadParam [] s
    else match takeOne (startChans s (leAt pl 5 1)) s with
      | (none, s) => post rep stNoSpace [] s
      | (some c, s) =>
        if (pen s p).qDma.toNat ≤ penDma s p then post rep stNoSpace [] s
        else if s.dma.chs.any (fun d => decide (d.2.st ≠ .idle ∧ d.2.pen ≠ p) && (d.2.mask &&& mask) != 0) then post rep stBusy [] s
        else
          let new : DCh := { st := .running, prio := fieldLe 2 pl 4 1, pen := p, chan := r.chan, prog := id, mask,
                             endStatus := (dch s c).endStatus, byteCnt := (dch s c).byteCnt }
          post rep stOk (toLe 2 c.val) (modDch c (fun _ => new) s)

/-- DMA_START. -/
def execDmaStart (r : Req) (s : State) : Res := .next (mbx cmdDmaStart false r (startDma r) s)

/-- A channel's caller may act on it (R342). -/
def mayTouch (s : State) (r : Req) (c : DmaIx) : Bool :=
  isAdmin r.chan || ((dch s c).st ≠ .idle && (dch s c).pen == (chan s r.chan).pen)

/-- DMA_START with RESUME (R317): the instruction in progress starts again from its beginning. -/
def resumeDma (r : Req) (rep : Reply) (s : State) : State :=
  let n := leAt r.payload 6 2
  let c : DmaIx := Fin.ofNat 128 n
  if 127 < n then post rep stBadParam [] s
  else if mayTouch s r c = false then post rep stNotPermitted [] s
  else if (dch s c).st ≠ .stopped then post rep stBadParam [] s
  else if (eng s (dmaShed c)).st ≠ 0 then post rep stBusy [] s
  else post rep stOk (toLe 2 n) (modDch c (fun d => { d with st := .running }) s)

/-- DMA_RESUME. -/
def execDmaResume (r : Req) (s : State) : Res :=
  .next (mbx cmdDmaResume false { r with flags := r.flags ||| 1 } (resumeDma r) s)

/-! ## Accesses of a channel (R302, R313) -/

/-- Bytes of a piece: what is left, up to the end of a line of device space or of a block of the pool. -/
def pieceLen (space : BitVec 2) (a : W64) (left : Nat) : Nat :=
  if space = 0 then min left (128 - a.toNat % 128) else if space = 1 then min left (4096 - a.toNat % 4096) else left

/-- The READ or WRITE of a pool operand, from the device's node. -/
def dmaRx (s : State) (d : DCh) (key : BitVec 8) (a : W64) (n : Nat) : Rx :=
  { port := 0, l2 := { udpLen := 40 + n }, src := localNode s, pen := d.pen, keyId := key, length := BitVec.ofNat 16 n,
    addr := BitVec.ofNat 56 a.toNat }

/-- Stations 5 to 8 for a pool operand. -/
def dmaGates (op : BitVec 8) (p : Rx) (s : State) : Verdict :=
  firstGate ([gate5 op p s, gate6 op p s, gateSlots op p s] ++ homeGates op p s)

/-- A pool operand's block lies in an extent of the channel's Pen (R313). -/
def dmaInPool (s : State) (d : DCh) (key : BitVec 8) (a : W64) (n : Nat) : Bool :=
  decide (a.toNat < 2 ^ 56) && (extAt s (rxKey s (dmaRx s d key a n))).v

/-- The instruction in progress, changed by a function. -/
def modXfer (c : DmaIx) (g : DXfer → DXfer) (s : State) : State := modDch c (fun d => { d with xfer := d.xfer.map g }) s

/-- What an access comes to: it cannot begin yet, the program ends, it is under way, or its bytes are there. -/
inductive DRes where
  | wait
  | fail (status : Nat) (detail : Nat)
  | go (s : State)
  | now (bytes : List Byte) (s : State)

/-- An access of `n` bytes at an address begins; a write carries its bytes. Host memory is reached at once. -/
def dmaAccess (c : DmaIx) (d : DCh) (key : BitVec 8) (space : BitVec 2) (a : W64) (n : Nat) (second : Bool)
    (data : Option (List Byte)) (s : State) : DRes :=
  let under (place : DAcc) (off : Nat) (s : State) : State :=
    if data.isSome then modDch c (fun d => { d with wrote := false, xfer := d.xfer.map fun x => { x with wr := some { place, off, len := n } } }) s
    else modDch c (fun d => { d with got := none, xfer := d.xfer.map fun x => { x with acc := some { place, second, off, len := n } } }) s
  if space = 0 then
    let line : BitVec 32 := BitVec.ofNat 32 (a.toNat / 128)
    let r : CohReq := match data with
      | none => .once c
      | some bs => if n = 128 then .full c bs else .part c (a.toNat % 128) bs
    .go (cohSubmit line r (under (.line line) (a.toNat % 128) s))
  else if space = 1 then
    let op : BitVec 8 := if data.isSome then 0x03 else 0x01
    let p := dmaRx s d key a n
    if dmaInPool s d key a n = false then .fail dmAddress 0
    else match dmaGates op p s with
      | .nack reason st _ => .fail dmNack (reason.toNat + 256 * st)
      | .wait _ => .wait
      | .pass =>
        let j : Job := { id := 0, orig := .dma c, pen := d.pen, key := rxKey s p, off := addrOff p.addr, len := n,
                         store := data.isSome, data := data.getD [] }
        .go (startJob j (under .pool 0 s))
  else match data with
    | none => .now (hostRead s d.chan a.toNat n) s
    | some bs => .now [] (hostWrite d.chan a.toNat bs s)

/-- `n` bytes have been written: they are performed, and leave staging. -/
def tookWrite (c : DmaIx) (n : Nat) (s : State) : State :=
  modDch c (fun d => { d with
    doneBytes := d.doneBytes + n, byteCnt := satAdd d.byteCnt n, wrote := false,
    xfer := d.xfer.map fun x => { x with wr := none, written := x.written + n, staging := x.staging.drop n } }) s

/-- Bytes have been read: they are in staging; COMPARE's read of DST is held beside it. -/
def tookRead (c : DmaIx) (second : Bool) (bytes : List Byte) (s : State) : State :=
  modDch c (fun d => { d with
    got := none
    xfer := d.xfer.map fun x => if second then { x with acc := none, staging2 := bytes }
                                else { x with acc := none, read := x.read + bytes.length, staging := x.staging ++ bytes } }) s

/-- The end of a channel's access to the pool, of stores or of reads; none while it is under way. -/
def poolEnd (c : DmaIx) (store : Bool) (took : List Byte → State → State) (s : State) : Option DRes :=
  (s.pool.jobs.find? fun j => j.orig == .dma c && j.store == store).bind fun j => j.result.bind fun r => match r with
    | .ok bytes => some (.go (took bytes (dropJob j.id s)))
    | .err r _ => some (.fail dmNack (r.toNat + 0x900))
    | .refused r st _ => some (.fail dmNack (r.toNat + 256 * st))
    | .discarded => none

/-- The end of the write under way; none while there is none. -/
def writeEnd (c : DmaIx) (x : DXfer) (s : State) : Option DRes :=
  x.wr.bind fun a => match a.place with
    | .line _ => if (dch s c).wrote then some (.go (tookWrite c a.len s)) else none
    | .pool => poolEnd c true (fun _ s => tookWrite c a.len s) s

/-- The end of the read under way; none while there is none. A poisoned line ends the program (R306). -/
def readEnd (c : DmaIx) (x : DXfer) (s : State) : Option DRes :=
  x.acc.bind fun a => match a.place with
    | .line l => (dch s c).got.map fun g =>
        if g.2 then .fail dmPoisoned l.toNat else .go (tookRead c a.second ((g.1.drop a.off).take a.len) s)
    | .pool => poolEnd c false (tookRead c a.second) s

/-! ## The transfer of an instruction (R312 to R314) -/

/-- Bytes of an 8-byte pattern from an offset. -/
def patternBytes (p : W64) (off n : Nat) : List Byte := (List.range n).map fun i => (toLe 8 p.toNat).getD ((off + i) % 8) 0

/-- The ranges of a MOVE overlap in one space: what it writes is undefined. -/
def overlaps (x : DXfer) : Bool :=
  let n := x.f.length.toNat
  x.f.sspace == x.f.dspace && decide (x.src.toNat < x.dst.toNat + n ∧ x.dst.toNat < x.src.toNat + n)

/-- The first place where two lists of bytes differ. -/
def firstDiff (a b : List Byte) : Option Nat := (List.range (min a.length b.length)).find? fun i => a.getD i 0 != b.getD i 0

/-- An instruction has been executed: the strides are added to the working addresses, and the pc moves on. -/
def endInsn (c : DmaIx) (s : State) : State :=
  modDch c (fun d => match d.xfer with
    | none => d
    | some x => { d with
        pc := d.pc + 1, xfer := none
        src := aSet d.src d.pc (x.src + x.f.sstride.signExtend 64), dst := aSet d.dst d.pc (x.dst + x.f.dstride.signExtend 64) }) s

/-- COMPARE's staged bytes: the first mismatch is stored; with STOP it ends the program. -/
def compareStaged (c : DmaIx) (x : DXfer) (s : State) : State :=
  match firstDiff x.staging x.staging2 with
  | none => modXfer c (fun y => { y with written := y.written + x.staging.length, staging := [], staging2 := [] }) s
  | some i =>
    let off := x.written + i
    let s := modDch c (fun d => { d with cmpMiss := true, cmpOff := off }) s
    if x.f.stop then endDma c dmMismatch (BitVec.ofNat 32 off) s else endInsn c s

/-- A channel's staging buffer (R314). -/
def stagingBytes : Nat := 8192

/-- A move of a transfer: what it comes to, the bytes it takes of the beat, whether it writes, and whether it reads DST. -/
structure DMove where
  res : DRes
  bytes : Nat
  write : Bool := false
  second : Bool := false

/-- The next write of a transfer, of at most `left` bytes; none where there is nothing to write or a write is under way. -/
def nextWrite (c : DmaIx) (d : DCh) (x : DXfer) (left : Nat) (s : State) : Option DMove :=
  let n := if x.op = 2 then x.f.length.toNat - x.written else if x.op = 1 then x.staging.length else 0
  let a := x.dst + BitVec.ofNat 64 x.written
  let k := pieceLen x.f.dspace a (min left n)
  if x.wr.isSome ∨ k = 0 then none
  else
    let (bytes, s) :=
      if x.op = 2 then (patternBytes x.src x.written k, s)
      else if overlaps x then (let (v, s) := takeFree (8 * k) s; (bytesOf v, s))
      else (x.staging.take k, s)
    some { res := dmaAccess c d x.f.keyId x.f.dspace a k false (some bytes) s, bytes := k, write := true }

/-- The next read of a transfer, of at most `left` bytes that find room in staging; COMPARE reads DST after its SRC. -/
def nextRead (c : DmaIx) (d : DCh) (x : DXfer) (left : Nat) (s : State) : Option DMove :=
  let n := min (min left (x.f.length.toNat - x.read)) (stagingBytes - x.staging.length)
  let a := x.src + BitVec.ofNat 64 x.read
  let b := x.dst + BitVec.ofNat 64 x.read
  if x.acc.isSome ∨ x.op = 2 then none
  else if x.op = 3 ∧ x.staging ≠ [] then
    let b := x.dst + BitVec.ofNat 64 x.written
    some { res := dmaAccess c d x.f.keyId x.f.dspace b x.staging.length true none s, bytes := 0, second := true }
  else
    let k := if x.op = 3 then pieceLen x.f.dspace b (if x.f.pattern then n else pieceLen x.f.sspace a n) else pieceLen x.f.sspace a n
    if k = 0 then none
    else if x.op = 3 ∧ x.f.pattern then some { res := .now (patternBytes x.src x.read k) s, bytes := k }
    else some { res := dmaAccess c d x.f.keyId x.f.sspace a k false none s, bytes := k }

/-- What a move that has begun leaves: host memory has been read or written at once. -/
def begun (c : DmaIx) (m : DMove) : Option State :=
  match m.res with
  | .wait => none
  | .fail _ _ => none
  | .go s => some s
  | .now bytes s => some (if m.write then tookWrite c m.bytes s else tookRead c m.second bytes s)

/-- The end of an access, where one has ended. -/
def accessEnd (c : DmaIx) (x : DXfer) (s : State) : Option DRes :=
  match writeEnd c x s with
  | some r => some r
  | none => readEnd c x s

/-- A move that can begin now, or that ends the program. -/
def ready (m : Option DMove) : Option DMove := m.bind fun m => match m.res with | .wait => none | _ => some m

/-- A channel's accesses go on until a beat's bytes, `rd` to be read and `wr` to be written, are spent or nothing can move; at
most `n` moves. Reads run ahead of the writes into staging. -/
def moveBytes (c : DmaIx) : Nat → Nat → Nat → State → State
  | 0, _, _, s => s
  | n + 1, rd, wr, s =>
    let d := dch s c
    match d.xfer with
    | none => s
    | some x =>
      match accessEnd c x s with
      | some (.fail st detail) => endDma c st (BitVec.ofNat 32 detail) s
      | some (.go s) => moveBytes c n rd wr s
      | some _ => s
      | none =>
        if x.staging2 ≠ [] then moveBytes c n rd wr (compareStaged c x s)
        else if x.f.length.toNat ≤ x.written then endInsn c s
        else match (ready (nextWrite c d x wr s)).orElse fun _ => ready (nextRead c d x rd s) with
          | none => s
          | some m =>
            match m.res with
            | .fail st detail => endDma c st (BitVec.ofNat 32 detail) s
            | _ => match begun c m with
              | none => s
              | some s => if m.write then moveBytes c n rd (wr - m.bytes) s else moveBytes c n (rd - m.bytes) wr s

/-- Moves that suffice for a beat. -/
def beatFuel : Nat := 64

/-- A channel takes a beat of 256 B where it can: an access has ended, or it can begin one. -/
def serveChan (c : DmaIx) (s : State) : Option State :=
  let d := dch s c
  match d.xfer with
  | none => none
  | some x =>
    let moves : Bool := (accessEnd c x s).isSome || x.staging2 != [] || decide (x.f.length.toNat ≤ x.written)
      || (ready (nextWrite c d x 256 s)).isSome || (ready (nextRead c d x 256 s)).isSome
    if d.st ≠ .running ∨ 3 < x.op ∨ moves = false then none
    else some (moveBytes c beatFuel 256 256 s)

/-! ## Aborts and stops (R316 to R319) -/

/-- A write of a channel is under way. -/
def writing (d : DCh) : Bool := (d.xfer.bind (·.wr)).isSome

/-- The write under way has ended, or there is none. -/
def quiet (c : DmaIx) (s : State) : Bool :=
  match (dch s c).xfer with
  | none => true
  | some x => x.wr.isNone || (writeEnd c x s).isSome || (s.pool.jobs.any fun j => j.orig == .dma c && j.result == some .discarded)

/-- The write that has ended is counted. -/
def takeWrite (c : DmaIx) (s : State) : State :=
  match (dch s c).xfer with
  | none => s
  | some x => match writeEnd c x s with | some (.go s) => s | _ => s

/-- An aborting channel whose writes have ended is Idle: DMA_ABORT posts ABORTED, a Pen abort nothing (R318). -/
def settleAbort (c : DmaIx) (s : State) : State :=
  let d := dch s c
  if d.st ≠ .aborting ∨ quiet c s = false then s
  else
    let s := takeWrite c s
    match d.abort with
    | some rep => post rep stOk [] (endDma c dmAborted 0 s)
    | none => idleDma c dmAborted s

/-- A channel is pre-empted and aborted: its staging goes, it issues no more accesses. -/
def abortChan (c : DmaIx) (rep : Option Reply) (s : State) : State :=
  if (dch s c).st = .idle then s
  else settleAbort c (setDmaEvt 2 (dch s c).pen.toNat c.val (dmaShed c) (modDch c (fun d => { d with st := .aborting, abort := rep }) s))

/-- A stopping engine whose channels' writes have ended: its Running and Waiting channels are Stopped, then the engine, with
the notices (R316 steps 3 to 5); aborts take effect after that (R319). -/
def settleStop1 (sh : ShedIx) (s : State) : State :=
  if (eng s sh).st ≠ 1 ∨ ((engChans sh).all fun c => quiet c s) = false then s
  else
    let cause := match (eng s sh).pend with | some p => p.1 | none => 0
    let stop := (engChans sh).filter fun c => (dch s c).st == .running || (dch s c).st == .waiting
    let s := stop.foldl (fun s c =>
      let s := dropDmaAcc c (takeWrite c s)
      modDch c (fun d => { d with st := .stopped, xfer := none, got := none, wrote := false }) s) s
    let s := setDmaEvt 0 0 0 sh (modEng sh (fun e => { e with st := 2 }) s)
    let body (c : DmaIx) : List Byte := [BitVec.ofNat 8 sh.val, 0] ++ toLe 2 c.val ++ [cause.setWidth 8]
    stop.foldl (fun s c =>
      let s := shedNotice sh (dch s c).chan 3 (body c) s
      shedNotice sh 64 3 (body c) (shedNotice sh 0 3 (body c) s)) s

/-- What an engine settles at each beat. -/
def settleEng (sh : ShedIx) (s : State) : State :=
  let s := settleStop1 sh s
  if (eng s sh).st = 1 then s else (engChans sh).foldl (fun s c => settleAbort c s) s

/-! ## Beats (R314) -/

/-- The channels of an engine in the order in which a beat looks for one that is ready: by priority; among equals the one
whose turn it is, unless its turn is over, then the others in round. -/
def beatOrder (s : State) (sh : ShedIx) : List DmaIx :=
  let q := effective s 0x20A02
  [3, 2, 1, 0].flatMap fun (p : BitVec 2) =>
    let (last, n) := aGetD (eng s sh).turns p (31, q)
    let from_ := if n < q then last else last + 1
    ((List.range 32).map fun i => Fin.ofNat 128 (32 * sh.val + (from_ + i) % 32)).filter fun c => (dch s c).prio == p

/-- The first channel that can move, and the state after its beat. -/
def findBeat (s : State) : List DmaIx → Option (DmaIx × State)
  | [] => none
  | c :: cs => match serveChan c s with
    | some t => some (c, t)
    | none => findBeat s cs

/-- The turns after a channel's beat. -/
def countBeat (c : DmaIx) (p : BitVec 2) (q : Nat) (e : DEng) : DEng :=
  let (last, n) := aGetD e.turns p (31, q)
  let ix := c.val % 32
  { e with beats := satInc e.beats, turns := aSet e.turns p (ix, if last = ix ∧ n < q then n + 256 else 256) }

/-- DMA_BEAT. -/
def execDmaBeat (sh : ShedIx) (s : State) : Res :=
  let s := settleEng sh s
  if (eng s sh).st ≠ 0 ∨ islRunning s (shcOf sh) = false then .next s
  else match findBeat s (beatOrder s sh) with
    | none => .next s
    | some (c, t) => .next (modEng sh (countBeat c (dch s c).prio (effective s 0x20A02)) t)

/-! ## The instructions (R311, R312) -/

/-- The fields that an operation uses; the others must be zero. -/
structure DUses where
  sspace : Bool := false
  dspace : Bool := false
  key : Bool := false
  length : Bool := false
  src : W64 := 0
  dst : Bool := false
  strides : Bool := false
  stop : Bool := false
  pattern : Bool := false
  notify : Bool := false
  clear : Bool := false

/-- The fields of an instruction break R311. -/
def dmaLegal (f : DF) (u : DUses) : Bool :=
  f.rsv1 == 0 && f.rsv2 == 0 && f.sspace != 3 && f.dspace != 3 && (u.sspace || f.sspace == 0) && (u.dspace || f.dspace == 0)
    && (u.key || f.keyId == 0) && (u.length || f.length == 0) && (f.src &&& ~~~ u.src) == 0 && (u.dst || f.dst == 0)
    && (u.strides || (f.sstride == 0 && f.dstride == 0)) && (u.stop || !f.stop) && (u.pattern || !f.pattern)
    && (u.notify || !f.notify) && (u.clear || !f.clear)

/-- LENGTH of a transfer. -/
def lengthOk (f : DF) (by8 : Bool) : Bool :=
  decide (1 ≤ f.length.toNat ∧ f.length.toNat ≤ 16777216) && (!by8 || f.length.toNat % 8 == 0)

/-- The range of an operand (R313); pool operands are checked block by block. -/
def dmaRangeOk (s : State) (d : DCh) (space : BitVec 2) (a : W64) (n : Nat) : Bool :=
  if space = 0 then dsRange s d.chan d.pen a.toNat n
  else if space = 2 then decide (a.toNat + n ≤ Config.hostLimit d.chan.val)
  else true

/-- The instruction that a channel fetches at its pc from the stored program (R310); none beyond its end. -/
def dmaAt (s : State) (d : DCh) : Option (BitVec 256) :=
  let img := aGetD s.dma.programs (d.pen, d.prog) []
  if d.pc < img.length / 32 then some (fieldLe 256 img (32 * d.pc) 32) else none

/-- What a Running channel meets at its pc ends the program with BAD_PROGRAM: its end, or a reserved OP (R311, R315). -/
def dmaStray (c : DmaIx) (w : Option (BitVec 256)) : Bool := match w with | none => true | some w => (dmaDecode c w).isNone

/-- An instruction of a Running channel, at its pc. It has no effect on another channel, while the engine is not Ready or the
instruction before it has not ended, or where the stored program holds another instruction. -/
def dmaInsn (c : DmaIx) (op : BitVec 8) (f : DF) (u : DUses) (body : DCh → State → State) (s : State) : Res :=
  let d := dch s c
  let w := dmaAt s d
  if d.st ≠ .running ∨ d.xfer.isSome ∨ (eng s (dmaShed c)).st ≠ 0 ∨ islRunning s (shcOf (dmaShed c)) = false then .next s
  else if dmaStray c w then .next (endDma c dmBad 0 s)
  else if w ≠ some (dmaWord op f) then .next s
  else if dmaLegal f u = false then .next (endDma c dmBad 0 s)
  else
    let s := modDch c (fun d => { d with doneBytes := 0 }) s
    .next (body (dch s c) s)

/-- A transfer begins once its ranges are checked. -/
def beginXfer (c : DmaIx) (op : Nat) (f : DF) (srcUsed : Bool) (d : DCh) (s : State) : State :=
  let x : DXfer := { op, f, src := aGetD d.src d.pc f.src, dst := aGetD d.dst d.pc f.dst }
  let n := f.length.toNat
  if lengthOk f (op = 2 ∨ f.pattern) = false then endDma c dmBad 0 s
  else if (srcUsed ∧ dmaRangeOk s d f.sspace x.src n = false) ∨ dmaRangeOk s d f.dspace x.dst n = false then endDma c dmAddress 0 s
  else modDch c (fun d => { d with xfer := some x }) s

def allOnes64 : W64 := BitVec.allOnes 64

/-- MOVE. -/
def execDmaMove (c : DmaIx) (f : DF) (s : State) : Res :=
  dmaInsn c 0x01 f { sspace := true, dspace := true, key := f.sspace == 1 || f.dspace == 1, length := true, src := allOnes64, dst := true,
                     strides := true } (fun d s => beginXfer c 1 f true d s) s

/-- FILL. -/
def execDmaFill (c : DmaIx) (f : DF) (s : State) : Res :=
  dmaInsn c 0x02 f { dspace := true, key := f.dspace == 1, length := true, src := allOnes64, dst := true, strides := true }
    (fun d s => beginXfer c 2 f false d s) s

/-- COMPARE. -/
def execDmaCompare (c : DmaIx) (f : DF) (s : State) : Res :=
  dmaInsn c 0x03 f { sspace := !f.pattern, dspace := true, key := f.sspace == 1 || f.dspace == 1, length := true, src := allOnes64,
                     dst := true, strides := true, stop := true, pattern := true }
    (fun d s => beginXfer c 3 f (!f.pattern) d s) s

/-- The active loops with one at an index, the outermost (the highest index) first. -/
def putLoop (i n : Nat) (ls : List (Nat × Nat)) : List (Nat × Nat) :=
  let rest := ls.filter fun l => ¬ l.1 = i
  (rest.filter fun l => decide (i < l.1)) ++ [(i, n)] ++ (rest.filter fun l => decide (l.1 < i))

/-- LOOP: a jump while the remaining count is above zero; then the count is reloaded, and the loop is active no more. -/
def execDmaLoop (c : DmaIx) (f : DF) (s : State) : Res :=
  dmaInsn c 0x04 f { length := true, src := 0xFFFF } (fun d s =>
    let target := f.src.toNat
    let old := (d.loops.find? fun l => l.1 = d.pc).map (·.2)
    let rem := old.getD f.length.toNat
    if f.length.toNat = 0 ∨ 65535 < f.length.toNat ∨ d.pc ≤ target ∨ (old.isNone ∧ 4 ≤ d.loops.length) then endDma c dmBad 0 s
    else if 0 < rem then modDch c (fun d => { d with loops := putLoop d.pc (rem - 1) d.loops, pc := target }) s
    else modDch c (fun d => { d with loops := d.loops.filter fun l => ¬ l.1 = d.pc, pc := d.pc + 1 }) s) s

/-- The flag of a WAIT or a SIGNAL. -/
def flagOf (f : DF) : Nat := bitsOf f.src.toNat 7 0

/-- A channel's WAIT ends: with CLEAR it takes the flag. -/
def endWait (c : DmaIx) (f : DF) (s : State) : State :=
  let s := if f.clear then modEng (dmaShed c) (fun e => { e with flags := e.flags &&& ~~~ (BitVec.twoPow 64 (flagOf f)) }) s else s
  modDch c (fun d => { d with st := .running, xfer := none, pc := d.pc + 1 }) s

/-- WAIT: it ends at once on a set flag; else the channel is Waiting. -/
def execDmaWait (c : DmaIx) (f : DF) (s : State) : Res :=
  dmaInsn c 0x05 f { src := 0xFFFFFFFF000000FF, clear := true } (fun d s =>
    if 63 < flagOf f ∨ d.mask.getLsbD (flagOf f) = false then endDma c dmBad 0 s
    else if (eng s (dmaShed c)).flags.getLsbD (flagOf f) then endWait c f s
    else modDch c (fun d => { d with st := .waiting, xfer := some { op := 5, f, src := 0, dst := 0 } }) s) s

/-- The Waiting channels of an engine whose flags are set. -/
def flagged (s : State) (sh : ShedIx) : List (DmaIx × DF) :=
  (engChans sh).filterMap fun c =>
    match (dch s c).xfer with
    | none => none
    | some x => if (dch s c).st = .waiting ∧ x.op = 5 ∧ (eng s sh).flags.getLsbD (flagOf x.f) then some (c, x.f) else none

/-- Waiting channels whose flags are set go on, in any order; one with CLEAR takes the flag. -/
def wakeFlagged (sh : ShedIx) : Nat → State → State
  | 0, s => s
  | n + 1, s =>
    match takeOne (flagged s sh) s with
    | (none, s) => s
    | (some (c, f), s) => wakeFlagged sh n (endWait c f s)

/-- Every such channel of an engine. -/
def wakeWaits (sh : ShedIx) (s : State) : State := wakeFlagged sh 32 s

/-- DMA_WAIT_TIMEOUT: it has no effect on a WAIT without a timeout. -/
def execDmaWaitTimeout (c : DmaIx) (s : State) : Res :=
  match (dch s c).xfer with
  | none => .next s
  | some x =>
    if (dch s c).st = .waiting ∧ x.op = 5 ∧ x.f.src.toNat / 2 ^ 32 ≠ 0 then .next (endDma c dmTimeout 0 s) else .next s

/-- SIGNAL. Every earlier write of the channel has been performed when its instruction ended. -/
def execDmaSignal (c : DmaIx) (f : DF) (s : State) : Res :=
  dmaInsn c 0x06 f { src := 0xFFFF, notify := true } (fun d s =>
    let sh := bitsOf f.src.toNat 15 8
    if 63 < flagOf f ∨ 3 < sh ∨ d.mask.getLsbD (flagOf f) = false then endDma c dmBad 0 s
    else
      let s := modDch c (fun d => { d with pc := d.pc + 1 }) s
      let s := modEng (shedOf sh) (fun e => { e with flags := e.flags ||| BitVec.twoPow 64 (flagOf f) }) s
      let s := if f.notify then shedNotice (dmaShed c) d.chan 4
          (toLe 2 c.val ++ [BitVec.ofNat 8 (flagOf f), BitVec.ofNat 8 sh]) s else s
      wakeWaits (shedOf sh) s) s

/-- END. -/
def execDmaEnd (c : DmaIx) (f : DF) (s : State) : Res := dmaInsn c 0x07 f {} (fun _ s => endDma c dmOk 0 s) s

/-! ## DMA_ABORT, bus errors and recovery -/

def cmdDmaAbort : Cmd := { op := 0x92, p := true, level := 2, fields := [(0, 2)] }

def abortDma (r : Req) (rep : Reply) (s : State) : State :=
  let n := leAt r.payload 0 2
  let c : DmaIx := Fin.ofNat 128 n
  if 127 < n then post rep stBadParam [] s
  else if mayTouch s r c = false then post rep stNotPermitted [] s
  else if (dch s c).st = .idle then post rep stNotFound [] s
  else if (dch s c).st = .aborting then post rep stBusy [] s
  else if (eng s (dmaShed c)).st = 1 then
    setDmaEvt 2 (dch s c).pen.toNat c.val (dmaShed c) (modDch c (fun d => { d with st := .aborting, abort := some rep }) s)
  else abortChan c (some rep) s

/-- DMA_ABORT. -/
def execDmaAbort (r : Req) (s : State) : Res := .next (mbx cmdDmaAbort false r (abortDma r) s)

/-- DMA_BUS_ERROR (R316 steps 1 and 2): the engine is Stopping, and the staging buffers are discarded. -/
def execDmaBusError (sh : ShedIx) (cause : BitVec 4) (space : BitVec 2) (addr : W64) (s : State) : Res :=
  if (eng s sh).st ≠ 0 ∨ islRunning s (shcOf sh) = false then .next s
  else
    let s := modEng sh (fun e => { e with st := 1, busErr := true, pend := some (cause, space, addr) }) s
    let s := (engChans sh).foldl (fun s c => modXfer c (fun x => { x with
      staging := if x.wr.isSome then x.staging else [], staging2 := [] }) s) s
    .next (settleEng sh s)

/-- DMA_ENGINE_RECOVER (R316 step 6): the Keeper, where it runs, records the cause and makes the engine Ready. -/
def execDmaEngineRecover (sh : ShedIx) (s : State) : Res :=
  let s := settleEng sh s
  match (eng s sh).pend with
  | none => .next s
  | some (cause, space, addr) =>
    if (eng s sh).st = 2 ∧ s.kpr.state = .running then
      .next (modEng sh (fun e => { e with st := 0, pend := none, cause, space, addr }) s)
    else .next s

/-- BUS_ERR of DMA_ENG_STAT reads 0 once its event has been cleared with no channel Stopped. -/
def clearBusErr (sh : ShedIx) (s : State) : State :=
  if (eng s sh).evt.getLsbD 0 = false ∧ ((engChans sh).any fun c => (dch s c).st == .stopped) = false
  then modEng sh (fun e => { e with busErr := false }) s else s

end Sys2Proof.Machine
end

