-- ==== Sys2Proof/Machine/Leases.lean ====
section
/-! DEFINITION. Leases (R123 to R126, R341), invalidations (R127 to R130), ownership (R131 to R137). -/

namespace Sys2Proof.Machine

/-- The lease Shed's slot of a holder (R123). -/
def holderSlot (h : Holder) : Fin 4 := match h with | .node n => nodeSlot n | .chan c => chanSlot c

/-! ## Invalidations (R128 to R130) -/

/-- The writer's INVAL_ACK, once every reader has answered or lost its lease. -/
def endInval (v : Inval) (s : State) : State :=
  respond v.rx (respPkt 0x11 v.rx) { s with share := { s.share with invals := s.share.invals.filter fun x => ¬ x.id = v.id } }

/-- An invalidation without a reader that is no longer waited for. -/
def withoutReader (n : Node) (v : Inval) : Inval := { v with waiting := v.waiting.filter fun x => ¬ x = n }

/-- A reader is no longer waited for in the invalidations that a test selects; those that wait for no other end. -/
def dropReader (n : Node) (which : Inval → Bool) (s : State) : State :=
  let vs : List Inval := s.share.invals.map fun v => if which v then withoutReader n v else v
  let ended := ((s.share.invals.filter which).map (withoutReader n)).filter (·.waiting.isEmpty)
  ended.foldl (fun s v => endInval v s) { s with share := { s.share with invals := vs } }

/-- The readers that an INVALIDATE goes to: the set as it stands, or every node with an Active or Grace lease in the Pen
where it is Broadcast. -/
def audience (s : State) (p : BitVec 12) (readers : List Node) (broadcast : Bool) : List Node :=
  if broadcast then
    s.share.leases.filterMap fun l =>
      match l.1.2 with
      | .node n => if l.1.1 = p ∧ l.2.st ≠ .revoked then some n else none
      | .chan _ => none
  else readers

/-- The reader set of an INVALIDATE's extent or region, and the state with the set cleared. -/
def takeReaders (p : Rx) (s : State) : List Node × State :=
  if namesRegion p = false then
    let e := extAt s (rxKey s p)
    (audience s p.pen e.readers e.broadcast,
     if e.v then modExt (rxKey s p) (fun e => { e with readers := [], broadcast := false }) s else s)
  else match regionAt s p.pen p.group with
    | some r => (audience s p.pen r.readers r.broadcast, modRegion p.pen p.group (fun r => { r with readers := [], broadcast := false }) s)
    | none => ([], s)

/-- An INVALIDATE's effect: each reader is told, and the writer is answered when all have answered (R129). -/
def invalidateNow (p : Rx) (s : State) : State :=
  let (ns, s) := takeReaders p s
  let (tag, s) := freshId (s.share.invals.map fun v => BitVec.ofNat 32 v.id) s
  let v : Inval := { id := tag.toNat, rx := p, waiting := ns }
  let s := { s with share := { s.share with invals := s.share.invals ++ [v] } }
  if ns.isEmpty then endInval v s
  else ns.foldl (fun s n => send n { op := 0x10, pen := p.pen, cls := p.cls, epoch := s.routes.current.epoch, addr := p.addr,
                                     keyId := p.keyId, group := p.group, tag } s) s

/-- INVALIDATE: received, and held until T reaches it (R128). -/
def execInvalidate (p : Rx) (s : State) : Res := .next (request 0x10 p (holdOrdered 0x10) s)

/-- The home slot on which an INVALIDATE acts. -/
def invalSlot (s : State) (p : Rx) : Fin 4 := if namesRegion p then regionSlot p.pen p.group else keySlot (rxKey s p)

/-- INVALIDATE_APPLY. -/
def execInvalidateApply (n : Node) (seq : W32) (s : State) : Res :=
  match dueHeld s n 0x10 seq with
  | some p => if slotMoving s (invalSlot s p) then .next s else .next (invalidateNow p (unhold n 0x10 seq s))
  | none => .next s

/-- INVAL_ACK's effect: the reader has answered; the packet is recorded (R391). -/
def invalAck (p : Rx) (s : State) : State :=
  dropReader p.src (fun v => decide (v.id = p.tag.toNat) && v.waiting.contains p.src) (recordPacket 0x11 p s)

/-- INVAL_ACK: a reader has discarded its copy. Its TAG is that of the INVALIDATE sent to it. -/
def execInvalAck (p : Rx) (s : State) : Res :=
  .next (response 0x11 p invalAck s)

/-- INVALIDATION_SLOW_THRESHOLD: counted, with a Daymark event that names a reader that has not answered. The time stands
still while its home is being rebuilt (R16). -/
def execInvalidationSlowThreshold (id : Nat) (s : State) : Res :=
  match s.share.invals.find? (fun v => v.id = id) with
  | none => .next s
  | some v =>
    if v.slow ∨ slotMoving s (invalSlot s v.rx) then .next s
    else
      let vs : List Inval := s.share.invals.map fun v => if v.id = id then { v with slow := true } else v
      let s : State := { s with share := { s.share with invals := vs, slowCnt := satInc s.share.slowCnt } }
      let (n, s) := takeOne v.waiting s
      .next (codedD 0x4 (shcOf (homeMap s (invalSlot s v.rx))) v.rx.pen.toNat ((n.map (·.toNat)).getD 0)
        v.rx.group.toNat v.rx.addr.toNat s)

/-! ## Revocation and reclaim (R125, R126) -/

/-- The extents that a lease holds. -/
def heldExts (s : State) (p : BitVec 12) (h : Holder) : List ExtKey :=
  (s.pool.exts.filter fun e => e.1.1 = p && holdsExt h e.2).map (·.1)

/-- A draft of a publication or a creation in progress that is not sealed yet: its reclaim waits (R116). -/
def sealing (s : State) (k : ExtKey) : Bool :=
  isDraft s k && s.share.pubs.any fun q => q.started && q.pen == k.1 && q.todo.contains k.2

/-- A held extent begins its reclaim: Draining, but for a draft in progress, which waits until it is sealed (R116). -/
def drainExt (h : Holder) (s : State) (k : ExtKey) : State :=
  if sealing s k then s else setLeaf k (fun e => { e with st := .draining, reclaim := some h }) s

/-- The WRITE_RELEASE requests that wait on Draining extents are discarded with LEASE_REVOKED (R126 step 3). -/
def dropReleases (ks : List ExtKey) (s : State) : State :=
  let hit (s : State) (h : HeldOrdered) : Bool := h.op == 0x05 && ks.contains (rxKey s h.rx)
  let out := s.pairs.flatMap fun p => p.2.held.filter (hit s)
  let ps : Assoc Node Pair := s.pairs.map fun p => (p.1, { p.2 with held := p.2.held.filter fun h => ¬ hit s h })
  out.foldl (fun s h => nack h.rx rLeaseRevoked 8 0 (endIfStore 0x05 h.rx s)) { s with pairs := ps }

/-- A node's registrations as a tracked reader in a Pen are removed. -/
def dropRegistrations (p : BitVec 12) (n : Node) (s : State) : State :=
  let es : Assoc ExtKey Extent := s.pool.exts.map fun e => if e.1.1 = p then (e.1, { e.2 with readers := e.2.readers.filter fun x => ¬ x = n }) else e
  let rs : Assoc (BitVec 12 × W32) Region := s.share.regions.map fun r => if r.1.1 = p then (r.1, { r.2 with readers := r.2.readers.filter fun x => ¬ x = n }) else r
  { s with pool := { s.pool with exts := es }, share := { s.share with regions := rs } }

/-- A lease is Revoked and reclaim begins, for all its items at once. -/
def revokeLease (p : BitVec 12) (h : Holder) (s : State) : State :=
  let s := modLease p h (fun l => { l with st := .revoked }) s
  let s := match h with
    | .chan c => ((s.share.handles.filter fun x => x.2.isOpen && x.2.pen == p && x.2.holder == c).map (·.1)).foldl (fun s x => closeHandle x s) s
    | .node n => dropReader n (fun v => v.rx.pen == p && v.waiting.contains n) (dropRegistrations p n s)
  let ks := heldExts s p h
  sweepLease p h (dropReleases (ks.filter fun k => !sealing s k) (ks.foldl (drainExt h) s))

/-- The reclaim of an extent ends: scrubbed, V cleared, its space returned, and the lease deleted with its last item. -/
def reclaimed (k : ExtKey) (s : State) : State :=
  let e := extAt s k
  let fs := extFrm e :: ((migOf s k).bind migFrm).toList
  let s := dropMig k s
  let s := dirFree k e.comp (setLeaf k (fun e => { ({} : Extent) with gen := e.gen }) s)
  let s := fs.foldl (fun s f => scrubFrame f s) s
  sweepFor k.1 e (leaveRecalls k (migEnded k .freed s))

/-- An extent in reclaim whose queue is empty: no access under way, no block Moving, no transfer. -/
def reclaimReady (s : State) (k : ExtKey) : Bool :=
  let e := extAt s k
  e.v && e.reclaim.isSome && (e.st == .draining || e.st == .scrubbing)
    && !(s.pool.jobs.any fun j => j.key == k) && !((migOf s k).any fun m => m.moving.isSome)
    && !(match e.owner with | some o => o.epoch.getLsbD 0 | none => false)

/-- RECLAIM_EXTENT_SCRUB: the home queue is empty: Scrubbing, the scrub, and the end of the reclaim; while a frame cannot
be reached the extent stays Scrubbing. -/
def execReclaimExtentScrub (p : BitVec 12) (x : BitVec 35) (s : State) : Res :=
  let k : ExtKey := (p, x)
  if reclaimReady s k = false ∨ slotMoving s (keySlot k) then .next s
  else
    let e := extAt s k
    let s := if e.st = .draining then setLeaf k (fun e => { e with st := .scrubbing, migr := 0 }) s else s
    let fs := (extFrm e) :: (((migOf s k).bind migFrm).toList)
    if fs.all (scrubbable s k) then .next (reclaimed k s) else .next s

/-- LEASE_TIMER_EXPIRY: Active becomes Grace; a lease whose home is being rebuilt has its timer stopped (R16). -/
def execLeaseTimerExpiry (h : Holder) (p : BitVec 12) (s : State) : Res :=
  if slotMoving s (holderSlot h) then .next s
  else .next (modLease p h (fun l => if l.st = .active then { l with st := .grace } else l) s)

/-- LEASE_GRACE_EXPIRY: Grace becomes Revoked, and reclaim begins. -/
def execLeaseGraceExpiry (h : Holder) (p : BitVec 12) (s : State) : Res :=
  if slotMoving s (holderSlot h) then .next s
  else match leaseAt s p h with
    | some l => if l.st = .grace then .next (revokeLease p h s) else .next s
    | none => .next s

/-! ## LEASE_SET (R124, R125, R341) -/

def cmdLeaseSet : Cmd := { op := 0x23, p := true, level := 2, flags := 3, fields := [(0, 1), (2, 6)] }

/-- The holder that a LEASE_SET names. -/
def setHolder (r : Req) : Option Holder :=
  let k := leAt r.payload 0 1
  let id := leAt r.payload 2 2
  if k = 0 then some (.chan r.chan)
  else if k = 1 then (if id = 0 ∨ id = 0xFFFF then none else some (.node (BitVec.ofNat 16 id)))
  else if k = 2 then (if id < 160 then some (.chan (Fin.ofNat 160 id)) else none)
  else none

/-- A duration of 0 keeps the current one; others lie in the range of R138. -/
def durationOk (d : Nat) : Bool := d == 0 || decide (100 ≤ d ∧ d ≤ 60000)

/-- The duration for a holder is set, for timers that start later. -/
def setDuration (p : BitVec 12) (h : Holder) (d : Nat) (s : State) : State :=
  if d = 0 then s else { s with share := { s.share with durations := aSet s.share.durations (p, h) d } }

/-- LEASE_SET's checks: the holder and the duration, and that only an A caller names another holder or revokes. -/
def leaseSetWith (r : Req) (rep : Reply) (admin : Bool) (i : Instr) (act : BitVec 12 → Holder → State → State) (s : State) : State :=
  if r.flags = 3 ∨ durationOk (leAt r.payload 4 4) = false then post rep stBadParam [] s
  else if callerClass s r.chan ≠ .admin ∧ (leAt r.payload 0 1 ≠ 0 ∨ admin) then post rep stNotPermitted [] s
  else match setHolder r with
    | none => post rep stBadParam [] s
    | some h => awaitHome [holderSlot h] i rep (act (actingPen s r) h) s

/-- The answer: the duration in effect, in ms. -/
def leaseAnswer (rep : Reply) (p : BitVec 12) (h : Holder) (s : State) : State := post rep stOk (toLe 4 (leaseDur s p h)) s

/-- LEASE_SET without a flag: the duration, and a lease where there is none. -/
def leaseSet (r : Req) (rep : Reply) (p : BitVec 12) (h : Holder) (s : State) : State :=
  if leaseRevoked s p h then post rep stBusy [] s
  else if leaseRoom s p h = false then post rep stNoSpace [] s
  else leaseAnswer rep p h (createLease p h (setDuration p h (leAt r.payload 4 4) s))

/-- LEASE_SET. -/
def execLeaseSet (r : Req) (s : State) : Res :=
  .next (mbx cmdLeaseSet false r (fun rep s => leaseSetWith r rep false (.leaseSet r) (leaseSet r rep) s) s)

/-- LEASE_SET with RENEW: the caller's own lease. -/
def leaseSetRenew (r : Req) (rep : Reply) (p : BitVec 12) (h : Holder) (s : State) : State :=
  if leAt r.payload 0 1 ≠ 0 then post rep stBadParam [] s
  else if leaseRevoked s p h then post rep stBusy [] s
  else if leaseRoom s p h = false then post rep stNoSpace [] s
  else leaseAnswer rep p h (renewLease p h (createLease p h (setDuration p h (leAt r.payload 4 4) s)))

/-- LEASE_SET_RENEW. -/
def execLeaseSetRenew (r : Req) (s : State) : Res :=
  .next (mbx cmdLeaseSet false r (fun rep s => leaseSetWith r rep false (.leaseSetRenew r) (leaseSetRenew r rep) s) s)

/-- LEASE_SET with REVOKE: reclaim begins. -/
def leaseRevoke (r : Req) (rep : Reply) (p : BitVec 12) (h : Holder) (s : State) : State :=
  match leaseAt s p h with
  | none => post rep stNotFound [] s
  | some l =>
    if l.st = .revoked then post rep stBusy [] s
    else leaseAnswer rep p h (revokeLease p h (setDuration p h (leAt r.payload 4 4) s))

/-- LEASE_REVOKE. -/
def execLeaseRevoke (r : Req) (s : State) : Res :=
  .next (mbx cmdLeaseSet false r (fun rep s => leaseSetWith r rep true (.leaseRevoke r) (leaseRevoke r rep) s) s)

/-! ## LEASE_RENEW (R123 to R125, R139) -/

/-- LEASE_RENEW's effect: an extent or a handle that the sender's lease does not hold ends it with LEASE_REVOKED; nodes
hold no handles. -/
def leaseRenew (p : Rx) (s : State) : State :=
  let h : Holder := .node p.src
  if p.handle ≠ 0 ∨ (p.addr ≠ 0 ∧ heldByNode (extAt s (rxKey s p)) p.src = false) then nack p rLeaseRevoked 8 0 s
  else respond p (respPkt 0x41 p) (renewLease p.pen h (createLease p.pen h s))

/-- LEASE_RENEW. -/
def execLeaseRenew (p : Rx) (s : State) : Res := .next (request 0x40 p leaseRenew s)

/-! ## Ownership (R131 to R136) -/

/-- A record report: OWNER_QUERY with the record's epoch in STEP (R132). -/
def report (k : ExtKey) (addr : BitVec 56) (dst : Node) (tag : W32) (cls : BitVec 4) (s : State) : State :=
  let e := extAt s k
  match e.owner with
  | none => s
  | some o => send dst { op := 0x5A, pen := k.1, cls, epoch := s.routes.current.epoch, addr, keyId := e.keyId, step := o.epoch, tag } s

/-- A report that answers a request. -/
def answerReport (p : Rx) (s : State) : State :=
  finishEpoch p.epoch (if muted p then s else report (rxKey s p) p.addr p.src p.tag p.cls s)

/-- NACK NOT_OWNER with a detail. -/
def notOwner (p : Rx) (d : W32) (s : State) : State := nack p rNotOwner 8 d s

/-- The owner record of an extent changes; STATE does not. -/
def modOwner (k : ExtKey) (f : OwnerRec → OwnerRec) (s : State) : State :=
  modExt k (fun e => { e with owner := e.owner.map f }) s

/-- A record in transfer. -/
def inTransfer (o : OwnerRec) : Bool := o.epoch.getLsbD 0

/-- OWNER_OFFER's effect (R133, R135). -/
def ownerOfferNow (p : Rx) (s : State) : State :=
  let k := rxKey s p
  let e := extAt s k
  let target : Node := p.group.setWidth 16
  if e.v = false then nack p rTierError 9 noExtent s
  else if e.cls = .sealed then notOwner p 0xFFFFFFFF s
  else if e.st = .draining ∨ e.st = .scrubbing then nack p rLeaseRevoked 8 0 s
  else match e.owner with
    | none => notOwner p 0xFFFFFFFE s
    | some o =>
      if 0xFFFFFFFC ≤ o.epoch.toNat ∨ inTransfer o ∨ p.src ≠ o.owner ∨ p.step ≠ o.epoch
         ∨ target = 0 ∨ target = 0xFFFF ∨ target = p.src then notOwner p o.epoch s
      else
        let s := modOwner k (fun o => { o with epoch := o.epoch + 1, target, tag := p.tag, cls := p.cls }) s
        report k p.addr target p.tag p.cls (answerReport p s)

/-- OWNER_OFFER: received, and held until T reaches it (R134). -/
def execOwnerOffer (p : Rx) (s : State) : Res := .next (request 0x58 p (holdOrdered 0x58) s)

/-- OWNER_OFFER_APPLY. -/
def execOwnerOfferApply (n : Node) (seq : W32) (s : State) : Res :=
  match dueHeld s n 0x58 seq with
  | some p => if slotMoving s (keySlot (rxKey s p)) then .next s else .next (ownerOfferNow p (unhold n 0x58 seq s))
  | none => .next s

/-- A transfer ends with an accept: the new owner, its lease, and an extent that waited in reclaim is Resident again. -/
def acceptNow (p : Rx) (s : State) : State :=
  let k := rxKey s p
  let e := extAt s k
  let s := createLease p.pen (.node p.src) s
  let s := modOwner k (fun o => { o with owner := p.src, target := 0, epoch := o.epoch + 1 }) s
  let s := if e.st = .draining then
      setLeaf k (fun x => { x with
        st := if (migOf s k).isSome then .migrating else .resident, reclaim := none
        hold := if (e.hold.any fun c => leaseRevoked s k.1 (.chan c)) then none else x.hold }) s
    else s
  answerReport p (sweepFor k.1 e s)

/-- OWNER_ACCEPT's effect. -/
def ownerAccept (p : Rx) (s : State) : State :=
  match (extAt s (rxKey s p)).owner with
  | none => notOwner p 0xFFFFFFFE s
  | some o =>
    if inTransfer o = false ∨ p.src ≠ o.target ∨ p.step ≠ o.epoch then notOwner p o.epoch s else acceptNow p s

/-- OWNER_ACCEPT. -/
def execOwnerAccept (p : Rx) (s : State) : Res := .next (request 0x59 p ownerAccept s)

/-- OWNER_QUERY's effect: a report to the owner, or to either party of a transfer. -/
def ownerQuery (p : Rx) (s : State) : State :=
  match (extAt s (rxKey s p)).owner with
  | none => notOwner p 0xFFFFFFFE s
  | some o =>
    if p.src = o.owner ∨ (inTransfer o ∧ p.src = o.target) then answerReport p s else notOwner p o.epoch s

/-- OWNER_QUERY. -/
def execOwnerQuery (p : Rx) (s : State) : Res := .next (request 0x5A p ownerQuery s)

/-- TRANSFER_TIMER_EXPIRY: the record returns to its owner at the next even epoch, which is told. -/
def execTransferTimerExpiry (p : BitVec 12) (x : BitVec 35) (s : State) : Res :=
  let k : ExtKey := (p, x)
  match (extAt s k).owner with
  | none => .next s
  | some o =>
    if inTransfer o = false ∨ slotMoving s (keySlot k) then .next s
    else
      let s := sweepLease p (.node o.target) (modOwner k (fun o => { o with epoch := o.epoch + 1, target := 0 }) s)
      .next (report k (BitVec.ofNat 56 (extAddr k.2)) o.owner o.tag o.cls s)

end Sys2Proof.Machine
end

