-- ==== Sys2Proof/Machine/PenTeardown.lean ====
section
/-! DEFINITION. Quotas, the removal of keys, and the teardown of a Pen (R355, R357, R360, R361, R364, R375 to R378). -/

namespace Sys2Proof.Machine

/-! ## PEN_SET_QUOTA (R355, R357, R297) -/

/-- A grant lies in device space and spares the Keeper's first 64 MiB (R297). -/
def grantOk (s : State) (first pages : Nat) : Bool :=
  pages == 0 || decide (64 * 256 ≤ first ∧ (first + pages) * 4096 ≤ s.near.dsSize)

/-- The limits take effect; a change of the grant is refused while the Pen has a task or a DMA channel (R357). -/
def penSetQuota (r : Req) (rep : Reply) (s : State) : State :=
  let pl := r.payload
  let n := leAt pl 0 2
  let p : BitVec 12 := BitVec.ofNat 12 n
  let first := leAt pl 32 4
  let pages := leAt pl 36 4
  let q := pen s p
  if n = 0 ∨ grantOk s first pages = false then post rep stBadParam [] s
  else if (q.dsFirst.toNat ≠ first ∨ q.dsPages.toNat ≠ pages) ∧ (penTasks s p ≠ 0 ∨ penDma s p ≠ 0) then post rep stBusy [] s
  else post rep stOk [] (modPen p (fun q => { q with
    qNear := fieldLe 32 pl 4 4, qLent := fieldLe 32 pl 8 4, qTray := fieldLe 32 pl 12 4, qFlash := fieldLe 32 pl 16 4,
    qMatch := fieldLe 32 pl 20 4, qSessions := fieldLe 32 pl 24 4, qTasks := fieldLe 16 pl 28 2, qDma := fieldLe 8 pl 30 1,
    dsFirst := BitVec.ofNat 32 first, dsPages := BitVec.ofNat 32 pages }) s)

/-- PEN_SET_QUOTA. -/
def execPenSetQuota (r : Req) (s : State) : Res := .next (mbx cmdPenSetQuota false r (penSetQuota r) s)

/-! ## The removal of a key (R360, R364) -/

/-- Extents and groups that use a memory key (R360). -/
def keyUsers (s : State) (p : BitVec 12) (k : BitVec 8) : Nat :=
  (s.pool.exts.filter fun e => e.1.1 = p && e.2.v && e.2.keyId == k).length
    + (s.groups.filter fun g => g.2.pen == p && g.2.keyId == k).length

/-- A memory key slot is invalidated in every encryption engine: accesses that wait under it are discarded (R361). -/
def removeKey (p : BitVec 12) (k : BitVec 8) (s : State) : State :=
  wakeJobs { s with sec := { s.sec with keys := aErase s.sec.keys (p, k) } }

/-- A secure channel of some port runs under a CAK. -/
def cakRuns (s : State) (k : BitVec 8) : Bool :=
  s.sec.caks.any fun c => c.keyId == k && s.ports.any fun q => match q.2.secy with | some y => y.ckn == c.ckn | none => false

/-- Whether a key of a TYPE is in use, so that its removal is BUSY. -/
def keyBusy (s : State) (ty : Nat) (p : BitVec 12) (k : BitVec 8) : Bool :=
  if ty = 1 then keyUsers s p k ≠ 0 else if ty = 2 then cakRuns s k else if k = 1 then s.sec.ideEnA else s.sec.ideEnB

/-- PEN_KEY_INSTALL with BLEN 0. -/
def keyRemove (r : Req) (rep : Reply) (s : State) : State :=
  let pl := r.payload
  let p : BitVec 12 := BitVec.ofNat 12 (leAt pl 0 2)
  let k : BitVec 8 := BitVec.ofNat 8 (leAt pl 2 1)
  let ty := leAt pl 3 1
  if ty = 0 ∨ 3 < ty ∨ (ty ≠ 1 ∧ leAt pl 0 2 ≠ 0) then post rep stBadParam [] s
  else if (ty = 3 ∧ k ≠ 1 ∧ k ≠ 2) ∨ keyHeld s ty p k = false then post rep stNotFound [] s
  else if keyBusy s ty p k then post rep stBusy [] s
  else if ty = 1 then post rep stOk [] (removeKey p k s)
  else if ty = 2 then post rep stOk [] { s with sec := { s.sec with caks := s.sec.caks.filter fun c => ¬ c.keyId = k } }
  else if k = 1 then post rep stOk [] { s with sec := { s.sec with ideA := none } }
  else post rep stOk [] { s with sec := { s.sec with ideB := none } }

/-- PEN_KEY_REMOVE: the request slot of PEN_KEY_INSTALL with BLEN 0. -/
def execPenKeyRemove (r : Req) (s : State) : Res :=
  .next (mbx { cmdPenKeyInstall with blen := fun n => n == 0 } false { r with blen := 0 } (keyRemove r) s)

/-! ## Step 1 of teardown: the Pen's commands in progress end with ABORTED (R375) -/

/-- The request of a command that waits for a home slot. -/
def reqOf (i : Instr) : Option Req :=
  match i with
  | .extentFree r | .extentMigrate r | .regionCreate r | .regionPublish r | .regionOpen r | .regionRetire r
  | .regionClose r | .windowCreate r | .windowAdvance r
  | .leaseSet r | .leaseSetRenew r | .leaseRevoke r | .groupCreate r | .groupEvict r | .groupAdmit r | .groupDestroy r
  | .getHealthGroup r | .sessionInsert r | .sessionDelete r => some r
  | _ => none

/-- A command that waits for a home slot acts on a Pen. -/
def waitsFor (s : State) (p : BitVec 12) (w : Option (Fin 4) × Waiting) : Bool :=
  match w.2 with
  | .cmd i _ => match reqOf i with | some r => actingPen s r == p | none => false
  | _ => false

/-- The replies of a Pen's commands whose responses wait. -/
def penReplies (s : State) (p : BitVec 12) : List Reply :=
  ((s.share.waiting.filter (waitsFor s p)).filterMap fun w => match w.2 with | .cmd _ rep => some rep | _ => none)
    ++ ((s.pool.allocs.filter fun a => a.pen = p).map (·.reply))
    ++ ((s.pool.migCmds.filter fun c => c.todo.any fun k => k.1 = p).map (·.reply))
    ++ ((s.share.pubs.filter fun q => q.pen = p).map (·.reply))
    ++ ((s.work.builds.filter fun b => b.pen = p).map (·.reply))
    ++ ((s.work.tables.filter fun t => t.1.1 = p).filterMap (·.2.retire))
    ++ ((s.work.sessions.filter fun x => x.2.pen = p).filterMap (·.2.reply))
    ++ ((s.groups.filter fun g => g.2.pen = p).filterMap (·.2.reply))
    ++ (s.dma.chs.filter fun c => c.2.pen = p).filterMap (·.2.abort)

/-- The commands go, and a frame that was being filled for one is scrubbed. -/
def dropCommands (p : BitVec 12) (s : State) : State :=
  let fills := s.pool.allocs.filterMap fun a => if a.pen = p then a.frm.map fun f => (allocKey a, f) else none
  let s := fills.foldl (fun s f => addScrub f.1 f.2 s) s
  let jobs := (s.work.builds.filter fun b => b.pen = p).filterMap (·.job)
  let groups := s.groups.map fun g => (g.1, if g.2.pen = p then { g.2 with reply := none } else g.2)
  let maps := ((s.share.pubs.filter fun q => q.pen = p ∧ q.started).map (pubMap s)).sum
  let s := ctlGive maps s
  { s with
    share := { s.share with waiting := s.share.waiting.filter fun w => !waitsFor s p w
                            pubs := s.share.pubs.filter fun q => ¬ q.pen = p }
    pool := { s.pool with allocs := s.pool.allocs.filter fun a => ¬ a.pen = p
                          migCmds := s.pool.migCmds.filter fun c => !c.todo.any fun k => k.1 = p
                          jobs := s.pool.jobs.filter fun j => !jobs.contains j.id }
    work := { s.work with
      builds := s.work.builds.filter fun b => ¬ b.pen = p
      tables := s.work.tables.map fun t => (t.1, if t.1.1 = p then { t.2 with retire := none } else t.2)
      sessions := s.work.sessions.map fun x => (x.1, if x.2.pen = p then { x.2 with reply := none } else x.2) }
    dma := { s.dma with chs := s.dma.chs.map fun c => (c.1, if c.2.pen = p then { c.2 with abort := none } else c.2) }
    groups }

/-- Step 1: Closing, and the commands in progress end. -/
def closePen (p : BitVec 12) (rep : Reply) (s : State) : State :=
  let s := modPen p (fun q => { q with state := .closing, destroy := some rep }) s
  let reps := penReplies s p
  reps.foldl (fun s x => post x stAborted [] s) (dropCommands p s)

/-! ## Steps 2 and 3 -/

/-- Step 2: every key of the Pen goes (R361). -/
def dropKeys (p : BitVec 12) (s : State) : State :=
  wakeJobs { s with sec := { s.sec with keys := s.sec.keys.filter fun k => ¬ k.1.1 = p } }

/-- The Pen's tasks end with no record (R261). -/
def abortTasks (p : BitVec 12) (s : State) : State :=
  let mine (t : Task) : Bool := t.pen == p
  let qs := s.work.taskQs.map fun q => (q.1, { q.2 with
    redo := q.2.redo.filter fun t => !mine t, queue := q.2.queue.filter fun t => !mine t, turn := q.2.turn.erase p })
  let stopped := s.work.stopped.filter fun x => mine x.task
  let s := { s with work := { s.work with taskQs := qs, stopped := s.work.stopped.filter fun x => !mine x.task } }
  let s := stopped.foldl (fun s x => dropYardJobs x.yard s) s
  let run := (s.work.yards.filter fun y => y.2.task.any mine).map (·.1)
  run.foldl (fun s y => idleYard y s) s

/-- The Pen's DMA channels are aborted with no record (R318). -/
def abortPenDma (p : BitVec 12) (s : State) : State :=
  (allDma.filter fun c => (dch s c).pen = p ∧ (dch s c).st ≠ .idle).foldl (fun s c => abortChan c none s) s

/-- A GATHER_REQ or FILTER_REQ of a Pen that waits for a home slot or the control area. -/
def waitingUnit (p : BitVec 12) (w : Option (Fin 4) × Waiting) : Bool :=
  match w.2 with | .cmx op rx => rx.pen == p && (op == 0x28 || op == 0x30) | _ => false

/-- The Pen's gathers and filters stop without a packet, those that still wait among them (R227). -/
def abortReqs (p : BitVec 12) (s : State) : State :=
  let ws := s.share.waiting.filterMap fun w => if waitingUnit p w then (match w.2 with | .cmx _ rx => some rx | _ => none) else none
  let s := { s with share := { s.share with waiting := s.share.waiting.filter fun w => !waitingUnit p w } }
  let s := ws.foldl (fun s rx => finishEpoch rx.epoch s) s
  (s.work.reqs.filter fun q => q.pen = p).foldl (fun s q => quietReq q s) s

/-- The Pen's groups are destroyed (R189). -/
def abortGroups (p : BitVec 12) (s : State) : State :=
  ((s.groups.filter fun g => g.2.pen = p).map (·.1)).foldl (fun s g => destroyGroup g none s) s

/-- The Pen's Match Table rows are invalid, and its session records can no longer be used (R227). -/
def dropRows (p : BitVec 12) (s : State) : State :=
  let clean (b : Bank) : Bank := { b with
    rows := b.rows.filter fun r => ¬ r.2.pen = p, owed := b.owed.filter fun r => ¬ r.2.pen = p, lost := b.lost.filter fun r => ¬ r.pen = p }
  { s with work := { s.work with
    banks := s.work.banks.map fun b => (b.1, clean b.2)
    sessions := s.work.sessions.map fun x => (x.1, if x.2.pen = p then { x.2 with deleting := true } else x.2) } }

/-- The map bytes of a Pen's regions. -/
def penMaps (s : State) (p : BitVec 12) : Nat :=
  ((s.share.regions.filter fun r => r.1.1 = p).map fun r => r.2.versions.length * mapSize r.2).sum

/-- The Pen's leases, handles, regions with their maps and Stream Windows go; handles granted on its regions are closed
(R122), and no reclaim of its extents runs on (R125, R378). A granted handle's record stays, closed, while a request under
it has not finished (R119). -/
def dropSharing (p : BitVec 12) (s : State) : State :=
  let hs := (s.share.handles.filter fun h => h.2.isOpen && (h.2.pen == p || h.2.rpen == p)).map (·.1)
  let s := ctlGive (penMaps s p) (hs.foldl (fun s h => closeHandle h s) s)
  { s with
    share := { s.share with
      handles := (s.share.handles.filter fun h => ¬ h.2.pen = p ∨ (¬ h.2.rpen = p ∧ handleBusy s h.1)).map fun h =>
        (h.1, if h.2.pen = p ∨ h.2.rpen = p then { h.2 with void := true } else h.2)
      regions := s.share.regions.filter fun r => ¬ r.1.1 = p
      leases := s.share.leases.filter fun l => ¬ l.1.1 = p
      durations := s.share.durations.filter fun l => ¬ l.1.1 = p }
    pool := { s.pool with exts := s.pool.exts.map fun e => (e.1, if e.1.1 = p then { e.2 with reclaim := none, hold := none, owner := none } else e.2) } }

/-- The Pen's tables and programs go, with what the expanders hold of the tables (R162). -/
def dropPrograms (p : BitVec 12) (s : State) : State :=
  let ids := (s.work.tables.filter fun t => t.1.1 = p).map (·.1.2)
  let s := ids.foldl (fun s id => deleteTable p id s) s
  let drop (x : Expander) : Expander := { x with slots := x.slots.filter fun q => ¬ q.2.pen = p, queue := x.queue.filter fun q => ¬ q.pen = p }
  let s := { s with work := { s.work with expanders := s.work.expanders.map fun x => (x.1, drop x.2) } }
  let s := (penPrograms s p).foldl (fun s id => dropProgram p id s) s
  ((s.dma.programs.filter fun x => x.1.1 = p).map (·.1.2)).foldl (fun s id => dropDmaProgram p id s) s

/-- The notices held for the Pen's channels are discarded. -/
def dropNotices (p : BitVec 12) (s : State) : State :=
  let cs := (pen s p).channels
  let s := cs.foldl (fun s c => modChan c (fun q => { q with held := [] }) s) s
  { s with kpr := { s.kpr with shedQ := s.kpr.shedQ.map fun q => (q.1, q.2.filter fun n => !cs.contains n.chan) } }

/-- Step 3. -/
def abortWork (p : BitVec 12) (s : State) : State :=
  dropNotices p (dropPrograms p (dropSharing p (dropRows p (abortGroups p (abortReqs p (abortPenDma p (abortTasks p s)))))))

/-! ## PEN_DESTROY -/

def cmdPenDestroy : Cmd := { op := 0x11, fields := [(0, 2)] }

/-- PEN_DESTROY's refusals (R340, R378), else steps 1 to 3; the response waits for step 5. -/
def penDestroy (r : Req) (rep : Reply) (s : State) : State :=
  let n := leAt r.payload 0 2
  let p : BitVec 12 := BitVec.ofNat 12 n
  if n = 0 ∨ 4095 < n then post rep stBadParam [] s
  else match (pen s p).state with
    | .free => post rep stNotFound [] s
    | .active => pfcSettle (abortWork p (dropKeys p (closePen p rep s)))
    | _ => post rep stPenClosed [] s

/-- PEN_DESTROY. -/
def execPenDestroy (r : Req) (s : State) : Res := .next (mbx cmdPenDestroy false r (penDestroy r) s)

/-! ## Steps 4 and 5 (R376, R377) -/

/-- A device request of the device's own for an extent of a Pen. -/
def reqFor (p : BitVec 12) (r : DevReq) : Bool := match r.owner with | .migRead k => k.1 == p | .migWrite k => k.1 == p | _ => false

/-- The Pen's operations that have passed station 5 and have not finished (R376). -/
def inFlight (s : State) (p : BitVec 12) : Nat :=
  (s.pool.jobs.filter fun j => j.pen == p).length
    + (s.share.waiting.filter fun w => match w.2 with | .cmx _ rx => rx.pen == p | .apr _ pn _ _ _ _ => pn == p | .cmd _ _ => false).length
    + (s.pairs.map fun x => (x.2.held.filter fun h => h.rx.pen == p).length).sum
    + (s.work.reqs.filter fun q => q.pen == p).length
    + (s.share.invals.filter fun v => v.rx.pen == p).length
    + (s.dma.chs.filter fun c => c.2.pen == p && c.2.st != .idle).length
    + (s.pool.devReqs.filter (reqFor p)).length

/-- A LENT frame is filled with zeros by TRAY_ADDR WRITEs; a lender that is gone is passed over (R377). -/
def zeroLent (k : ExtKey) (f : Frm) (s : State) : State :=
  if (aGet s.pairs f.node).isNone then s
  else
    let s := { s with pool := { s.pool with scrubs := s.pool.scrubs ++ [{ key := k, frm := f }] } }
    (List.range 512).foldl (fun s b => devSend f.node (f.frame * 2 ^ 21 + b * 4096) (some (List.replicate 4096 0)) 0 (.scrub k) s) s

/-- A tray that is gone is passed over too. -/
def tornScrub (k : ExtKey) (f : Frm) (s : State) : State :=
  if f.tier = .lent then zeroLent k f s
  else if f.tier ≠ .near ∧ (presentNode s f.node) = false then s
  else addScrub k f s
where
  presentNode (s : State) (n : Node) : Bool := match aGet s.partners n with | some q => q.state != .absent | none => false

/-- An extent of the Pen is Scrubbing; its migration ends once a Moving block has resolved, and its frames await their
scrubs (R56, R377). -/
def tearExtent (s : State) (k : ExtKey) : State :=
  let e := extAt s k
  let s := setLeaf k (fun e => { e with st := .scrubbing, migr := 0, readers := [], broadcast := false }) s
  let s := if e.st = .lost ∧ e.tier = .lent then s else tornScrub k (extFrm e) s
  let s := match migOf s k with
    | some m => if m.moving.isSome then modMig k (fun m => { m with ending := true }) s else endMig k s
    | none => s
  leaveRecalls k s

/-- The Pen's extents. -/
def penExtents (s : State) (p : BitVec 12) : List ExtKey := (s.pool.exts.filter fun e => e.1.1 = p && e.2.v).map (·.1)

/-- The bindings of the Pen's channels are released (R322). -/
def unbind (p : BitVec 12) (s : State) : State :=
  (pen s p).channels.foldl (fun s c => modChan c (fun q => { q with pen := 0, bound := false }) s) s

/-- Step 5: the PEN_DESTROY is answered, the channels are unbound, the scrubs and the tag sweep start, and the Pen enters
Quarantine (R351, R375). -/
def quarantine (p : BitVec 12) (s : State) : State :=
  let s := match (pen s p).destroy with | some rep => post rep stOk [] s | none => s
  let ks := penExtents s p
  let s := unbind p s
  let s := { s with share := { s.share with leases := s.share.leases.filter fun l => ¬ l.1.1 = p
                                            durations := s.share.durations.filter fun l => ¬ l.1.1 = p } }
  let s := modPen p (fun q => { q with state := .quarantine, destroy := none, channels := [], swept := false }) s
  wakeJobs (ks.foldl (fun s k => tornLeaf k (tearExtent s k)) s)

/-- TEARDOWN_DRAIN_DONE. -/
def execTeardownDrainDone (p : BitVec 12) (s : State) : Res :=
  if (pen s p).state = .closing ∧ inFlight s p = 0 then .next (quarantine p s) else .next s

/-- A CMX request of the Pen that waits when step 4 times out ends with no response; data that it carries is discarded
and counted (R361, R376). -/
def lapseRx (op : BitVec 8) (rx : Rx) (s : State) : State :=
  let s := if op = 0x01 ∨ isStore op then discardBlock s else s
  finishEpoch rx.epoch (endIfStore op rx s)

/-- An access of the Pen for a CMX request or a PCIe function. -/
def lapses (p : BitVec 12) (j : Job) : Bool :=
  j.pen == p && match j.orig with | .cmx _ _ => true | .apr _ => true | _ => false

/-- What of the Pen is still in flight when step 4 times out ends with no response, so that nothing of it reaches a later
Pen of the same id (R376). DEDUCED (notes/assumptions/168.md). -/
def lapse (p : BitVec 12) (s : State) : State :=
  let waits := s.share.waiting.filterMap fun w => match w.2 with | .cmx op rx => if rx.pen = p then some (op, rx) else none | _ => none
  let held := s.pairs.flatMap fun x => (x.2.held.filter fun h => h.rx.pen = p).map fun h => (h.op, h.rx)
  let invals := (s.share.invals.filter fun v => v.rx.pen = p).map fun v => ((0x10 : BitVec 8), v.rx)
  let s := (s.pool.jobs.filter (lapses p)).foldl (fun s j => endJob j .discarded (discardBlock s)) s
  let s := { s with
    pairs := s.pairs.map fun x => (x.1, { x.2 with held := x.2.held.filter fun h => ¬ h.rx.pen = p })
    share := { s.share with
      invals := s.share.invals.filter fun v => ¬ v.rx.pen = p
      waiting := s.share.waiting.filter fun w => match w.2 with
        | .cmx _ rx => rx.pen ≠ p
        | .apr _ pn _ _ _ _ => pn ≠ p
        | .cmd _ _ => true } }
  pfcSettle ((waits ++ held ++ invals).foldl (fun s w => lapseRx w.1 w.2 s) s)

/-- TEARDOWN_STEP4_TIMEOUT. -/
def execTeardownStep4Timeout (p : BitVec 12) (s : State) : Res :=
  if (pen s p).state = .closing then .next (quarantine p (lapse p (setSecEvt 2 p.toNat s))) else .next s

/-! ## The tag sweep (R354) -/

/-- OWNED is cleared on a Pen's lines in a Shed's Yards: scratch and L1. -/
def sweepYards (p : BitVec 12) (sh : ShedIx) (s : State) : State :=
  let ys := s.work.yards.map fun y => (y.1, if y.1.shed = sh then { y.2 with tags := y.2.tags.filter fun t => ¬ t.2 = p } else y.2)
  let cs := s.coh.caches.map fun c => (c.1, if c.1.1.val / 17 = sh.val ∧ c.2.tag = some p then { c.2 with tag := none } else c.2)
  { s with work := { s.work with yards := ys }, coh := { s.coh with caches := cs } }

/-- OWNED is cleared on a Pen's cells in a Shed's Loft partition: what its units have fetched and what its chunks hold. -/
def sweepLoft (p : BitVec 12) (sh : ShedIx) (s : State) : State :=
  let swept (c : Option (BitVec 12)) : Option (BitVec 12) := if c = some p then none else c
  let reqs := s.work.reqs.map fun q =>
    if q.shed = sh then { q with fetches := q.fetches.map fun f => { f with cell := swept f.cell } } else q
  let groups := s.groups.map fun g => (g.1, { g.2 with
    opened := g.2.opened.map fun c => if c.shed = sh then { c with cell := swept c.cell } else c })
  { s with work := { s.work with reqs }, groups }

/-- OWNED is cleared on a Pen's lines in a Shed's home cache, and in its Loft partition. -/
def sweepHome (p : BitVec 12) (sh : ShedIx) (s : State) : State :=
  sweepLoft p sh { s with coh := { s.coh with tags := s.coh.tags.filter fun t => ¬ (t.2 = p ∧ cohHome s t.1 = sh) } }

/-- OWNED is cleared on a Pen's lines in the Keeper cache. -/
def sweepKeeper (p : BitVec 12) (s : State) : State :=
  { s with coh := { s.coh with caches := s.coh.caches.map fun c =>
    (c.1, if 68 ≤ c.1.1.val ∧ c.2.tag = some p then { c.2 with tag := none } else c.2) } }

/-- An island's lines are swept, or the sweep is owed while it is Fenced. -/
def sweepIsland (i : IslandIx) (p : BitVec 12) (f : State → State) (s : State) : State :=
  if islFenced s i then
    { s with sec := { s.sec with sweepOwed := aMod s.sec.sweepOwed i [] fun l => if l.contains p then l else l ++ [p] } }
  else f s

/-- The sweep of a Pen. -/
def sweepPen (p : BitVec 12) (s : State) : State :=
  let s := sweepKeeper p s
  allSheds.foldl (fun s sh => sweepIsland (yrdOf sh) p (sweepYards p sh) (sweepIsland (shcOf sh) p (sweepHome p sh) s)) s

/-- TAG_SWEEP_DONE. -/
def execTagSweepDone (p : BitVec 12) (s : State) : Res :=
  if (pen s p).state = .quarantine ∧ (pen s p).swept = false then
    .next (modPen p (fun q => { q with swept := true }) (sweepPen p s))
  else .next s

/-- The sweeps that an island owes are made before it runs. -/
def owedSweeps (i : IslandIx) (s : State) : State :=
  let ps := aGetD s.sec.sweepOwed i []
  let s := { s with sec := { s.sec with sweepOwed := aErase s.sec.sweepOwed i } }
  if 5 ≤ i.val ∧ i.val < 9 then ps.foldl (fun s p => sweepHome p (shedOf (i.val - 5)) s) s
  else if 9 ≤ i.val ∧ i.val < 13 then ps.foldl (fun s p => sweepYards p (shedOf (i.val - 9)) s) s
  else s

/-! ## Step 6 -/

/-- The Pen's scrubs and its sweep have ended. -/
def tornDown (s : State) (p : BitVec 12) : Bool :=
  (pen s p).state == .quarantine && (pen s p).swept && !(s.pool.scrubs.any fun c => c.key.1 == p)
    && !(s.pool.migs.any fun m => m.key.1 == p)

/-- The Pen's entries leave the measurement log (R371). -/
def dropEntries (p : BitVec 12) (s : State) : State :=
  { s with sec := { s.sec with log := s.sec.log.filter fun e => ¬ ((leAt e 0 1 = 4 ∨ leAt e 0 1 = 5) ∧ entryPen e = p.toNat) } }

/-- PEN_RELEASE: the session records are cleared, the Pen record is free, and PEN_RELEASED goes to the admin channels. -/
def execPenRelease (p : BitVec 12) (s : State) : Res :=
  if tornDown s p = false then .next s
  else
    let s := (penExtents s p).foldl (fun s k => clearLeaf k s) s
    let s := { s with work := { s.work with sessions := s.work.sessions.filter fun x => ¬ x.2.pen = p } }
    let s := dropEntries p { s with pens := aErase s.pens p }
    .next (adminNotice 0xB (toLe 2 p.toNat) (setSecEvt 1 p.toNat s))

end Sys2Proof.Machine
end

