-- ==== Sys2Proof/Machine/YardMatrix.lean ====
section
/-! DEFINITION. The matrix group of the Yard (R243 to R247): tiles and scale stores, products, requantised stores; and the
two events of the expanders (R164, R165). -/

namespace Sys2Proof.Machine

/-! ## Tiles as rows of k-blocks (R244) -/

/-- A k-block: its 32 (or 16) elements and its scale word. -/
abbrev KBlock := List Int × BitVec 16

/-- The k-blocks of a row of a tile. -/
def kBlocks (f : Fmt) : Nat := match f with | .ebi4 => 4 | .ebi16 => 1 | _ => 2

/-- The 64 rows of a tile. -/
def tileRows (f : Fmt) (bytes : List Byte) (scales : List (BitVec 16)) : List (List KBlock) :=
  let w := blockBytes f
  (List.range 64).map fun i => (List.range (kBlocks f)).map fun h =>
    let k := i * kBlocks f + h
    (elemsOf f ((bytes.drop (k * w)).take w) 32, scales.getD k 0)

/-- The registers of a panel of 1,024 EBI8 elements, in units of VL. -/
def panelRegs (d : Yard) : Nat := (8192 + d.vl.toNat - 1) / d.vl.toNat

/-- The 64 rows of a panel in vector registers from `r` on: one k-block of 16 elements each. -/
def panelRows (d : Yard) (r : Nat) : List (List KBlock) :=
  let n := panelRegs d
  let bs := (List.range n).flatMap fun i => (getV d (r + i)).take (d.vl.toNat / 8)
  let ws := (List.range n).flatMap fun i => (getVs d (r + i)).take (d.vl.toNat / 256)
  (List.range 64).map fun i => [(elemsOf .ebi8 ((bs.drop (16 * i)).take 16) 16, ws.getD (i / 2) 0)]

/-! ## Products (R245) -/

/-- An accumulator's bound. -/
def accMax : Nat := 2 ^ 47 - 1

/-- A value converted from exponent e to F. -/
def toExp (v e f : Int) : Int := if f ≤ e then v * 2 ^ (e - f).toNat else shrRne v (f - e).toNat

/-- Two k-blocks added into an element, with its saturation. -/
def addBlock (f : Int) (x : Int × Bool) (a b : KBlock) : Int × Bool :=
  if scaleM a.2 = 0 ∨ scaleM b.2 = 0 then x
  else
    let p := (List.zipWith (· * ·) a.1 b.1).sum
    let y := x.1 + toExp (p * scaleM a.2 * scaleM b.2) (scaleE a.2 + scaleE b.2) f
    (clampTo accMax y, x.2 || decide (accMax < y.natAbs))

/-- An element with the k-blocks of two rows added in ascending order. -/
def addRows (f : Int) : Int × Bool → List KBlock → List KBlock → Int × Bool
  | x, a :: as, b :: bs => addRows f (addBlock f x a b) as bs
  | x, _, _ => x

/-- The elements of an accumulator. -/
def accElems (a : Acc) : List Int := if a.a.isEmpty then List.replicate 4096 0 else a.a

/-- An accumulator with the product of two operands added, and whether it saturated. -/
def accProduct (x : Acc) (a b : List (List KBlock)) : Acc × Bool :=
  let old := accElems x
  let out := (List.range 4096).map fun k => addRows x.f (old.getD k 0, false) (a.getD (k / 64) []) (b.getD (k % 64) [])
  ({ x with a := out.map (·.1) }, out.any (·.2))

/-- The product goes into a[RD]; the matrix engine is busy for some cycles (YRD_MMA_CNT). -/
def mmaDone (y : YardRef) (f : YF) (a b : List (List KBlock)) (cycles : Nat) (s : State) : YRes :=
  let s := modUnit y.shed .yard y.yard (fun n => { n with cnt2 := satAdd n.cnt2 cycles }) s
  .done (modYard y (fun d =>
    let (x, sat) := accProduct (getA d f.rd.toNat) a b
    setSat sat (setA f.rd.toNat x d)) s)

/-- MMA: AUX and the rest unused; both operands have FMT. -/
def execMma (y : YardRef) (f : YF) (s : State) : Res :=
  insn y f { rd := true, ra := true, rb := true, fmts := [0, 1, 2] } (fun d _ s =>
    let fm := (fmtOf f.fmt.toNat).getD .ebi8
    mmaDone y f (tileRows fm (getT d f.ra.toNat) (getTs d f.ra.toNat)) (tileRows fm (getT d f.rb.toNat) (getTs d f.rb.toNat))
      (if f.fmt = 2 then 128 else 64) s) s

/-- MMA.K16: two register groups, within v0 to v31 and apart. -/
def execMmaK16 (y : YardRef) (f : YF) (s : State) : Res :=
  insn y f { rd := true, ra := true, rb := true } (fun d _ s =>
    let n := panelRegs d
    let a := f.ra.toNat
    let b := f.rb.toNat
    if d.vl.toNat < 512 ∨ 32 < a + n ∨ 32 < b + n ∨ (a < b + n ∧ b < a + n) then .fault tkIllegal none s
    else mmaDone y f (panelRows d a) (panelRows d b) 16 s) s

/-- MZERO: F from −512 to +511. -/
def execMzero (y : YardRef) (f : YF) (s : State) : Res :=
  insn y f { rd := true, ra := true } (fun d _ s =>
    let e := (getS d f.ra).toInt
    if e < -512 ∨ 511 < e then .fault tkIllegal none s
    else .done (modYard y (setA f.rd.toNat { f := e }) s)) s

/-- MRD: a row as D64 lanes, over as many registers as VL asks for. -/
def execMrd (y : YardRef) (f : YF) (s : State) : Res :=
  insn y f { pred := true, rd := true, ra := true, imm := true } (fun d _ s =>
    let n := d.vl.toNat / 64
    let k := if n = 0 then 33 else (64 + n - 1) / n
    if 63 < f.imm.toNat ∨ 32 < f.rd.toNat + k then .fault tkIllegal none s
    else
      let row := ((accElems (getA d f.ra.toNat)).drop (64 * f.imm.toNat)).take 64
      let on (i : Nat) : Bool := !f.pred.getLsbD 3 || (getP d (bitsOf f.pred.toNat 2 0)).getLsbD (8 * i)
      .done (modYard y (fun d => (List.range k).foldl (fun x r =>
        let old := getV d (f.rd.toNat + r)
        setV (f.rd.toNat + r) (((List.range n).flatMap fun i =>
          if on i ∧ r * n + i < 64 then toLe 8 (rawOf 64 (row.getD (r * n + i) 0)) else (old.drop (8 * i)).take 8)
            ++ old.drop (8 * n)) x) d) s)) s

/-! ## MST (R246) -/

/-- The element values of MST: the accumulator, plus t[RA] converted to F where IMM[9] is 1. -/
def mstValues (d : Yard) (f : YF) : List (Int × Bool) :=
  let a := getA d f.rd.toNat
  let es := accElems a
  if f.imm.getLsbD 9 = false then es.map fun v => (v, false)
  else
    let q := elemsOf .ebi8 (getT d f.ra.toNat) 4096
    let ws := getTs d f.ra.toNat
    (List.range 4096).map fun k =>
      let w := ws.getD (k / 32) 0
      let v := es.getD k 0 + toExp (q.getD k 0 * scaleM w) (scaleE w) a.f
      (clampTo accMax v, decide (accMax < v.natAbs))

/-- The 128 requantised blocks. -/
def mstBlocks (d : Yard) (f : YF) (xs : List Int) : List Quant :=
  let fm := (fmtOf f.fmt.toNat).getD .ebi8
  let stream : BitVec 16 := BitVec.ofNat 16 (auxBits f 13 0)
  (List.range 128).map fun b => requant ((xs.drop (32 * b)).take 32) (getA d f.rd.toNat).f (qmax fm) f.rnd.toNat
    fun i => rand16 d.seed d.step stream (getS d f.rc + BitVec.ofNat 64 (32 * b + i)).toNat

/-- A port that takes bytes: an open write port; else the fault that ends the task. -/
def writePort (s : State) (y : YardRef) (p : Fin 16) : Option (Nat × Option W32) :=
  match portAt (yard s y) p with
  | none => some (tkMisuse, none)
  | some x =>
    if x.out = false ∨ x.closed then some (tkMisuse, none)
    else (portErr s y p x).map fun f => (tkNack, some (f.setWidth 32))

/-- MST. -/
def execMst (y : YardRef) (f : YF) (s : State) : Res :=
  insn y f { rd := true, ra := true, rb := true, rc := true, imm := true, rnd := true, aux := 0x3FFF, fmts := [0, 1, 2] } (fun d t s =>
    let vs := mstValues d f
    let qs := mstBlocks d f (vs.map (·.1))
    let fm := (fmtOf f.fmt.toNat).getD .ebi8
    let es := (qs.map fun q => packElems fm q.q).flatten
    let ws := (qs.map fun q => toLe 2 (mkScale q.e q.m).toNat).flatten
    let sat := vs.any (·.2) || qs.any (·.sat)
    let a := (getS d f.rb).toNat
    let p : Fin 16 := Fin.ofNat 16 (bitsOf f.imm.toNat 3 0)
    let q : Fin 16 := Fin.ofNat 16 (bitsOf f.imm.toNat 7 4)
    if 1024 ≤ f.imm.toNat then .fault tkIllegal none s
    else if f.imm.getLsbD 8 then
      if inScratch a (es.length + 256) = false then .fault tkAddress none s
      else .done (modYard y (fun d => setSat sat (scratchWrite t.pen a (es ++ ws) d)) s)
    else match writePort s y p, writePort s y q with
      | some e, _ => .fault e.1 e.2 s
      | none, some e => .fault e.1 e.2 s
      | none, none =>
        match (portAppend y p t es s).bind (portAppend y q t ws) with
        | none => .fault tkAbsent none s
        | some s => .done (modYard y (setSat sat) s)) s

/-! ## MLD and MSLD (R243, R247) -/

/-- The slot's block is in the expander's queue, enqueued now where it is not, with the tables of the Pen whose extent it came
from; none where its table is not Bound. -/
def queueSlot (y : YardRef) (t : Task) (slot : Nat) (s : State) : Option State :=
  if (expander s (.yard y)).queue.any fun b => b.slot == slot then some s
  else enqueueBlock (.yard y) { slot, pen := aGetD (yard s y).sgrant slot t.pen, desc := slotDesc (yard s y) slot,
                                bytes := scratchRead (yard s y) t.pen (4096 * slot) 4096 } s

/-- A matrix load waits for the expander, and the Yard counts bubbles (R166). -/
def waitLoad (y : YardRef) (t : Task) (m : MLoad) (s : State) : YRes :=
  match queueSlot y t m.slot s with
  | none => .fault tkAbsent none s
  | some s => .wait (modUnit y.shed .yard y.yard (fun n => { n with cnt1 := satInc n.cnt1 }) (modYard y (fun d => { d with mload := some m }) s))

/-- The scale words of a tile (R243). -/
def tileScales (fmt : BitVec 4) : Nat := if fmt = 1 then 256 else if fmt = 2 then 64 else 128

/-- A tile's first scale words replaced. -/
def putTs (k : Fin 4) (bs : List Byte) (n : Nat) (d : Yard) : Yard :=
  { d with ts := aSet d.ts k ((List.range n).map (fun i => fieldLe 16 bs (2 * i) 2) ++ (getTs d k.val).drop n) }

/-- A RAW slot's 4 KiB go to a tile: to its elements, or those of a scale plane to its scale lanes (R154). -/
def loadTile (k : Fin 4) (fmt : BitVec 4) (c : W32) (bs : List Byte) (d : Yard) : Yard :=
  if descScale c then putTs k bs (tileScales fmt) d else { d with t := aSet d.t k bs }

/-- MLD: a RAW slot at once; a coded one when the expander delivers it. A slot of a scale plane goes to the scale lanes
(R154; DEDUCED: its first words, as many as the tile has, log 170). -/
def execMld (y : YardRef) (f : YF) (s : State) : Res :=
  insn y f { rd := true, ra := true, imm := true, fmts := [0, 1, 2] } (fun d t s =>
    let a := (getS d f.ra + f.imm).toNat
    let k := Fin.ofNat 4 f.rd.toNat
    let c := slotDesc d (a / 4096)
    if a % 4096 ≠ 0 ∨ inScratch a 4096 = false then .fault tkAddress none s
    else if descRaw c then .done (modYard y (fun d => loadTile k f.fmt c (scratchRead d t.pen a 4096) d) s)
    else waitLoad y t { tile := k, slot := a / 4096, scale := if descScale c then some (0, tileScales f.fmt) else none } s) s

/-- MSLD: from a RAW slot, or one without SCALE, the words as scratch holds them; else the decoded block's. -/
def execMsld (y : YardRef) (f : YF) (s : State) : Res :=
  insn y f { rd := true, ra := true, imm := true, fmts := [0, 1, 2] } (fun d t s =>
    let a := (getS d f.ra + f.imm).toNat
    let k := Fin.ofNat 4 f.rd.toNat
    let n := tileScales f.fmt
    let c := slotDesc d (a / 4096)
    if a % 2 ≠ 0 ∨ inScratch a (2 * n) = false then .fault tkAddress none s
    else if descRaw c ∨ descScale c = false then .done (modYard y (fun d => putTs k (scratchRead d t.pen a (2 * n)) n d) s)
    else waitLoad y t { tile := k, slot := a / 4096, scale := some (a % 4096, n) } s) s

/-- The waiting matrix load has its block: it retires. -/
def loadDone (y : YardRef) (t : Task) (m : MLoad) (b : List Byte) (s : State) : State :=
  let g (d : Yard) : Yard :=
    match m.scale with
    | none => { d with t := aSet d.t m.tile b }
    | some (o, n) => putTs m.tile ((b ++ scratchRead d t.pen (4096 * (m.slot + 1)) 512).drop o) n d
  settleInsn y (.done (modYard y (fun d => { g d with mload := none }) s))

/-- The Yard's expander delivers the block for which a matrix load waits. -/
def deliverYard (y : YardRef) (s : State) : State :=
  let d := yard s y
  match d.task, d.mload with
  | some t, some m =>
    match deliverBlock (.yard y) m.slot s with
    | (.wait, _) => s
    | (.data b, s) => loadDone y t m b s
    | (.bad, s) => taskFault y tkDecode none s
    | (.absent, s) => taskFault y tkAbsent none s
  | _, _ => s

/-- EXPANDER_BLOCK_DELIVER: a Yard's waiting matrix load, or the requests of a Gather Unit, take what the expander can
deliver (R165). -/
def execExpanderBlockDeliver (e : ExpRef) (s : State) : Res :=
  match e with
  | .yard y => .next (deliverYard y s)
  | .gather sh u => .next ((unitReqs s sh .gather u).foldl (fun s q => runReq q.id [] s) s)

/-- EXPANDER_ENQUEUE: a block joins an expander's queue (R164); refused with TABLE_ABSENT, the task or the request that owns
it ends so. -/
def execExpanderEnqueue (e : ExpRef) (p : BitVec 12) (slot : Nat) (desc : W32) (bytes : List Byte) (s : State) : Res :=
  match enqueueBlock e { slot, pen := p, desc, bytes } s with
  | some s => .next s
  | none =>
    match e with
    | .yard y => .next (taskFault y tkAbsent none s)
    | .gather _ _ => .next (runReq slot [] (breakReq slot 3 s))

end Sys2Proof.Machine
end

