-- ==== Sys2Proof/Machine/YardStream.lean ====
section
/-! DEFINITION. The stream and system groups of the Yard (R248 to R257): ports, landings, SYNC, the step and seed registers,
parameters, the vector length, and TASKEND. -/

namespace Sys2Proof.Machine

/-- The port that AUX[3:0] names. -/
def auxPort (f : YF) : Fin 16 := Fin.ofNat 16 (auxBits f 3 0)

/-! ## STRM.OPEN (R249, R250) -/

/-- The DEST_NODE form of a stream port: the port, and the Yard index. -/
def portCode (y : YardRef) (p : Fin 16) : Nat := p.val + 16 * y.yard.val

/-- The gather descriptor of READ_SEQ. -/
def seqDesc (y : YardRef) (p : Fin 16) (d : List Byte) : List Byte :=
  [1, if (pFlags d).testBit 4 then 1 else 0, 255, 255, 0, 0, 0, 0] ++ toLe 2 4096 ++ [3, 0] ++ toLe 2 (portCode y p)
    ++ [pKey d, 0] ++ toLe 8 (pAddr d) ++ zeros 16 ++ toLe 4 (pBlocks d) ++ zeros 20

/-- The gather descriptor of READ_GATHER: that in scratch with DEST, DEST_NODE and KEY_ID set; EXPAND makes PASS an EXPAND. -/
def gatherDesc (y : YardRef) (p : Fin 16) (d g : List Byte) : List Byte :=
  let b1 : Byte := g.getD 1 0
  let b1 := if (pFlags d).testBit 4 ∧ bitsOf b1.toNat 1 0 = 0 then b1 ||| 1 else b1
  g.take 1 ++ [b1] ++ (g.drop 2).take 8 ++ [3] ++ (g.drop 11).take 1 ++ toLe 2 (portCode y p) ++ [pKey d] ++ g.drop 15

/-- A port descriptor's fields are in range. -/
def portDescOk (s : State) (d : List Byte) : Bool :=
  let mode := pMode d
  let read := mode == 1 || mode == 2
  decide (1 ≤ mode) && decide (mode ≤ 4) && decide (leAt d 2 1 ≤ 7)
    && (!read || (pRing d % 4096 == 0 && decide (1 ≤ pSlots d) && decide (pSlots d ≤ 1024) && inScratch (pRing d) (4096 * pSlots d)))
    && (mode != 3 || !badBlockAddr (pAddr d))
    && (mode != 4 || match aGet s.partners (pNode d) with | some x => x.state == .admitted && x.role == 0 | none => false)

/-- The unit request of a read port. -/
def portReq (s : State) (y : YardRef) (p : Fin 16) (t : Task) (d : List Byte) : UnitReq :=
  let sc := yard s y
  let seq := pMode d == 1
  let g := if seq then seqDesc y p d else gatherDesc y p d (scratchRead sc t.pen (pAddr d) 64)
  let tail := if seq then [] else scratchRead sc t.pen (pAddr d + 64) (min 4032 (scratchSize - (pAddr d + 64)))
  let q : UnitReq := { id := 0, src := .port y p, filter := false, pen := t.pen, cls := pClass d, handle := pHandle d,
                       step := taskStep t, session := pSession d, desc := g, tail, shed := y.shed, seq }
  { q with front := windowFront s q }

/-- A port opens from its descriptor. A read port's handle must be open in the Pen (R120). -/
def openPort (y : YardRef) (p : Fin 16) (t : Task) (d : List Byte) (s : State) : YRes :=
  let put (x : StrmPort) (s : State) : State := modYard y (fun e => { e with ports := aSet e.ports p x }) s
  if portDescOk s d = false then .fault tkMisuse none s
  else if pMode d = 3 ∨ pMode d = 4 then
    .done (put { out := true, desc := d, err := (portAt (yard s y) p).bind (portErr s y p) } s)
  else if pMode d = 2 ∧ inScratch (pAddr d) 64 = false then .fault tkAddress none s
  else
    let x : StrmPort := { out := false, desc := d }
    if pHandle d ≠ 0 ∧ (handleOpen s t.pen (pHandle d)).isNone then .done (put { x with ended := some (.nack 0x804) } s)
    else .done (addReq (portReq s y p t d) (put { x with req := some s.work.nextReq } s))

/-- The read of a port descriptor from the pool begins, or the NACK's FLAGS. -/
def fetchDesc (y : YardRef) (p : Fin 16) (t : Task) (a : Nat) (s : State) : Option State :=
  let k : ExtKey := (t.pen, BitVec.ofNat 35 (a / 2 ^ 21))
  if 2 ^ 56 ≤ a ∨ 2 ^ 21 < a % 2 ^ 21 + 64 ∨ (leaf s k).isNone then none
  else some (startJob { id := 0, orig := .yardIn y p, pen := t.pen, key := k, off := a % 2 ^ 21, len := 64 } s)

/-- STRM.OPEN. -/
def execStrmOpen (y : YardRef) (f : YF) (s : State) : Res :=
  insn y f { ra := true, imm := true, aux := 31 } (fun d t s =>
    let p := auxPort f
    let a := (getS d f.ra + f.imm).toNat
    let mine (j : Job) : Bool := j.orig == .yardIn y p
    if (portAt d p).any (fun x => !x.closed) then .fault tkMisuse none s
    else if auxBits f 4 4 = 0 then
      if inScratch a 64 then openPort y p t (scratchRead d t.pen a 64) s else .fault tkAddress none s
    else match (if s.pool.jobs.any mine then some s else fetchDesc y p t a s) with
      | none => .fault tkNack (some 0x905) s
      | some s =>
        match s.pool.jobs.find? mine with
        | none => .wait s
        | some j =>
          match j.result with
          | some (.ok bytes) => openPort y p t bytes (dropJob j.id s)
          | some (.err r _) => .fault tkNack (some (r.setWidth 32 + 0x900)) s
          | some (.refused r st _) => .fault tkNack (some (r.setWidth 32 + BitVec.ofNat 32 (256 * st))) s
          | some .discarded => .wait s
          | none => .wait s) s

/-! ## Landings and STRM.READ (R250, R251) -/

/-- The scratch slot that a read port's next block takes. -/
def ringSlot (x : StrmPort) : Nat := pRing x.desc / 4096 + x.ring

/-- A block lands in a slot, which the task does not see before STRM.READ returns it (R233); a coded one is enqueued to the
Yard's expander (R247), with the tables of the Pen whose extent it comes from. -/
def landBlock (y : YardRef) (p : Fin 16) (from_ : BitVec 12) (x : StrmPort) (b : List Byte × W32) (s : State) : State :=
  let k := ringSlot x
  let s := modStrm y p (fun q => { q with landed := q.landed ++ [(k, b.1, b.2)], ring := (q.ring + 1) % pSlots q.desc }) s
  if descRaw b.2 then s
  else match enqueueBlock (.yard y) { slot := landedSlot k, pen := from_, desc := b.2, bytes := b.1 } s with
    | some s => s
    | none => taskFault y tkAbsent none s

/-- The Pen whose tables code what a read port brings: the granting Pen under a granted handle (R122). -/
def portPen (s : State) (t : Task) (x : StrmPort) : BitVec 12 := match handleAt s (pHandle x.desc) with | some h => h.rpen | none => t.pen

/-- STRM.READ returns a landed block: its slot holds its bytes, its tag and its side descriptor from now on. -/
def showBlock (y : YardRef) (t : Task) (from_ : BitVec 12) (b : Nat × List Byte × W32) (s : State) : State :=
  let s := modYard y (fun d =>
    let d := scratchWrite t.pen (4096 * b.1) b.2.1 d
    { d with sdesc := aSet d.sdesc b.1 b.2.2, sgrant := if from_ = t.pen then d.sgrant else aSet d.sgrant b.1 from_ }) s
  modExpander (.yard y) (fun x => { x with queue := x.queue.map fun q => if q.slot = landedSlot b.1 then { q with slot := b.1 } else q }) s

/-- STREAM_BLOCK_LANDED: the unit's next block for a read port lands, unless the ring is full. -/
def execStreamBlockLanded (y : YardRef) (p : Fin 16) (s : State) : Res :=
  let d := yard s y
  match d.task, portAt d p with
  | some t, some x =>
    match x.req.bind (reqAt s) with
    | none => .next s
    | some q =>
      match q.port with
      | [] => .next s
      | b :: rest =>
        if pSlots x.desc ≤ x.landed.length + x.held.length then .next s
        else .next (runReq q.id [] (landBlock y p (portPen s t x) x b (modReq q.id (fun q => { q with port := rest }) s)))
  | _, _ => .next s

/-- The held slots that STRM.READ releases. -/
def releaseHeld (y : YardRef) (p : Fin 16) (n : Nat) (s : State) : State :=
  match portAt (yard s y) p with
  | none => s
  | some x => modStrm y p (fun q => { q with held := q.held.drop n }) (releaseSlots y (x.held.take n) s)

/-- STRM.READ: the release, once; then the next landed block, the end of the stream, or a wait. -/
def execStrmRead (y : YardRef) (f : YF) (s : State) : Res :=
  insn y f { rd := true, imm := true, aux := 15 } (fun d t s =>
    let p := auxPort f
    match portAt d p with
    | none => .fault tkMisuse none s
    | some x =>
      if x.out then .fault tkMisuse none s
      else
        let s := if d.begun then s
          else modYard y (fun d => { d with begun := true }) (releaseHeld y p f.imm.toNat s)
        match x.landed with
        | b :: rest =>
          .done (modYard y (setS f.rd (BitVec.ofNat 64 (4096 * b.1)))
            (modStrm y p (fun q => { q with landed := rest, held := q.held ++ [b.1] }) (showBlock y t (portPen s t x) b s)))
        | [] =>
          match x.ended with
          | none => .wait s
          | some (.status 0 _ _ _) => .done (modYard y (setS f.rd (BitVec.allOnes 64)) s)
          | some (.status c _ _ _) => .fault tkStatus (some (BitVec.ofNat 32 c)) s
          | some (.nack g) => .fault tkNack (some (g.setWidth 32)) s) s

/-! ## STRM.WRITE, STRM.CLOSE, STRM.STAT (R252, R253) -/

/-- STRM.WRITE: a coded slot goes as it is, with its descriptor, where CODE is clear and the stream stands at a block's
start. -/
def execStrmWrite (y : YardRef) (f : YF) (s : State) : Res :=
  insn y f { ra := true, imm := true, aux := 15 } (fun d t s =>
    let p := auxPort f
    let a := (getS d f.ra + f.imm).toNat
    match writePort s y p, portAt d p with
    | some e, _ => .fault e.1 e.2 s
    | none, none => .fault tkMisuse none s
    | none, some x =>
      if a % 4096 ≠ 0 ∨ inScratch a 4096 = false then .fault tkAddress none s
      else
        let bs := scratchRead d t.pen a 4096
        let c := slotDesc d (a / 4096)
        let out := if descRaw c = false ∧ (pFlags x.desc).testBit 0 = false ∧ x.buf.isEmpty then fullBlock y p t bs c s
          else portAppend y p t bs s
        match out with
        | none => .fault tkAbsent none s
        | some s => .done s) s

/-- STRM.CLOSE. -/
def execStrmClose (y : YardRef) (f : YF) (s : State) : Res :=
  insn y f { aux := 15 } (fun d t s =>
    let p := auxPort f
    match portAt d p with
    | none => .fault tkMisuse none s
    | some x =>
      if x.closed then .fault tkMisuse none s
      else if x.out then
        match portErr s y p x with
        | some g => .fault tkNack (some (g.setWidth 32)) s
        | none => match closeWrite y p t s with
          | none => .fault tkAbsent none s
          | some s => .done s
      else
        let s := releaseSlots y (portSlots x) (stopStreams y (fun q => q == p) s)
        .done (modYard y (fun d => { d with ports := aErase d.ports p }) s)) s

/-- STRM.STAT. -/
def execStrmStat (y : YardRef) (f : YF) (s : State) : Res :=
  insn y f { rd := true, aux := 15 } (fun d _ s =>
    match portAt d (auxPort f) with
    | none => .fault tkMisuse none s
    | some x =>
      if x.closed then .fault tkMisuse none s
      else .done (modYard y (setS f.rd (BitVec.ofNat 64
        (x.landed.length % 2 ^ 16 + x.held.length % 2 ^ 16 * 2 ^ 16 + bitNat x.ended.isSome * 2 ^ 32))) s)) s

/-! ## The system group (R254, R255, R257) -/

/-- SYNC: what precedes it in program order is complete but for writes under way, for which bit [3] waits. -/
def execSync (y : YardRef) (f : YF) (s : State) : Res :=
  insn y f { imm := true } (fun _ _ s =>
    if 15 < f.imm.toNat then .fault tkIllegal none s
    else if f.imm.getLsbD 3 ∧ yardPending s y then .wait s
    else .done s) s

/-- STEP.GET. -/
def execStepGet (y : YardRef) (f : YF) (s : State) : Res :=
  insn y f { rd := true } (pureInsn y fun d => setS f.rd (d.step.setWidth 64) d) s

/-- STEP.SET. -/
def execStepSet (y : YardRef) (f : YF) (s : State) : Res :=
  insn y f { ra := true, aux := 3 } (fun _ _ s =>
    if auxBits f 1 0 ≠ 1 then .fault tkIllegal none s
    else .done (modYard y (fun d => { d with step := (getS d f.ra).setWidth 32 }) s)) s

/-- STEP.ADD. -/
def execStepAdd (y : YardRef) (f : YF) (s : State) : Res :=
  insn y f { imm := true, aux := 3 } (fun _ _ s =>
    if auxBits f 1 0 ≠ 2 then .fault tkIllegal none s
    else .done (modYard y (fun d => { d with step := d.step + f.imm.setWidth 32 }) s)) s

/-- SEED.GET. -/
def execSeedGet (y : YardRef) (f : YF) (s : State) : Res :=
  insn y f { rd := true } (pureInsn y fun d => setS f.rd d.seed d) s

/-- SEED.SET. -/
def execSeedSet (y : YardRef) (f : YF) (s : State) : Res :=
  insn y f { ra := true, aux := 1 } (fun _ _ s =>
    if auxBits f 0 0 ≠ 1 then .fault tkIllegal none s
    else .done (modYard y (fun d => { d with seed := getS d f.ra }) s)) s

/-- A parameter of R255. -/
def parameter (y : YardRef) (t : Task) (n : Nat) : Option W64 :=
  match n with
  | 0 => some (BitVec.ofNat 64 vlen)
  | 1 => some (BitVec.ofNat 64 scratchSize)
  | 2 => some (t.id.setWidth 64)
  | 3 => some (t.pen.setWidth 64)
  | 4 => some 2
  | 5 => some (BitVec.ofNat 64 y.shed.val)
  | 6 => some (BitVec.ofNat 64 y.yard.val)
  | _ => none

/-- SGETP. -/
def execSgetp (y : YardRef) (f : YF) (s : State) : Res :=
  insn y f { rd := true, imm := true } (fun _ t s =>
    match parameter y t f.imm.toNat with
    | none => .fault tkIllegal none s
    | some v => .done (modYard y (setS f.rd v) s)) s

/-- The granules of VSETL: max(1, min(r, VLEN / 256, VLMAX / 256)). -/
def granules (r vlmax : Nat) : Nat := max 1 (min r (min (vlen / 256) (if vlmax = 0 then r else vlmax / 256)))

/-- VSETL. -/
def execVsetl (y : YardRef) (f : YF) (s : State) : Res :=
  insn y f { rd := true, ra := true } (pureInsn y fun d =>
    let g := granules (getS d f.ra).toNat d.vlmax
    setS f.rd (BitVec.ofNat 64 g) { d with vl := BitVec.ofNat 12 (256 * g) }) s

/-- SFLAG. -/
def execSflag (y : YardRef) (f : YF) (s : State) : Res :=
  insn y f { rd := true, imm := true } (pureInsn y fun d =>
    { setS f.rd (d.flags.setWidth 64) d with flags := d.flags &&& ~~~ (f.imm.setWidth 8) }) s

/-- The error of the lowest-numbered port that has one. -/
def anyPortErr (s : State) (y : YardRef) : Option (BitVec 16) :=
  ((List.range 16).map (Fin.ofNat 16)).findSome? fun p => (portAt (yard s y) p).bind (portErr s y p)

/-- Every port that is still open is closed. -/
def closeAll (y : YardRef) (t : Task) (s : State) : Option State :=
  let s := stopStreams y (fun _ => true) s
  ((yard s y).ports.map (·.1)).foldl (fun o p => o.bind fun s =>
    match portAt (yard s y) p with
    | some x => if x.out then closeWrite y p t s else some s
    | none => some s) (some s)

/-- TASKEND: the ports are closed, once; then the task ends when every write has ended (R253). -/
def execTaskend (y : YardRef) (f : YF) (s : State) : Res :=
  insn y f { ra := true } (fun d t s =>
    match anyPortErr s y, (if d.begun then some s else closeAll y t s) with
    | some g, _ => .fault tkNack (some (g.setWidth 32)) s
    | none, none => .fault tkAbsent none s
    | none, some s =>
      match anyPortErr s y with
      | some g => .fault tkNack (some (g.setWidth 32)) s
      | none =>
        if yardPending s y then .wait (modYard y (fun d => { d with begun := true }) s)
        else .over (taskOk y ((getS d f.ra).toNat % 65536) s)) s

end Sys2Proof.Machine
end

