-- ==== Sys2Proof/Machine/Home.lean ====
section
/-! DEFINITION. Homes that move: what waited for a home slot or for the control area goes on (R15, R38), and the timers of a
moved home start again (R16). -/

namespace Sys2Proof.Machine

/-! ## What waited goes on -/

/-- A CMX request that waited at station 6 or 7 of R22 goes on. -/
def runRequest (op : BitVec 8) (rx : Rx) (s : State) : State :=
  let go (act : Rx → State → State) : State := afterStation5 op rx act s
  match op.toNat with
  | 0x01 => go doRead
  | 0x03 => go (doStore 0x03)
  | 0x08 => go (doStore 0x08)
  | 0x20 => go doContrib
  | 0x28 => go (doUnitReq 0x28 false)
  | 0x30 => go (doUnitReq 0x30 true)
  | 0x40 => go leaseRenew
  | 0x59 => go ownerAccept
  | 0x5A => go ownerQuery
  | _ => go (holdOrdered op)

/-- A mailbox command that waited runs, and waits again where another of its slots is being rebuilt. -/
def runCmd (i : Instr) (rep : Reply) (s : State) : State :=
  match i with
  | .extentFree r => extentFree r rep s
  | .extentMigrate r => extentMigrate r rep s
  | .regionCreate r => regionCreate r rep s
  | .regionPublish r => regionPublish r rep s
  | .regionOpen r =>
    awaitHome [regionSlot (actingPen s r) (fieldLe 32 r.payload 0 4), chanSlot r.chan] i rep (regionOpen r rep) s
  | .regionClose r => regionClose r rep s
  | .regionRetire r => regionRetire r rep s
  | .windowCreate r => windowCreate r rep s
  | .windowAdvance r => windowAdvance r rep s
  | .leaseSet r => leaseSetWith r rep false i (leaseSet r rep) s
  | .leaseSetRenew r => leaseSetWith r rep false i (leaseSetRenew r rep) s
  | .leaseRevoke r => leaseSetWith r rep true i (leaseRevoke r rep) s
  | .groupCreate r => createAct r rep s
  | .groupEvict r => evictAct r rep s
  | .groupAdmit r => admitAct r rep s
  | .groupDestroy r => destroyAct r rep s
  | .getHealthGroup r => healthAct r rep s
  | .sessionInsert r => awaitHome [freeSessionHome s] i rep (sessionInsert r rep) s
  | .sessionDelete r => sessionDelete r rep s
  | _ => s

/-- One entry that waited. -/
def runWaiting (s : State) (w : Option (Fin 4) × Waiting) : State :=
  match w.2 with
  | .cmx op rx => runRequest op rx s
  | .cmd i rep => runCmd i rep s
  | .apr f p key addr len data => aprGo f p key addr len data s

/-- The entries that wait for a slot, or for the control area where none is given, go on in the order of their arrival. -/
def releaseWaits (slot : Option (Fin 4)) (s : State) : State :=
  let mine := s.share.waiting.filter fun w => w.1 == slot
  pfcSettle (mine.foldl runWaiting
    { s with share := { s.share with waiting := s.share.waiting.filter fun w => ¬ w.1 = slot } })

/-! ## What waited for the control area goes on (R38) -/

/-- LOCATION_RETIRE_COPY_DONE (R49): the requests held for the copy are released. -/
def execLocationRetireCopyDone (k : StackIx) (loc : Nat) (s : State) : Res :=
  .next (releaseWaits none (wakeJobs (copyDone k loc s)))

/-- CONTROL_AREA_RESYNC_BLOCK (R38). -/
def execControlAreaResyncBlock (half : Bool) (i : Nat) (s : State) : Res := .next (releaseWaits none (resyncBlock half i s))

/-- CONTROL_BLOCK_PLACE (R38). -/
def execControlBlockPlace (half : Bool) (i : Nat) (s : State) : Res := .next (releaseWaits none (placeBlock half i s))

/-! ## HOME_SLOT_REBUILD_DONE (R15, R16) -/

/-- The eviction windows of the groups homed in a slot that were running when the home was fenced start again, at their full
length (R16, R182). When the fence came is no operand: it is a free time up to now (log 175). -/
def restartEvictions (slot : Fin 4) (now : Nat) (s : State) : State :=
  let (f, s) := takeFree 64 s
  let fenced := f.toNat % (now + 1)
  let again (x : Group) : Group := { x with evicted := (x.evicted.filter fun t => decide (fenced < t + groupInt x)).map fun _ => now }
  { s with groups := s.groups.map fun g => (g.1, if groupSlot g.1 = slot then again g.2 else g.2) }

/-- What the checks of its home say of an access that was begun while the slot was being rebuilt. -/
def heldVerdict (s : State) (j : Job) : Verdict :=
  let a := j.key.2.toNat * 2 ^ 21 + j.off
  match j.orig with
  | .fetch id => match reqAt s id with | some q => (fetchKey s q a).2 | none => .pass
  | .out id =>
    match reqAt s id with
    | none => .pass
    | some q => match q.src with | .cmx _ rx => firstGate (homeGates 0x03 (outRx q rx a) s) | .port _ _ => .pass
  | .yardOut y p =>
    match (yard s y).task, portAt (yard s y) p with
    | some t, some x => firstGate (homeGates 0x03 (poolWrite s t x a) s)
    | _, _ => .pass
  | _ => .pass

/-- The accesses begun while a slot was being rebuilt are checked, the oldest first, and go on or end with a NACK (R15). -/
def settleHeld (slot : Fin 4) (s : State) : State :=
  (s.pool.jobs.filter fun j => j.held && keySlot j.key == slot).foldl (fun s j =>
    match heldVerdict s j with
    | .pass => modJob j.id (fun q => { q with held := false }) s
    | .nack r st d => endJob j (.refused r st d) (modJob j.id (fun q => { q with held := false }) s)
    | .wait _ => s) s

/-- HOME_SLOT_REBUILD_DONE: the slot's home state is whole at its new home, and what waited for it goes on. -/
def execHomeSlotRebuildDone (slot : Fin 4) (now : Nat) (s : State) : Res :=
  if slotMoving s slot = false ∨ islRunning s (shcOf (homeMap s slot)) = false then .next s
  else
    let s := { s with glb := { s.glb with moving := s.glb.moving.filter fun n => ¬ n = slot } }
    let s := resumeAllocs (wakeJobs (settleHeld slot (releaseWaits (some slot) (restartEvictions slot now s))))
    .next ((s.coh.queue.map (·.1)).foldl (fun s l => serveLine l (s.coh.queue.length + 1) s) s)

end Sys2Proof.Machine
end

