-- ==== Sys2Proof/Machine/Fence.lean ====
section
/-! DEFINITION. An island that is fenced, with what depends on it, and an island that comes to run (R15 to R20, R38, R48,
R65, R189, R220, R294, R308, R433). -/

namespace Sys2Proof.Machine

/-! ## Islands (R17, R18) -/

/-- The islands of a Shed, SHC first. -/
def shedIslands (sh : ShedIx) : List IslandIx := [shcOf sh, yrdOf sh, lniOf sh, islNo (17 + 2 * sh.val), islNo (18 + 2 * sh.val)]

/-- The island that an island depends on besides AON. -/
def parentIsland (i : IslandIx) : Option IslandIx :=
  if i.val = 3 ∨ i.val = 4 then some 1
  else if 9 ≤ i.val then (shedOfIsland i).map shcOf
  else none

/-- An island with those that depend on it. -/
def dependents (i : IslandIx) : List IslandIx :=
  if i.val = 0 then (List.range 25).map islNo
  else i :: ((List.range 25).map islNo).filter fun j => parentIsland j = some i

/-- The working Sheds, in ascending order. -/
def workingSheds (s : State) : List ShedIx := allSheds.filter fun sh => islRunning s (shcOf sh)

/-- The stacks of an NTM island. -/
def ntmStacks (i : IslandIx) : List StackIx := [Fin.ofNat 16 (2 * (i.val - 17)), Fin.ofNat 16 (2 * (i.val - 17) + 1)]

/-! ## home_map and flash trays (R15, R65) -/

/-- The slots whose entry names a Shed that does not work. -/
def lostSlots (s : State) : List (Fin 4) := ([0, 1, 2, 3] : List (Fin 4)).filter fun n => !islRunning s (shcOf (homeMap s n))

/-- The Keeper spreads the entries that name a lost Shed over the working ones, where there is one. -/
def rewriteHomes (s : State) : State :=
  let work := workingSheds s
  if s.kpr.state ≠ .running ∨ work.isEmpty then s
  else ((lostSlots s).zip (List.range 4)).foldl (fun s x => setHomeMap x.1 (work.getD (x.2 % work.length) 0) s) s

/-- A flash tray whose FTL Shed does not work will be mounted on a working one; which is free. -/
def replaceTray (s : State) (n : Node) : State :=
  let work := workingSheds s
  if islRunning s (shcOf (tray s n).shed) ∨ s.kpr.state ≠ .running ∨ work.isEmpty then s
  else
    let (k, s) := takePick s
    modTray n (fun t => { t with shed := work.getD (k % work.length) 0 }) s

/-- Every such tray. -/
def replaceTrays (s : State) : State := (s.pool.trays.map (·.1)).foldl replaceTray s

/-- What the Keeper owes for Sheds that have been lost. -/
def moveHomes (s : State) : State := replaceTrays (rewriteHomes s)

/-! ## What a fenced island takes with it -/

/-- The SPARE_ENGAGE requests that wait for units of a kind end (R28). -/
def endDrains (sh : ShedIx) (k : UnitKind) (s : State) : State :=
  allUnits.foldl (fun s u =>
    let n := unit s sh k u
    let s := if n.drain.isSome ∨ n.draining then modUnit sh k u (fun n => { n with drain := none, draining := false }) s else s
    match n.drain with
    | some rep => post rep stServiceDown [] s
    | none => s) s

/-- A YRD island is lost: the tasks on its Yards stop (R265), and a self-test ends. -/
def loseYards (sh : ShedIx) (s : State) : State :=
  let s := allUnits.foldl (fun s u => stopTask ⟨sh, u⟩ tkYard s) s
  let s := { s with work := { s.work with yards := s.work.yards.map fun y =>
    (y.1, if y.1.shed = sh then { y.2 with testing := false } else y.2) } }
  endDrains sh .yard s

/-- An LNI island is lost: its ports go down, and what waits for a spare slice ends (R28). -/
def losePorts (sh : ShedIx) (s : State) : State :=
  let ps := (s.ports.filter fun p => portShed p.1 = sh && p.2.link ≠ 0).map (·.1)
  let s := ps.foldl (fun s p => portDownFree p s) s
  (shedLanterns sh).foldl (fun s l =>
    let reps := (lantern s l).moveReplies.map (·.2)
    reps.foldl (fun s rep => post rep stServiceDown [] s) (modLantern l (fun q => { q with moveReplies := [] }) s)) s

/-- An NTM island is lost: the control blocks of its stacks cannot be written (R38). -/
def loseStacks (i : IslandIx) (s : State) : State :=
  (ntmStacks i).foldl (fun s k => if stackFailed s k then s else enterResync k s) s

/-- The VOQs of a Shed with their frames, and its learn events (R294). -/
def loseQueues (sh : ShedIx) (s : State) : State :=
  let lost := (s.sw.voqs.filter fun v => v.1.1 = sh).flatMap fun v => v.2.frames
  let s := { s with sw := { s.sw with
    voqs := s.sw.voqs.map fun v => (v.1, if v.1.1 = sh then { v.2 with frames := [] } else v.2)
    learns := aErase s.sw.learns sh
    lofted := s.sw.lofted.filter fun x => ¬ portShed x.1.port = sh } }
  lost.foldl (fun s f => finishFrame f s) (clearDeficits s)

/-- A packet that the Loft of a Shed holds. -/
def inLoft (sh : ShedIx) (p : Rx) : Bool := portShed p.port == sh

/-- The packets that a Shed's Loft held for a home slot, the control area or their order are lost: they end without
effect or response. -/
def loseHeld (sh : ShedIx) (s : State) : State :=
  let waits := s.share.waiting.filterMap fun w => match w.2 with | .cmx op rx => if inLoft sh rx then some (op, rx) else none | _ => none
  let held := s.pairs.flatMap fun p => (p.2.held.filter fun h => inLoft sh h.rx).map fun h => (h.op, h.rx)
  let s := { s with
    share := { s.share with waiting := s.share.waiting.filter fun w => match w.2 with | .cmx _ rx => !inLoft sh rx | _ => true }
    pairs := s.pairs.map fun p => (p.1, { p.2 with held := p.2.held.filter fun h => !inLoft sh h.rx }) }
  (waits ++ held).foldl (fun s x => finishEpoch x.2.epoch (endIfStore x.1 x.2 s)) s

/-- A gather or filter that waits in a Shed's Loft for a unit. -/
def loftReq (sh : ShedIx) (q : UnitReq) : Bool := match q.src with | .cmx _ rx => q.unit.isNone && inLoft sh rx | .port _ _ => false

/-- The requests of a Shed's Gather and Filter Units end with UNIT_FAULT (R226); those in its Loft are lost. -/
def loseUnits (sh : ShedIx) (s : State) : State :=
  let s := (s.work.reqs.filter (loftReq sh)).foldl (fun s q => quietReq q s) s
  let mine := s.work.reqs.filter fun q => q.shed == sh
  let end_ (s : State) (q : UnitReq) : State :=
    match q.src with | .cmx _ _ => endReq q 6 s | .port y _ => quietReq q (stopTask y tkUnit s)
  let s := (mine.filter fun q => q.unit.isNone).foldl end_ s
  let s := (mine.filter fun q => q.unit.isSome).foldl end_ s
  let expShed (e : ExpRef) : ShedIx := match e with | .yard y => y.shed | .gather h _ => h
  let s := { s with work := { s.work with expanders := s.work.expanders.filter fun e => ¬ expShed e.1 = sh } }
  [UnitKind.reduce, .gather, .filter].foldl (fun s k => endDrains sh k s) s

/-- A DMA_ABORT that waits on an engine of the Shed ends (R28). The engine stands still until the Shed is reset. -/
def loseEngine (sh : ShedIx) (s : State) : State :=
  (engChans sh).foldl (fun s c =>
    match (dch s c).abort with
    | some rep => post rep stServiceDown [] (modDch c (fun d => { d with abort := none }) s)
    | none => s) s

/-- The notices that a Shed holds for the Keeper are lost with it. -/
def loseNotices (sh : ShedIx) (s : State) : State :=
  if (aGetD s.kpr.shedQ sh []).isEmpty then s
  else { s with kpr := { s.kpr with shedQ := aErase s.kpr.shedQ sh, shedLost := s.kpr.shedLost.erase sh ++ [sh] } }

/-- The device-space windows, in pages, of the tasks that run on a Shed's Yards (R235, R308). -/
def taskWindows (sh : ShedIx) (s : State) : List (Nat × Nat) :=
  (s.work.yards.filter fun y => y.1.shed = sh).filterMap fun y => y.2.task.map fun t => (leAt t.desc 20 4, leAt t.desc 24 4)

/-- An SHC island is lost: everything that the Shed held. Its home slots stand still until they have been rebuilt (R15,
R16). -/
def loseShed (sh : ShedIx) (s : State) : State :=
  let ws := taskWindows sh s
  let s := loseYards sh s
  let s := loseHeld sh (loseUnits sh s)
  let s := loseNotices sh (loseEngine sh (faultGroups sh s))
  let s := cohLoseShed sh ws (loseBank sh s)
  let s := losePorts sh (loseQueues sh s)
  let slots := ([0, 1, 2, 3] : List (Fin 4)).filter fun n => homeMap s n == sh && !slotMoving s n
  let s := { s with glb := { s.glb with moving := s.glb.moving ++ slots }, pool := { s.pool with etc := aErase s.pool.etc sh } }
  let trays := (s.pool.trays.filter fun t => t.2.shed = sh).map (·.1)
  trays.foldl (fun s n => unmountTray n s) s

/-- What one island takes with it when it is fenced. -/
def loseIsland (s : State) (i : IslandIx) : State :=
  if i.val = 1 then expireIsland i { s with kpr := { s.kpr with state := .halted } }
  else if i.val = 3 then { s with pcieA := { s.pcieA with up := false } }
  else if i.val = 4 then { s with pcieB := { s.pcieB with up := false } }
  else if i.val < 5 then s
  else if i.val < 9 then loseShed (shedOf (i.val - 5)) s
  else if i.val < 13 then expireIsland i (loseYards (shedOf (i.val - 9)) s)
  else if i.val < 17 then losePorts (shedOf (i.val - 13)) s
  else loseStacks i s

/-! ## ISLAND_FENCE -/

/-- An island shows Fenced, with its event. -/
def showFenced (s : State) (i : IslandIx) : State :=
  if islFenced s i then s else setIslEvt 0 i (modIsland i (fun q => { q with state := .fenced }) s)

/-- An island enters Fenced and takes with it what depends on it; the level is evaluated, home slots move, and accesses
that waited meet the fence. -/
def fenceIsland (i : IslandIx) (s : State) : State :=
  let new := (dependents i).filter fun j => !islFenced s j
  let s := new.foldl showFenced s
  let s := evalLevelBy (BitVec.ofNat 8 i.val) 3 s
  let s := moveHomes (new.foldl loseIsland s)
  pfcSettle (wakeJobs (evalLevel s))

/-- No island of the Shed that is being reset is Starting any more: its reset has ended (R433). -/
def endShedReset (s : State) : State :=
  match s.glb.shedResetOn with
  | none => s
  | some sh =>
    if (shedIslands sh).any fun i => (island s i).state == .starting then s else { s with glb := { s.glb with shedResetOn := none } }

/-- ISLAND_FENCE: a fault of an island; one that is Off or already Fenced does no work that could fail. -/
def execIslandFence (i : IslandIx) (s : State) : Res :=
  if (island s i).state = .off ∨ islFenced s i then .next s else .next (endShedReset (fenceIsland i s))

/-- REFCLK_LOSS: the Shed moves to the other input of the pair if it uses the lost one (R381). With both inputs lost its SHC
island is fenced, and with it its YRD and LNI islands (R380, R20). -/
def execRefclkLoss (i : Fin 8) (s : State) : Res :=
  let sh := shedOf (i.val / 2)
  let s := loseRef i s
  if s.power.refLost.contains (pairedRef i) then execIslandFence (shcOf sh) s
  else if (island s (shcOf sh)).refAlt = decide (i.val % 2 = 1) then .next (moveReference sh s)
  else .next s

/-! ## ISLAND_RUNNING -/

/-- The training of a stack has ended: Online, or Failed (R46, R431); a stack that has failed before stays Failed. -/
def trainStack (k : StackIx) (ok : Bool) (s : State) : State :=
  if stackFailed s k then s
  else if ok = false ∨ (stk s k).forceFail then failStack k s
  else modStk k (fun q => { q with state := 2 }) s

/-- The slices of a Lantern that were Off are in use: active lanes' slices Active, spares free (R405). -/
def lightSlices (l : StackIx) (s : State) : State :=
  (List.range 36).foldl (fun s i =>
    modLantern l (modSlice (Fin.ofNat 36 i) fun q => if q.state = 0 then { q with state := if i < 32 then 1 else 2 } else q) s) s

/-- The bit of a unit or slice in a retirement mask of the journal (R383). -/
def retiredBit (s : State) (key i : Nat) : Bool := ((((jValue s key).map leNat).getD 0).testBit i)

/-- A Lantern's slices that were Off: those that the journal retires are Fenced, the others are in use. Lanes that a retired
slice served, and lanes that were down for want of a spare, move where one is free (R383, R407, R408). -/
def bringSlices (l : StackIx) (s : State) : State :=
  let gone := (List.range 36).filter fun i =>
    retiredBit s (0x60040 + l.val) i && (slice (lantern s l) (Fin.ofNat 36 i)).state == 0
  let s := gone.foldl (fun s i => modLantern l (modSlice (Fin.ofNat 36 i) fun q => { q with state := 5, wear := orBit q.wear 2 }) s) s
  let s := lightSlices l s
  let lanes : List (Fin 32) := (gone.filter fun i => i < 32).map fun i => Fin.ofNat 32 i
  let old := (lantern s l).down.filter fun a => !lanes.contains a
  let s := lanes.foldl (fun s a => moveLane l a 0 true s) s
  old.foldl (fun s a => moveLane l a 6 true s) s

/-- The units of a kind in a Shed that were Off: those that the journal retires are fenced, the others work, the spare is
free (R383). -/
def bringUnits (sh : ShedIx) (k : UnitKind) (s : State) : State :=
  allUnits.foldl (fun s u =>
    let gone := retiredBit s (retiredKey sh k) u.val
    if (unit s sh k u).st ≠ .off then s
    else modUnit sh k u (fun n => { n with
      st := if gone then .fenced else if u = spareIx then .spareFree else .active
      wear := if gone then orBit n.wear 2 else n.wear }) s) s

/-- What an island does as it comes to run: units that were Off work, an LNI island's lanes train, an NTM island's stacks
have trained. -/
def startIsland (i : IslandIx) (stacksOk : BitVec 2) (s : State) : State :=
  if i.val < 5 then s
  else if i.val < 9 then
    let sh := shedOf (i.val - 5)
    engageWaiting true (bringUnits sh .filter (bringUnits sh .gather (bringUnits sh .reduce s)))
  else if i.val < 13 then engageWaiting true (bringUnits (shedOf (i.val - 9)) .yard s)
  else if i.val < 17 then (shedLanterns (shedOf (i.val - 13))).foldl (fun s l => bringSlices l s) s
  else ((ntmStacks i).zip (List.range 2)).foldl (fun s x => trainStack x.1 (stacksOk.getLsbD x.2) s) s

/-- ISLAND_RUNNING: a Starting island whose own dependence runs makes the tag sweeps it owes (R354), runs, and lets go on
what waited for it: homes that no Shed could take (R15), requests for the control area (R38), accesses, scrubs. -/
def execIslandRunning (i : IslandIx) (stacksOk : BitVec 2) (s : State) : Res :=
  let ready := islRunning s 0 && match parentIsland i with | some j => islRunning s j | none => true
  if (island s i).state ≠ .starting ∨ ready = false then .next s
  else
    let s := startIsland i stacksOk (owedSweeps i s)
    let s := modIsland i (fun q => { q with state := .running, pll := true }) s
    let s := moveHomes s
    let s := evalLevelBy (BitVec.ofNat 8 i.val) 2 s
    .next (bootOn (endShedReset (releaseWaits none (wakeJobs s))))

end Sys2Proof.Machine
end

