-- ==== Sys2Proof/Machine/Boot.lean ====
section
/-! DEFINITION. Resets and boot: power-on, device warm and Shed resets, the boot ROM's steps, and the bring-up by the
firmware (R42, R46, R381, R383, R403, R429 to R438, R442, R467, R469, R474). -/

namespace Sys2Proof.Machine

/-! ## The boot ROM (R436, R437) -/

/-- An island runs, its PLL locked and its supplies in range. -/
def liveIsland (i : IslandIx) (s : State) : State :=
  modIsland i (fun q => { q with state := .running, pll := true, railOk := true }) s

/-- BOOT_SRC and HOST_PRIMARY are sampled (R436). -/
def sampleSrc (s : State) : State :=
  let lv (i : Nat) : Bool := (input s (Fin.ofNat 38 i)).level
  { s with glb := { s.glb with bootSrc := BitVec.ofNat 2 (bitNat (lv 3) + 2 * bitNat (lv 4)), hostPrimary := lv 5 } }

/-- A PCIe port's island starts unless its PERST pin is low. -/
def startPcie (portB : Bool) (s : State) : State :=
  let out := (input s (if portB then 2 else 1)).level
  let p : PciePort := { perst := !out }
  let s := if portB then { s with pcieB := p } else { s with pcieA := p }
  modIsland (if portB then 4 else 3) (fun q => { q with state := if out then .starting else .off, railOk := true }) s

/-- Recovery (R438): BOOT_FAIL, and event 0x0208 where the image has failed its checks. -/
def enterRecovery (failed : Bool) (s : State) : State :=
  let s := setCause 3 { s with glb := { s.glb with boot := .recovery }, sec := { s.sec with recovery := true, verified := false } }
  if failed then coded 0x208 1 { s with jnl := { s.jnl with fwiImage := 3 } } else s

/-- Step 4: the image is verified and waits for L0 (R29), or the device is in recovery. -/
def bootImage (s : State) : State :=
  if s.glb.bootSrc = 1 then enterRecovery false s
  else if imageOk s = false then enterRecovery true s
  else bootOn (loadImage { s with jnl := { s.jnl with imageReady := true } })

/-- The security engine draws the device key from its random source (R359). -/
def drawDeviceKey (s : State) : State :=
  let (k, s) := takeFree 512 s
  { s with sec := { s.sec with devKey := some k } }

/-- The steps of R437 up to the start of the firmware. -/
def bootRom (b : BootFacts) (s : State) : State :=
  let s := sampleSrc (liveIsland 0 s)
  if b.secOk = false then setCause 4 s
  else
    let s := drawDeviceKey (liveIsland 2 (liveIsland 1 { s with glb := { s.glb with boot := .rom } }))
    if b.norOk = false then s
    else bootImage (startPcie true (startPcie false (applyAtBoot (mountJournal s))))

/-! ## Power-on and device warm reset (R431, R432) -/

/-- The inputs at the levels of their pins: bit i of `pins` is input i. -/
def pinInputs (pins : BitVec 38) : Assoc (Fin 38) Input :=
  (List.range 38).map fun i =>
    let v := pins.getLsbD i
    (Fin.ofNat 38 i, { pin := v, level := v, atStart := v })

/-- What a power-on reset keeps: the NOR and the fuses; and what is not the device's: its outputs, hosts' memory. -/
def powerOnState (s : State) : State :=
  { State.reset with pending := s.pending, fresh := s.fresh, out := s.out, host := s.host, nor := s.nor, fuses := s.fuses }

/-- POWER_ON_RESET. -/
def execPowerOnReset (b : BootFacts) (s : State) : Res := .next (bootRom b { powerOnState s with inputs := pinInputs b.pins })

/-- What a stack keeps over a device warm reset: Failed, and FORCE_FAIL. -/
def warmStack (q : Stack) : Stack := { state := if q.state = 3 then 3 else 0, forceFail := q.forceFail }

/-- What a device warm reset keeps besides: the Daymark, and in AON the input filters, the brownout state, the journal's
event and append registers and the reference of AON, KPR and SEC; Failed stacks, whose control blocks await a place. A
partner's record stays as of one that is absent (R388). -/
def warmState (s : State) : State :=
  let stks := s.near.stks.map fun k => (k.1, warmStack k.2)
  let alt := (island s 0).refAlt
  { powerOnState s with
    inputs := s.inputs, infEvt := s.infEvt, dmk := s.dmk
    power := { s.power with avsRetry := [], avsSet := [], refLost := [] }
    jnl := { evt := s.jnl.evt, appendCnt := s.jnl.appendCnt, nvLock := sagStops s }
    isl := [(0, { refAlt := alt }), (1, { refAlt := alt }), (2, { refAlt := alt })]
    near := { stks, resync := (stks.filter fun k => k.2.state = 3).map fun k => (k.1, []) }
    partners := s.partners.map fun p => (p.1, { p.2 with state := .absent, ports := [] }) }

/-- The caller is PF0 of a port (R431). -/
def isPf0Fn (c : Caller) : Bool := match c with | .fn f => f.val % 64 == 0 | _ => false

/-- DEVICE_WARM_RESET: asked for by PF0, or by a write of WARM that is pending. It replaces a Shed reset (R469). -/
def execDeviceWarmReset (c : Caller) (b : BootFacts) (s : State) : Res :=
  if isPf0Fn c || s.glb.warm then .next (bootRom b (warmState s)) else .next s

/-! ## FIRMWARE_BRINGUP (R429, R437 step 6) -/

/-- An NTM island and its stacks. -/
def bringStacks (b : BringupFacts) (s : State) (i : IslandIx) : State :=
  (ntmStacks i).foldl (fun s k => trainStack k (b.stacksOk.getLsbD k.val) s) (liveIsland i s)

/-- A Shed's supplies and a reference are there, and its wait has not run out (R429). -/
def shedPowered (b : BringupFacts) (s : State) (sh : ShedIx) : Bool :=
  b.rails.getLsbD sh.val && (b.refA.getLsbD sh.val || b.refB.getLsbD sh.val) && !s.glb.railAbsent.contains sh

/-- The inputs of a Shed's pair that do not run when its reference is chosen. -/
def absentRefs (b : BringupFacts) (sh : ShedIx) (s : State) : State :=
  let s := if b.refA.getLsbD sh.val then s else loseRef (Fin.ofNat 8 (2 * sh.val)) s
  if b.refB.getLsbD sh.val then s else loseRef (Fin.ofNat 8 (2 * sh.val + 1)) s

/-- A Shed comes up: its reference, its islands in the order of their dependence, its units, stacks and lanes. A part that
fails its self-test stays Off. Its VDD_SHC set point waits to be written (R474). -/
def bringShed (b : BringupFacts) (s : State) (sh : ShedIx) : State :=
  if shedPowered b s sh = false ∨ (island s (shcOf sh)).state ≠ .off then s
  else
    let s := (shedIslands sh).foldl (fun s i => modIsland i (fun q => { q with railOk := true, refAlt := !b.refA.getLsbD sh.val }) s) (absentRefs b sh s)
    if b.shcOk.getLsbD sh.val = false then s
    else
      let s := bringUnits sh .filter (bringUnits sh .gather (bringUnits sh .reduce (liveIsland (shcOf sh) s)))
      let s := [islNo (17 + 2 * sh.val), islNo (18 + 2 * sh.val)].foldl (bringStacks b) s
      let s := if b.lniOk.getLsbD sh.val then (shedLanterns sh).foldl (fun s l => bringSlices l s) (liveIsland (lniOf sh) s) else s
      let s := if b.yrdOk.getLsbD sh.val then bringUnits sh .yard (liveIsland (yrdOf sh) s) else s
      { s with power := { s.power with avsRetry := s.power.avsRetry.erase sh ++ [sh] } }

/-- FIRMWARE_BRINGUP: once, after the firmware has started. The home state is empty, so a home slot whose Shed has not come
up is moved without a rebuild. -/
def execFirmwareBringup (b : BringupFacts) (s : State) : Res :=
  if s.glb.boot ≠ .firmware ∨ s.kpr.state ≠ .running then .next s
  else
    let s := allSheds.foldl (bringShed b) s
    let s := rewriteHomes (engageWaiting true { s with glb := { s.glb with boot := .up } })
    .next (evalLevel s)

/-- RAIL_WAIT_EXPIRY: the Shed's islands stay Off when the bring-up comes. -/
def execRailWaitExpiry (sh : ShedIx) (s : State) : Res :=
  if s.glb.boot ≠ .firmware ∨ s.glb.railAbsent.contains sh then .next s
  else .next (evalLevel { s with glb := { s.glb with railAbsent := s.glb.railAbsent ++ [sh] } })

/-! ## SHED_RESET (R433, R469) -/

/-- What a port block keeps: its flap penalty, and what belongs to the partner's record (R431). -/
def resetPort (q : Port) : Port :=
  { penalty := q.penalty, penaltyAt := q.penaltyAt, suppressed := q.suppressed, partner := q.partner, node := q.node, role := q.role }

/-- What a Lantern keeps: the fences of its slices and the lane maps (R432). The slices in use are Off until they train. -/
def resetLantern (q : Lantern) : Lantern :=
  { input := q.lostA && !q.lostB, elsIgnored := q.elsIgnored, lostA := q.lostA, lostB := q.lostB, map := q.map, down := q.down,
    laserWear := q.laserWear
    slices := (q.slices.filter fun i => i.2.state = 5 ∨ i.2.state = 3 ∨ i.2.wear ≠ 0).map fun i =>
      (i.1, { i.2 with state := if i.2.state = 5 ∨ i.2.state = 3 then i.2.state else 0, heater := 0, eye := 0 }) }

/-- What a stack keeps: its contents with what the retirements say of them, Failed and FORCE_FAIL. -/
def resetStack (q : Stack) : Stack :=
  { state := if q.state = 3 then 3 else 1, forceFail := q.forceFail, retired := q.retired, remap := q.remap, taken := q.taken,
    missing := q.missing, copying := q.copying }

/-- What a unit keeps: its fence, its spare, its wear (R12, R383). -/
def resetUnit (n : Unit) : Unit :=
  { st := n.st, fence := n.fence, link := n.link, engaged := n.engaged, wear := n.wear, cause := n.cause, ce24 := n.ce24 }

/-- A map in which the entries of a Shed are changed. -/
def mapShed {κ α : Type} (m : Assoc κ α) (own : κ → Bool) (f : α → α) : Assoc κ α := m.map fun x => (x.1, if own x.1 then f x.2 else x.2)

/-- The switching registers of a Shed and of its ports are at reset; the settings of R296 are written again. -/
def resetSwitch (sh : ShedIx) (s : State) : State :=
  let w := s.sw
  let mine (p : PortIx) : Bool := portShed p == sh
  queueRegs { s with sw := { w with
    sched := mapShed w.sched (· == sh) fun c => { bootMib := c.bootMib }
    voqs := w.voqs.filter fun v => ¬ v.1.1 = sh
    ports := w.ports.filter fun p => !mine p.1
    shapers := w.shapers.filter fun p => !mine p.1.1
    gates := w.gates.filter fun p => !mine p.1
    meters := w.meters.filter fun m => ¬ m.1.1 = sh } } sh

/-- A DMA engine's channel has an access. -/
def dmaJob (sh : ShedIx) (j : Job) : Bool := match j.orig with | .dma c => dmaShed c == sh | _ => false

/-- The DMA engine and its channels are at reset: every channel is Idle; its accesses are forgotten. -/
def resetEngine (sh : ShedIx) (s : State) : State :=
  { s with
    dma := { s.dma with chs := s.dma.chs.filter fun c => ¬ dmaShed c.1 = sh, engs := aErase s.dma.engs sh }
    pool := { s.pool with jobs := s.pool.jobs.filter fun j => !dmaJob sh j } }

/-- The Match Table bank and the home are at reset; the settings of R228 and R320 are written again. -/
def resetBlocks (sh : ShedIx) (s : State) : State :=
  let banks := aMod s.work.banks sh {} fun b => { lost := b.lost }
  applyHomeSettings (applyMatchSettings { s with work := { s.work with banks }, coh := { s.coh with homes := aErase s.coh.homes sh } })

/-- The registers of a Shed's islands are at reset (R431, R432). -/
def resetShed (sh : ShedIx) (s : State) : State :=
  let s := resetBlocks sh (resetEngine sh (resetSwitch sh s))
  { s with
    shd := aErase s.shd sh
    ports := mapShed s.ports (fun p => portShed p == sh) resetPort
    lanterns := mapShed s.lanterns (fun l => stackShed l == sh) resetLantern
    units := mapShed s.units (fun u => u.1 == sh) resetUnit
    near := { s.near with stks := mapShed s.near.stks (fun k => stackShed k == sh) resetStack }
    work := { s.work with yards := s.work.yards.filter fun y => ¬ y.1.shed = sh
                          expanders := s.work.expanders.filter fun e => match e.1 with
                            | .yard y => ¬ y.shed = sh
                            | .gather h _ => ¬ h = sh } }

/-- The islands leave their reset: Starting, or Off where their supplies are absent. -/
def releaseShed (sh : ShedIx) (s : State) : State :=
  (shedIslands sh).foldl (fun s i => modIsland i (fun q => { q with state := if q.railOk then .starting else .off, pll := false }) s) s

/-- A Shed reset that is pending starts once the Keeper runs: the fence with every consequence, then the reset (R433). -/
def startShedReset (s : State) : State :=
  if s.glb.shedRst = false ∨ s.kpr.state ≠ .running then s
  else
    let sh := s.glb.shedSel
    let s := fenceIsland (shcOf sh) { s with glb := { s.glb with shedRst := false, shedResetOn := some sh } }
    endShedReset (releaseShed sh (resetShed sh s))

/-- A write of SHED_RST (R469). -/
def askShedReset (sh : ShedIx) (s : State) : State :=
  let busy (p : ShedIx → Bool) : Bool := (s.glb.shedRst && p s.glb.shedSel) || s.glb.shedResetOn.any p
  if s.glb.warm ∨ busy (· == sh) then s
  else if busy (· != sh) then coded 0x20C 0 { s with glb := { s.glb with refused := true } }
  else { s with glb := { s.glb with shedRst := true, shedSel := sh } }

/-- SHED_RESET: asked for by PF0, or by a write of SHED_RST that is pending for the Shed. -/
def execShedReset (c : Caller) (sh : ShedIx) (s : State) : Res :=
  let s' := if isPf0Fn c then askShedReset sh s else s
  if s'.glb.shedRst = true ∧ s'.glb.shedSel = sh then .next (startShedReset s') else .next s'

end Sys2Proof.Machine
end

