-- ==== Sys2Proof/Machine/Keeper.lean ====
section
/-! DEFINITION. The Keeper's watchdog, its restart, and what the Keeper takes up again (R347 to R350, R433). -/

namespace Sys2Proof.Machine

/-! ## The watchdog (R347, R350) -/

/-- The third expiry within 600 s leaves the Keeper held in reset. -/
def haltKeeper (s : State) : State := coded 0xA 1 (setCause 1 { s with kpr := { s.kpr with state := .halted } })

/-- The resident image's digest does not match: the boot ROM verifies the NOR image, and without a good one the device is in
recovery, where the restart goes on with the image that FW_ACTIVATE brings. -/
def reverify (s : State) : State :=
  if s.glb.bootSrc ≠ 1 ∧ imageOk s then loadImage s
  else enterRecovery (s.glb.bootSrc ≠ 1) { s with kpr := { s.kpr with state := .bootRom, resume := true } }

/-- KEEPER_WATCHDOG_EXPIRY at an AON time in ns, with what the digest check of a restart finds. -/
def execKeeperWatchdogExpiry (now : Nat) (digestOk : Bool) (s : State) : Res :=
  if s.kpr.state ≠ .running then .next s
  else
    let times := (s.kpr.expiries.filter fun t => now < t + 600000000000) ++ [now]
    let s := coded 0x9 1 { s with kpr := { s.kpr with expiries := times } }
    if 3 ≤ times.length then .next (haltKeeper s)
    else
      let s := beginRestart 0 s
      .next (if digestOk then s else reverify s)

/-! ## After a restart (R348) -/

/-- The request is the FW_ACTIVATE that the new image answers. -/
def isActivate (s : State) (c : ChanIx) (t : BitVec 16 × W32) : Bool :=
  match s.kpr.activateReply with
  | some rep => rep.chan == c && rep.op == t.1 && rep.tag == t.2
  | none => false

/-- The requests taken and not answered. -/
def takenRequests (s : State) : List (ChanIx × BitVec 16 × W32) :=
  s.chans.flatMap fun c => (c.2.taken.filter fun t => !isActivate s c.1 t).map fun t => (c.1, t.1, t.2)

/-- RESTARTED for each of them; what their commands still do answers no one. -/
def answerTaken (s : State) : State :=
  let xs := takenRequests s
  let s := xs.foldl (fun s x => post { chan := x.1, gen := (chan s x.1).gen, op := x.2.1, tag := x.2.2 } stRestarted [] s) s
  (xs.map (·.1)).eraseDups.foldl (fun s c => modChan c (fun q => { q with gen := q.gen + 1, asked := [] }) s) s

/-- The new image answers its FW_ACTIVATE: event 0x0209 and an entry in the measurement log (R441, R371). -/
def answerActivate (s : State) : State :=
  match s.kpr.activateReply with
  | none => s
  | some rep =>
    let s := { s with kpr := { s.kpr with activateReply := none }, jnl := { s.jnl with activating := false } }
    post rep stOk [] (coded 0x209 1 (logEntry 2 0 s.jnl.fwVersion (Config.digest s.nor.image) s))

/-- Commands that waited in the Keeper are gone; a CALIB_RUN ends. -/
def dropWaiting (s : State) : State :=
  let s := { s with share := { s.share with waiting := s.share.waiting.filter fun w => match w.2 with | .cmd _ _ => false | _ => true } }
  match s.calib with
  | some c => endCalib stOk c s
  | none => s

/-- The KEEPER_RESTART notice. -/
def restartBody (s : State) : List Byte := toLe 4 s.kpr.restarts.toNat ++ [s.kpr.restartCause.setWidth 8]

/-- All channels. -/
def allChans : List ChanIx := (List.range 160).map (Fin.ofNat 160)

/-- The Sheds' notice queues are drained (R349). -/
def drainSheds (s : State) : State :=
  let qs := s.kpr.shedQ
  let s := { s with kpr := { s.kpr with shedQ := [] } }
  qs.foldl (fun s q => q.2.foldl (fun s n => shedNotice q.1 n.chan n.kind.toNat n.body s) s) s

/-- What waited for the Keeper: spares, homes and trays of lost Sheds, a requested Shed reset (R349, R382, R433). -/
def keeperOwed (s : State) : State := startShedReset (moveHomes (engageWaiting false s))

/-- KEEPER_RESTART_DONE: the Keeper runs again, answers and notifies, drains the Sheds' queues, and serves its rings. -/
def execKeeperRestartDone (s : State) : Res :=
  if s.kpr.state ≠ .restarting then .next s
  else
    let s := { s with kpr := { s.kpr with state := .running, restarts := s.kpr.restarts + 1 } }
    let s := dropWaiting (answerTaken (answerActivate s))
    let s := allChans.foldl (fun s c => notice c 0xA (restartBody s) s) s
    let s := drainSheds s
    let s := allChans.foldl (fun s c => flushNotices c 64 s) s
    let s := keeperOwed s
    .next (serveChans allChans s)

end Sys2Proof.Machine
end

