-- ==== Sys2Proof/Machine/Registers.lean ====
section
/-! DEFINITION. Reading the registers of BAR0 (R459 to R466): each block's words at their offsets, who may see them (R462,
R464), the clearing of RC fields (R463) and the capture of _HI halves (R461). -/

namespace Sys2Proof.Machine

/-- A word of a 64-bit value: its low or its high half. -/
def halfOf (v : W64) (hi : Bool) : Nat := if hi then v.toNat / 2 ^ 32 else v.toNat % 2 ^ 32

/-- A register word from its fields, as a number. -/
def packN (fields : List (Nat × Nat)) : Nat := (pack fields).toNat

/-! ## The device's own blocks -/

/-- The Parameter Block (R466). -/
def params : List Nat := [1, 19, 4, 16, 1, 16, 16, 32, 36, 16, 48, 2048, 4096, 2, 160, 32, 65536, 2097152, 25]

/-- KPR_BEAT's STATE (R335). -/
def kprCode (k : KprState) : Nat := match k with | .bootRom => 0 | .running => 1 | .restarting => 2 | .halted => 3

/-- A home slot is being rebuilt at a Shed whose island runs (GLB_HOME_MAP.MOVING). -/
def rebuilding (s : State) : Bool := s.glb.moving.any fun n => islRunning s (shcOf (homeMap s n))

/-- The global block (R467, R335, R466). -/
def globReg (s : State) (o : Nat) : Nat :=
  let g := s.glb
  match o with
  | 0x0 => Config.glbId.toNat
  | 0x4 => packN [(0, g.svc.toNat), (3, g.bootSrc.toNat), (5, bitNat g.hostPrimary), (6, bitNat (alertLow s))]
  | 0x8 => g.cause.toNat
  | 0xC => packN [(0, bitNat g.warm), (1, bitNat g.shedRst), (2, g.shedSel.val), (4, bitNat g.refused)]
  | 0x10 => packN [(0, g.homeMap.toNat), (8, bitNat (rebuilding s))]
  | 0x100 => packN [(0, s.kpr.count.toNat), (24, kprCode s.kpr.state)]
  | _ => if 0x200 ≤ o then params.getD ((o - 0x200) / 4) 0 else 0

/-- ISL_STAT (R470). -/
def islReg (i : Island) : Nat := packN [(0, islCode i.state), (2, bitNat i.pll), (3, bitNat i.refAlt), (4, bitNat i.railOk)]

/-- Power, islands and brownout (R470). -/
def powerReg (s : State) (o : Nat) : Nat :=
  let p := s.power
  match o with
  | 0x0 => p.tj.toNat
  | 0x4 => p.avg.toNat
  | 0x10 => packN [(0, bitNat p.aonLow), (1, bitNat p.nvLow), (2, bitNat p.holdoff)]
  | 0x14 => p.brnCnt.toNat
  | 0x18 => p.brnEvt.toNat
  | 0x20 => p.islEvt.toNat
  | _ => if 0x100 ≤ o ∧ o < 0x100 + 4 * 25 then islReg (island s (Fin.ofNat 25 ((o - 0x100) / 4))) else 0

/-- Security status (chapter 12). -/
def secReg (s : State) (o : Nat) : Nat :=
  let c := s.sec
  let pens (f : PenState → Bool) : Nat := (s.pens.filter fun p => f p.2.state).length
  match o with
  | 0x0 => packN [(0, bitNat c.verified), (1, bitNat s.fuses.jtagLock), (2, bitNat c.recovery)]
  | 0x4 => packN [(0, s.fuses.minSvn), (8, s.jnl.runSvn.toNat)]
  | 0x8 => packN [(0, c.keys.length), (16, c.caks.length), (23, bitNat c.ideA.isSome), (24, bitNat c.ideB.isSome)]
  | 0xC => packN [(0, pens (· == .active)), (13, pens fun p => p == .closing || p == .quarantine)]
  | 0x10 => c.authFail.toNat
  | 0x14 => c.penDrop.toNat
  | 0x18 => c.discard.toNat
  | 0x1C => c.evt.toNat
  | _ => if 0x20 ≤ o ∧ o < 0x30 then leAt (bytesOf Config.deviceId) (o - 0x20) 4 else 0

/-- The journal, image and input block (chapter 15). USED_KIB's rounding is not stated, so an inexact count is rounded by a
free value. -/
def jnlReg (s : State) (fr o : Nat) : Nat :=
  let j := s.jnl
  let h := activeHalf s
  match o with
  | 0x0 =>
    let used := if j.mounted then (halfUsed h + (if fr % 2 = 0 then 0 else 1023)) / 1024 else 0
    packN [(0, bitNat j.mounted), (1, bitNat j.active), (2, bitNat j.nvLock), (3, bitNat j.compacting), (4, bitNat j.repair), (8, used)]
  | 0x4 => j.gen.toNat
  | 0x8 => if j.mounted then h.gen.toNat else 0
  | 0xC => if j.mounted then liveBytes h else 0
  | 0x10 => j.evt.toNat
  | 0x14 => j.appendCnt.toNat
  | 0x20 => packN [(0, j.fwiImage.toNat), (2, bitNat j.fwiOwner)]
  | 0x24 => j.staged
  | 0x200 => s.infEvt.toNat
  | _ =>
    if 0x100 ≤ o ∧ o < 0x100 + 4 * 38 then
      let q := input s (Fin.ofNat 38 ((o - 0x100) / 4))
      packN [(0, bitNat q.level), (1, match q.state with | .normal => 0 | .chatter => 1 | .stuck => 2), (8, q.edges.toNat)]
    else 0

/-- DMK_STAT.STATE. -/
def dmkState (d : Daymark) : Nat := if d.full then 2 else if d.frozen then 3 else if d.en then 0 else 1

/-- The triggers that are defined and armed, as DMK_TRIG_ARMED shows them. -/
def trigArmed (d : Daymark) : Nat := (d.triggers.map fun t => if t.2.armed then 2 ^ t.1.val else 0).sum

/-- The function is PF0 of a port; none: Keeper firmware, which sees both windows. -/
def seesWindow (f : Option FnIx) (pf : Nat) : Bool := match f with | some g => g.val == pf | none => true

/-- The Daymark block (chapter 13): the window of the other port reads zero. -/
def dmkReg (s : State) (f : Option FnIx) (o : Nat) : Nat :=
  let d := s.dmk
  let win (page : BitVec 4) (at_ : Nat) : Nat := leNat (readBytes d.buf (page.toNat * 0x40000 + at_) 4)
  match o with
  | 0x0 => packN [(0, bitNat d.en), (1, bitNat d.bare)]
  | 0x4 => packN [(0, dmkState d), (16, d.gen.toNat)]
  | 0x8 => d.writeSeq.toNat
  | 0xC => d.writePtr
  | 0x10 => d.lost.toNat
  | 0x14 => trigArmed d
  | 0x18 => d.fired.toNat
  | 0x1C => d.pageA.toNat
  | 0x20 => d.pageB.toNat
  | 0x100 => ijnCode s.ijn.state
  | 0x104 => (if s.ijn.state = .recording ∨ s.ijn.state = .full then s.ijn.records else s.ijn.replayed).toNat
  | 0x108 => s.ijn.bytes.length % 2 ^ 32
  | 0x10C => s.ijn.bytes.length / 2 ^ 32
  | _ =>
    if 0x80000 ≤ o ∧ o < 0xC0000 then (if seesWindow f 0 then win d.pageA (o - 0x80000) else 0)
    else if 0xC0000 ≤ o ∧ o < 0x100000 then (if seesWindow f 64 then win d.pageB (o - 0xC0000) else 0)
    else 0

/-! ## The blocks of a Shed (R465) -/

/-- SHD_* (R471). -/
def shdReg (s : State) (sh : ShedIx) (o : Nat) : Nat :=
  match o with
  | 0x0 => sh.val
  | 0x4 => bitNat (shd s sh).dispatch
  | 0x8 => packN [(0, queued s sh), (11, bitNat (islRunning s (shcOf sh) && s.glb.moving.any fun n => homeMap s n == sh))]
  | 0xC => bitNat (shd s sh).queueFull
  | _ => 0

/-- PRT_*. The penalty has decayed since it was computed last by a time that a read does not name: a free value not above
it. -/
def prtReg (s : State) (p : PortIx) (fr o : Nat) : Nat :=
  let q := port s p
  match o with
  | 0x0 => packN [(0, q.width.toNat), (2, q.auth.toNat), (4, bitNat q.macsec), (5, bitNat q.xpn), (6, bitNat q.llrOff)]
  | 0x4 => packN [(0, q.link.toNat), (2, bitNat (isMember s p)), (3, bitNat q.llr), (4, bitNat q.suppressed), (5, q.partner.toNat)]
  | 0x8 => packN [(0, q.node.toNat), (16, q.role.toNat)]
  | 0xC => fr % (q.penalty.toNat + 1)
  | 0x10 => q.retryCnt.toNat
  | 0x14 => q.lostCw.toNat
  | 0x18 => q.fecSym.toNat
  | 0x1C => q.evt.toNat
  | 0x20 => q.mka.toNat
  | 0x24 => q.replayWin.toNat
  | _ => 0

/-- The STATE of a unit's block: Off, Idle, Busy or Running, Fenced. -/
def unitState (s : State) (sh : ShedIx) (k : UnitKind) (u : UnitIx) : Nat :=
  match (unit s sh k u).st with
  | .off => 0
  | .fenced => 3
  | _ => if unitIdle s sh k u then 1 else 2

/-- ENGAGED and REPLACES of a spare's block. -/
def engagedBits (n : Unit) (u : UnitIx) : List (Nat × Nat) :=
  if u = spareIx ∧ n.st = .spareEngaged then [(2, 1), (8, ((n.link.map (·.val)).getD 0) % 16)] else []

/-- A spare's registers read as zero until it is engaged (R10). -/
def hiddenSpare (n : Unit) (u : UnitIx) : Bool := u == spareIx && !n.engaged

/-- YRD_*. How many cycles YRD_BUBBLE_CNT has counted is free once a load has waited for the expander (R166). -/
def yrdReg (s : State) (y : YardRef) (fr o : Nat) : Nat :=
  let n := unit s y.shed .yard y.yard
  let d := yard s y
  if hiddenSpare n y.yard then 0
  else match o with
  | 0x0 => packN ([(0, unitState s y.shed .yard y.yard), (12, (d.task.map (·.pen.toNat)).getD 0)] ++ engagedBits n y.yard)
  | 0x4 => packN [(0, bitNat n.en), (1, bitNat n.fence), (2, bitNat d.testing)]
  | 0x8 => (d.task.map (·.id.toNat)).getD 0
  | 0xC => n.cnt0.toNat
  | 0x10 => if n.cnt1 = 0 then 0 else fr % 2 ^ 32
  | 0x14 => n.cnt2.toNat
  | 0x18 => n.cnt3.toNat
  | 0x1C => packN [(0, d.faultStatus.toNat), (16, d.faultCause.toNat)]
  | 0x20 => halfOf d.faultPc false
  | 0x24 => halfOf d.faultPc true
  | 0x28 => n.evt.toNat
  | 0x2C => packN [(0, d.testResult.toNat), (16, d.testRuns.toNat)]
  | _ => 0

/-- LNT_*. -/
def lntReg (s : State) (l : StackIx) (o : Nat) : Nat :=
  let q := lantern s l
  if 0x100 ≤ o ∧ o < 0x180 then (laneSlice q (Fin.ofNat 32 ((o - 0x100) / 4))).val
  else if 0x200 ≤ o ∧ o < 0x290 then
    let i := slice q (Fin.ofNat 36 ((o - 0x200) / 4))
    packN [(0, i.state.toNat), (3, i.lambda.toNat), (8, i.heater.toNat), (16, i.eye.toNat)]
  else match o with
  | 0x0 => packN [(0, bitNat q.input), (1, bitNat q.elsIgnored), (2, sparesFree q)]
  | 0x8 => q.laserA.toNat
  | 0xC => q.laserB.toNat
  | 0x10 => q.evt.toNat
  | _ => 0

/-- NTS_*. -/
def ntsReg (s : State) (k : StackIx) (o : Nat) : Nat :=
  let q := stk s k
  let fenced := islFenced s (ntmOf k)
  match o with
  | 0x0 => packN [(0, q.state.toNat), (2, bitNat (q.state == 3 || fenced)), (3, bitNat (resLow q)), (4, bitNat (resEmpty q)),
                  (5, bitNat (ctlSingle s (decide (8 ≤ k.val)))), (6, bitNat (fenced && q.state != 3))]
  | 0x4 => packN [(0, bitNat q.retireEn), (1, bitNat q.patrolEn), (2, bitNat q.forceFail)]
  | 0x8 => q.ce.toNat
  | 0xC => q.ue.toNat
  | 0x10 => q.retired
  | 0x14 => q.ceThr.toNat
  | 0x18 => q.evt.toNat
  | _ => 0

/-- The chunks open on a Reduce Unit. -/
def openChunks (s : State) (sh : ShedIx) (u : UnitIx) : Nat :=
  (s.groups.map fun g => (g.2.opened.filter fun c => decide (c.shed = sh ∧ c.unit = u)).length).sum

/-- RDU_*. -/
def rduReg (s : State) (sh : ShedIx) (u : UnitIx) (o : Nat) : Nat :=
  let n := unit s sh .reduce u
  if hiddenSpare n u then 0
  else match o with
  | 0x0 => packN ([(0, unitState s sh .reduce u)] ++ engagedBits n u)
  | 0x4 => packN [(0, bitNat n.en), (1, bitNat n.fence)]
  | 0x8 => packN [(0, usedKib s sh u), (16, openChunks s sh u)]
  | 0xC => n.cnt0.toNat
  | 0x10 => n.cnt1.toNat
  | 0x14 => n.cnt2.toNat
  | 0x18 => n.cnt3.toNat
  | 0x1C => n.evt.toNat
  | _ => 0

/-- GTU_* and FLU_*. -/
def gfuReg (s : State) (sh : ShedIx) (k : UnitKind) (u : UnitIx) (o : Nat) : Nat :=
  let n := unit s sh k u
  if hiddenSpare n u then 0
  else match o with
  | 0x0 => packN ([(0, unitState s sh k u), (12, ((unitReqs s sh k u).filter (·.running)).length)] ++ engagedBits n u)
  | 0x4 => packN [(0, bitNat n.en), (1, bitNat n.fence)]
  | 0x8 => n.cnt0.toNat
  | 0xC => n.cnt1.toNat
  | 0x10 => n.cnt2.toNat
  | 0x14 => n.cnt3.toNat
  | 0x18 => n.evt.toNat
  | _ => 0

/-- DMA_CH_STAT.STATE. -/
def dstCode (t : DState) : Nat := match t with | .idle => 0 | .running => 1 | .waiting => 2 | .stopped => 3 | .aborting => 4

/-- DMA_CH_*. -/
def dchReg (s : State) (c : DmaIx) (o : Nat) : Nat :=
  let d := dch s c
  match o with
  | 0x0 => packN [(0, dstCode d.st), (3, bitNat d.cmpMiss), (4, d.prio.toNat), (8, if d.st = .idle then 0 else d.pen.toNat)]
  | 0x4 => d.pc % 256
  | 0x8 => d.doneBytes
  | 0xC => packN ((d.loops.take 4).mapIdx fun i l => (8 * i, l.2 % 256))
  | 0x10 => d.cmpOff
  | 0x14 => d.endStatus.toNat
  | 0x18 => d.byteCnt.toNat
  | _ => 0

/-- DMA_ENG_*. -/
def engReg (s : State) (sh : ShedIx) (o : Nat) : Nat :=
  let e := eng s sh
  match o with
  | 0x0 =>
    let act := ((engChans sh).filter fun c => (dch s c).st == .running || (dch s c).st == .waiting).length
    packN [(0, e.st.toNat), (2, bitNat e.busErr), (8, act)]
  | 0x4 => bitNat e.en
  | 0x8 => packN [(0, e.cause.toNat), (4, e.space.toNat)]
  | 0xC => halfOf e.addr false
  | 0x10 => halfOf e.addr true
  | 0x14 => e.evt.toNat
  | 0x18 => halfOf e.flags false
  | 0x1C => halfOf e.flags true
  | 0x20 => e.beats.toNat
  | _ => 0

/-- MTB_*. -/
def mtbReg (s : State) (sh : ShedIx) (o : Nat) : Nat :=
  let b := bank s sh
  match o with
  | 0x0 => packN [(0, bitNat b.mode), (1, b.gap.toNat)]
  | 0x4 => packN [(0, b.rows.length), (17, b.spared.length), (29, bitNat (decide (2048 ≤ b.spared.length)))]
  | 0x8 => b.srch.toNat
  | 0xC => b.hit.toNat
  | 0x10 => b.chk.toNat
  | 0x14 => b.evt.toNat
  | _ =>
    if 0x100 ≤ o ∧ o < 0x140 then
      let p : Fin 16 := Fin.ofNat 16 ((o - 0x100) / 4)
      packN [(0, (mpart s p).rows16), (16, partBase s p / 16), (28, (mpart s p).kind.toNat)]
    else 0

/-- SCH_P* of a port. -/
def schPort (s : State) (p : PortIx) (o : Nat) : Nat :=
  let q := portQ s p
  let samp (x : Sampler) : Nat := packN [(0, x.n.toNat), (24, x.dest.toNat)]
  match o with
  | 0x0 => packN [(0, q.ctMask.toNat), (8, q.pfcMask.toNat), (16, q.strict.toNat), (24, q.defClass.toNat), (27, bitNat q.bridge)]
  | 0x4 => q.maxFrame.toNat
  | 0x8 => samp q.rx
  | 0xC => samp q.tx
  | 0x10 => packN [(0, q.paused.toNat), (8, q.xoff.toNat), (16, q.wdTrip.toNat)]
  | _ => 0

/-- LFT_*, SCH_* and VOQ_*. -/
def schReg (s : State) (sh : ShedIx) (o : Nat) : Nat :=
  let c := sched s sh
  let prt (k : Nat) : PortIx := Fin.ofNat 512 (128 * sh.val + k)
  if 0x10000 ≤ o ∧ o < 0x20000 then
    let q := voq s sh (Fin.ofNat 4096 ((o - 0x10000) / 16))
    match o % 16 with
    | 0 => voqDepth q
    | 4 => q.depthMax.toNat
    | 8 => q.delayMax.toNat
    | _ => q.drop.toNat
  else if 0x20000 ≤ o ∧ o < 0x21000 then schPort s (prt ((o - 0x20000) / 0x20)) (o % 0x20)
  else if 0x30000 ≤ o ∧ o < 0x31000 then
    let i := (o - 0x30000) / 4
    (aGetD (portQ s (prt (i / 8))).quant (Fin.ofNat 8 i) 9216).toNat
  else match o with
  | 0x0 => packN [(0, c.voqMib.toNat), (8, c.alpha.toNat), (16, c.voqMax.toNat)]
  | 0x4 => freeCells s sh
  | 0x8 => c.ecnThr.toNat % 2 ^ 16
  | 0xC => packN [(0, c.xoff.toNat % 2 ^ 16), (16, c.xon.toNat)]
  | 0x10 => packN [(0, c.headroom.toNat % 2 ^ 16), (16, c.watchdog.toNat)]
  | 0x14 => c.evt.toNat
  | 0x20 => c.bufDrop.toNat
  | 0x24 => c.red.toNat
  | 0x28 => c.stomp.toNat
  | 0x2C => c.sampleDrop.toNat
  | _ => 0

/-- COH_*. -/
def cohReg (s : State) (sh : ShedIx) (o : Nat) : Nat :=
  let h := aGetD s.coh.homes sh {}
  match o with
  | 0x0 => h.timeoutUs.toNat
  | 0x4 => packN [(0, h.lines.length), (17, bitNat (s.coh.rebuild.any fun r => homeMap s r.1 == sh))]
  | 0x8 => h.reqCnt.toNat
  | 0xC => h.snoopCnt.toNat
  | 0x10 => h.fwdCnt.toNat
  | 0x14 => h.timeoutCnt.toNat
  | 0x18 => h.poisonCnt.toNat
  | 0x1C => h.tagCnt.toNat
  | 0x20 => halfOf h.poisonAddr false
  | 0x24 => halfOf h.poisonAddr true
  | 0x28 => h.evt.toNat
  | _ => 0

/-- SHP_*, GTE_* and MTR_*. A shaper's credit moves with a time that a read does not name: a free value while it is enabled. -/
def shpReg (s : State) (sh : ShedIx) (fr o : Nat) : Nat :=
  let prt (k : Nat) : PortIx := Fin.ofNat 512 (128 * sh.val + k)
  if o < 0x2000 then
    let h := aGetD s.sw.shapers (prt (o / 64), Fin.ofNat 8 (o / 8)) {}
    if o % 8 = 0 then packN [(0, h.idle.toNat), (31, bitNat h.en)] else if h.en then fr else 0
  else if 0x10000 ≤ o ∧ o < 0x11000 then
    let g := gate s (prt ((o - 0x10000) / 0x20))
    match o % 0x20 with
    | 0x0 => packN [(0, bitNat g.en), (1, bitNat g.active), (2, bitNat g.pending), (8, g.len0.toNat), (16, g.len1.toNat)]
    | 0x4 => halfOf g.base false
    | 0x8 => halfOf g.base true
    | 0xC => halfOf g.off false
    | 0x10 => halfOf g.off true
    | _ => 0
  else if 0x20000 ≤ o ∧ o < 0x40000 then
    let r := (o - 0x20000) % 0x400
    let e := gateEntry (gate s (prt ((o - 0x20000) / 0x400))) (decide (0x200 ≤ r)) (r % 0x200 / 8)
    if o % 8 = 0 then e.1.toNat else e.2.toNat
  else if 0x100000 ≤ o ∧ o < 0x180000 then
    let m := aGetD s.sw.meters (sh, Fin.ofNat 16384 ((o - 0x100000) / 0x20)) {}
    match o % 0x20 with
    | 0x0 => packN [(0, m.port.toNat), (7, m.cls.toNat), (10, m.pen.toNat), (22, bitNat m.anyPen), (23, bitNat m.en),
                    (24, bitNat m.aware), (25, bitNat m.redPass)]
    | 0x4 => m.cir.toNat
    | 0x8 => m.cbs.toNat
    | 0xC => m.pir.toNat
    | 0x10 => m.pbs.toNat
    | 0x14 => m.yel.toNat
    | 0x18 => m.redCnt.toNat
    | _ => 0
  else 0

/-- Where an offset within a Shed's 8 MiB lies (R465). -/
inductive ShedBlock where
  | ctl (o : Nat)
  | prt (p : PortIx) (o : Nat)
  | yrd (u : UnitIx) (o : Nat)
  | lnt (l : StackIx) (o : Nat)
  | nts (k : StackIx) (o : Nat)
  | rdu (u : UnitIx) (o : Nat)
  | gfu (k : UnitKind) (u : UnitIx) (o : Nat)
  | dch (c : DmaIx) (o : Nat)
  | eng (o : Nat)
  | mtb (o : Nat)
  | sch (o : Nat)
  | coh (o : Nat)
  | shp (o : Nat)
  | none
deriving DecidableEq, Repr

/-- The block of an offset (R465). The strides put the spare Reduce Unit's block at the base of the Gather Units and the spare
Gather Unit's at that of the Filter Units; the offset belongs to the array whose base it is (DESIGN CHOICE). -/
def shedBlock (sh : ShedIx) (o : Nat) : ShedBlock :=
  let st (n : Nat) : StackIx := Fin.ofNat 16 (4 * sh.val + n)
  let u17 (n : Nat) : UnitIx := Fin.ofNat 17 n
  if o < 0x10000 then .ctl o
  else if o < 0x90000 then .prt (Fin.ofNat 512 (128 * sh.val + (o - 0x10000) / 0x1000)) (o % 0x1000)
  else if o < 0x100000 then .none
  else if o < 0x210000 then .yrd (u17 ((o - 0x100000) / 0x10000)) (o % 0x10000)
  else if o < 0x280000 then .none
  else if o < 0x2C0000 then .lnt (st ((o - 0x280000) / 0x10000)) (o % 0x10000)
  else if o < 0x300000 then .nts (st ((o - 0x2C0000) / 0x10000)) (o % 0x10000)
  else if o < 0x310000 then .rdu (u17 ((o - 0x300000) / 0x1000)) (o % 0x1000)
  else if o < 0x320000 then .gfu .gather (u17 ((o - 0x310000) / 0x1000)) (o % 0x1000)
  else if o < 0x331000 then .gfu .filter (u17 ((o - 0x320000) / 0x1000)) (o % 0x1000)
  else if o < 0x340000 then .none
  else if o < 0x350000 then .dch (Fin.ofNat 128 (32 * sh.val + (o - 0x340000) / 0x800)) (o % 0x800)
  else if o < 0x360000 then .eng (o - 0x350000)
  else if o < 0x380000 then .none
  else if o < 0x400000 then .mtb (o - 0x380000)
  else if o < 0x500000 then .sch (o - 0x400000)
  else if o < 0x600000 then .coh (o - 0x500000)
  else .shp (o - 0x600000)

/-! ## Reading a word (R462 to R464) -/

/-- The island that holds a block of a Shed (R17). -/
def blockIsland (sh : ShedIx) : ShedBlock → IslandIx
  | .prt _ _ => lniOf sh
  | .lnt _ _ => lniOf sh
  | .yrd _ _ => yrdOf sh
  | _ => shcOf sh

/-- The word of a Shed's block. -/
def shedWord (s : State) (sh : ShedIx) (fr : Nat) : ShedBlock → Nat
  | .ctl o => shdReg s sh o
  | .prt p o => prtReg s p fr o
  | .yrd u o => yrdReg s ⟨sh, u⟩ fr o
  | .lnt l o => lntReg s l o
  | .nts k o => ntsReg s k o
  | .rdu u o => rduReg s sh u o
  | .gfu k u o => gfuReg s sh k u o
  | .dch c o => dchReg s c o
  | .eng o => engReg s sh o
  | .mtb o => (shown s (shedBase sh + 0x380000 + o) (BitVec.ofNat 32 (mtbReg s sh o))).toNat
  | .sch o => schReg s sh o
  | .coh o => cohReg s sh o
  | .shp o => shpReg s sh fr o
  | .none => 0

/-- A function's own aperture counters and MSI-X structures. -/
def fnReg (s : State) (f : FnIx) (off : Nat) : Nat :=
  let g := fnSt s f
  if off < 0x3810000 then
    let w : Fin 8192 := Fin.ofNat 8192 ((off - 0x3800000) / 8)
    if off % 8 = 0 then (aprLoWord s f w).toNat else (aGetD g.apr w {}).ext.toNat % 2 ^ 32
  else if off = 0x3810000 then g.errCnt.toNat
  else if off = 0x3810004 then bitNat g.aprEvt
  else if 0x3F00000 ≤ off ∧ off < 0x3F00400 then
    let e := aGetD g.msix (Fin.ofNat 64 ((off - 0x3F00000) / 16)) {}
    match off % 16 with
    | 0 => halfOf e.addr false
    | 4 => halfOf e.addr true
    | 8 => e.data.toNat
    | _ => bitNat e.masked
  else if off = 0x3F80000 ∨ off = 0x3F80004 then
    let lo := (off - 0x3F80000) * 8
    ((g.msix.filter fun e => e.2.pending && decide (lo ≤ e.1.val ∧ e.1.val < lo + 32)).map fun e => 2 ^ (e.1.val - lo)).sum
  else 0

/-- The ranges of R462, by BAR0 offset. -/
inductive RegRange where
  | glob | power | sec | jnl | dmk
  | mbx (c : ChanIx)
  | shed (sh : ShedIx)
  | fn
  | none
deriving DecidableEq, Repr

/-- The range of an offset (R459). -/
def regRange (off : Nat) : RegRange :=
  if off < 0x10000 then .glob
  else if off < 0x20000 then .power
  else if off < 0x30000 then .sec
  else if off < 0x40000 then .jnl
  else if off < 0x100000 then .none
  else if off < 0x200000 then .dmk
  else if off < 0x400000 then .none
  else if off < 0x680000 then .mbx (Fin.ofNat 160 ((off - 0x400000) / 0x4000))
  else if off < 0x1000000 then .none
  else if off < 0x3000000 then .shed (shedOf ((off - 0x1000000) / 0x800000))
  else if off < 0x3800000 then .none
  else if off < 0x3820000 then .fn
  else if off < 0x3F00000 then .none
  else .fn

/-- What board management may read (R464). -/
def boardSees (off : Nat) : Bool :=
  off == 0 || off == 4 || off == 8 || off == 0x10000 || off == 0x10004 || decide (0x10100 ≤ off ∧ off < 0x10164)

/-- A caller sees an offset (R462, R464). -/
def sees (c : Caller) (off : Nat) : Bool :=
  match c with
  | .board => boardSees off
  | .keeper => match regRange off with | .fn => false | .none => false | _ => true
  | .fn f => match regRange off with
    | .glob => true
    | .fn => true
    | .mbx m => m.val == f.val
    | .none => false
    | _ => f.val % 64 == 0

/-- The island whose crossing an access passes: that of the block. -/
def regIsland (c : Caller) (off : Nat) : IslandIx :=
  match regRange off with
  | .glob => if off = 0x100 then 1 else 0
  | .sec => 2
  | .dmk => 1
  | .mbx _ => 1
  | .shed sh => blockIsland sh (shedBlock sh ((off - 0x1000000) % 0x800000))
  | .fn => match c with | .fn f => if f.val < 64 then 3 else 4 | _ => 0
  | _ => 0

/-- The function of a caller. -/
def callerFn (c : Caller) : Option FnIx := match c with | .fn f => some f | _ => none

/-- The word at an aligned offset that a caller sees; `fr` stands for a value that the spec leaves open. -/
def regWord (s : State) (c : Caller) (fr off : Nat) : Nat :=
  match regRange off with
  | .glob => (shown s off (BitVec.ofNat 32 (globReg s off))).toNat
  | .power => powerReg s (off - 0x10000)
  | .sec => (shown s off (BitVec.ofNat 32 (secReg s (off - 0x20000)))).toNat
  | .jnl => jnlReg s fr (off - 0x30000)
  | .dmk => dmkReg s (callerFn c) (off - 0x100000)
  | .mbx m => (windowWord s m ((off - 0x400000) % 0x4000)).toNat
  | .shed sh => shedWord s sh fr (shedBlock sh ((off - 0x1000000) % 0x800000))
  | .fn => match callerFn c with | some f => fnReg s f off | none => 0
  | .none => 0

/-- How an access ends at its crossing (R18, R20). -/
inductive Crossing where
  /-- It reaches the register. -/
  | reached
  /-- The island is Fenced: an error response. -/
  | failed
  /-- A Shed's island is Off or Starting: it accepts nothing, and no rule says what the reader gets. -/
  | closed
deriving DecidableEq, Repr

/-- The crossing to an offset's block. -/
def crossing (s : State) (c : Caller) (off : Nat) : Crossing :=
  let i := regIsland c off
  if islFenced s i then .failed
  else if 5 ≤ i.val ∧ islRunning s i = false then .closed
  else .reached

/-- The value of an aligned word for a caller, zero where the caller does not see it (R460); an unreachable register's is
open. -/
def readWord (s : State) (c : Caller) (fr off : Nat) : Nat :=
  if sees c off = false then 0
  else match crossing s c off with
    | .closed => fr
    | _ => regWord s c fr off

/-! ## RC fields (R463) -/

/-- The RC fields of a Shed's block are cleared. -/
def clearShed (sh : ShedIx) (b : ShedBlock) (s : State) : State :=
  match b with
  | .prt p o =>
    if o = 0x10 then modPort p (fun q => { q with retryCnt := 0 }) s
    else if o = 0x14 then modPort p (fun q => { q with lostCw := 0 }) s
    else if o = 0x18 then modPort p (fun q => { q with fecSym := 0 }) s
    else s
  | .yrd u o =>
    if hiddenSpare (unit s sh .yard u) u then s
    else if o = 0xC then modUnit sh .yard u (fun n => { n with cnt0 := 0 }) s
    else if o = 0x10 then modUnit sh .yard u (fun n => { n with cnt1 := 0 }) s
    else if o = 0x14 then modUnit sh .yard u (fun n => { n with cnt2 := 0 }) s
    else if o = 0x18 then modUnit sh .yard u (fun n => { n with cnt3 := 0 }) s
    else s
  | .nts k o =>
    if o = 0x8 then modStk k (fun q => { q with ce := 0 }) s
    else if o = 0xC then modStk k (fun q => { q with ue := 0 }) s
    else s
  | .rdu u o =>
    if hiddenSpare (unit s sh .reduce u) u then s
    else if o = 0xC then modUnit sh .reduce u (fun n => { n with cnt0 := 0 }) s
    else if o = 0x10 then modUnit sh .reduce u (fun n => { n with cnt1 := 0 }) s
    else if o = 0x14 then modUnit sh .reduce u (fun n => { n with cnt2 := 0 }) s
    else if o = 0x18 then modUnit sh .reduce u (fun n => { n with cnt3 := 0 }) s
    else s
  | .gfu k u o =>
    if hiddenSpare (unit s sh k u) u then s
    else if o = 0x8 then modUnit sh k u (fun n => { n with cnt0 := 0 }) s
    else if o = 0xC then modUnit sh k u (fun n => { n with cnt1 := 0 }) s
    else if o = 0x10 then modUnit sh k u (fun n => { n with cnt2 := 0 }) s
    else if o = 0x14 then modUnit sh k u (fun n => { n with cnt3 := 0 }) s
    else s
  | .dch c o => if o = 0x18 then modDch c (fun d => { d with byteCnt := 0 }) s else s
  | .eng o => if o = 0x20 then modEng sh (fun e => { e with beats := 0 }) s else s
  | .mtb o =>
    if o = 0x8 then modBank sh (fun b => { b with srch := 0 }) s
    else if o = 0xC then modBank sh (fun b => { b with hit := 0 }) s
    else if o = 0x10 then modBank sh (fun b => { b with chk := 0 }) s
    else s
  | .sch o =>
    if 0x10000 ≤ o ∧ o < 0x20000 then
      let v : Fin 4096 := Fin.ofNat 4096 ((o - 0x10000) / 16)
      if o % 16 = 4 then modVoq sh v (fun q => { q with depthMax := 0 }) s
      else if o % 16 = 8 then modVoq sh v (fun q => { q with delayMax := 0 }) s
      else if o % 16 = 12 then modVoq sh v (fun q => { q with drop := 0 }) s
      else s
    else if o = 0x20 then modSched sh (fun q => { q with bufDrop := 0 }) s
    else if o = 0x24 then modSched sh (fun q => { q with red := 0 }) s
    else if o = 0x28 then modSched sh (fun q => { q with stomp := 0 }) s
    else if o = 0x2C then modSched sh (fun q => { q with sampleDrop := 0 }) s
    else s
  | .coh o =>
    if o = 0x8 then modHome sh (fun h => { h with reqCnt := 0 }) s
    else if o = 0xC then modHome sh (fun h => { h with snoopCnt := 0 }) s
    else if o = 0x10 then modHome sh (fun h => { h with fwdCnt := 0 }) s
    else if o = 0x14 then modHome sh (fun h => { h with timeoutCnt := 0 }) s
    else if o = 0x18 then modHome sh (fun h => { h with poisonCnt := 0 }) s
    else if o = 0x1C then modHome sh (fun h => { h with tagCnt := 0 }) s
    else s
  | .shp o =>
    if 0x100000 ≤ o ∧ o < 0x180000 then
      let ix : ShedIx × Fin 16384 := (sh, Fin.ofNat 16384 ((o - 0x100000) / 0x20))
      if o % 0x20 = 0x14 then { s with sw := { s.sw with meters := aAdjust s.sw.meters ix fun m => { m with yel := 0 } } }
      else if o % 0x20 = 0x18 then { s with sw := { s.sw with meters := aAdjust s.sw.meters ix fun m => { m with redCnt := 0 } } }
      else s
    else s
  | _ => s

/-- The RC field of a word is cleared, where the word has one. -/
def clearWord (c : Caller) (off : Nat) (s : State) : State :=
  match regRange off with
  | .power => if off = 0x10014 then { s with power := { s.power with brnCnt := 0 } } else s
  | .sec =>
    if off = 0x20010 then { s with sec := { s.sec with authFail := 0 } }
    else if off = 0x20014 then { s with sec := { s.sec with penDrop := 0 } }
    else if off = 0x20018 then { s with sec := { s.sec with discard := 0 } }
    else s
  | .jnl => if off = 0x30014 then { s with jnl := { s.jnl with appendCnt := 0 } } else s
  | .dmk => if off = 0x100010 then { s with dmk := { s.dmk with lost := 0 } } else s
  | .mbx m => windowClear m ((off - 0x400000) % 0x4000) 4 s
  | .shed sh => clearShed sh (shedBlock sh ((off - 0x1000000) % 0x800000)) s
  | .fn => match callerFn c with
    | some f => if off = 0x3810000 then modFn f (fun g => { g with errCnt := 0 }) s else s
    | none => s
  | _ => s

/-! ## A register read (R460, R461, R463, R464) -/

/-- The offset of the _LO register of a pair (R461). The aperture entries follow R427 instead. -/
def isLo (off : Nat) : Bool :=
  match regRange off with
  | .dmk => off == 0x100108
  | .shed sh => match shedBlock sh ((off - 0x1000000) % 0x800000) with
    | .yrd _ o => o == 0x20
    | .eng o => o == 0xC || o == 0x18
    | .coh o => o == 0x20
    | .shp o => decide (0x10000 ≤ o ∧ o < 0x11000) && (o % 0x20 == 4 || o % 0x20 == 0xC)
    | _ => false
  | _ => false

/-- A PCIe read of one word: its value and the state with its RC field cleared. Keeper reads and board management's leave it. -/
def takeWord (c : Caller) (fr off : Nat) (s : State) : Nat × State :=
  let v := readWord s c fr off
  match c with
  | .fn _ => (v, if sees c off ∧ crossing s c off = .reached then clearWord c off s else s)
  | _ => (v, s)

/-- A 4-byte read: of an _LO register it captures the _HI half for the function; of a _HI register it returns the captured
value, once (R461). -/
def takeWord4 (c : Caller) (fr off : Nat) (s : State) : Nat × State :=
  match c with
  | .fn f =>
    if isLo off then
      let hi : W32 := BitVec.ofNat 32 (readWord s c fr (off + 4))
      let (v, s) := takeWord c fr off s
      (v, modFn f (fun g => { g with hi := aSet g.hi (off + 4) hi }) s)
    else match aGet (fnSt s f).hi off with
      | some h => (h.toNat, modFn f (fun g => { g with hi := aErase g.hi off }) (takeWord c fr off s).2)
      | none => takeWord c fr off s
  | _ => takeWord c fr off s

/-- The bytes that a read returns (R460): whole words, bytes of a word, or zero for what R460 does not allow. -/
def takeBytes (c : Caller) (fr off size : Nat) (s : State) : List Byte × State :=
  if size = 8 then
    if off % 8 = 0 then
      let (lo, s) := takeWord c fr off s
      let (hi, s) := takeWord c fr (off + 4) s
      (toLe 4 lo ++ toLe 4 hi, s)
    else (toLe 8 0, s)
  else if (size = 1 ∨ size = 2 ∨ size = 4) ∧ off % 4 + size ≤ 4 then
    let (v, s) := if size = 4 then takeWord4 c fr off s else takeWord c fr (off / 4 * 4) s
    (((toLe 4 v).drop (off % 4)).take size, s)
  else (toLe size 0, s)

/-- A read meets a Fenced island where its register can be seen. -/
def readFails (s : State) (c : Caller) (off : Nat) : Bool := sees c (off / 4 * 4) && crossing s c (off / 4 * 4) == .failed

/-- A register read by a caller: a PCIe completion, or the value to board management, whose reads are of 4 B only, or to the
Keeper. A Fenced island answers with an error (R20): a Completer Abort on PCIe, nothing to the others. -/
def regRead (c : Caller) (off size : Nat) (s : State) : State :=
  if readFails s c off then
    match c with
    | .fn f => emit (.completion f 4 []) s
    | _ => s
  else
    let (fr, s) := takeFree 32 s
    let (bs, s) := takeBytes c fr.toNat off size s
    match c with
    | .fn f => emit (.completion f 0 bs) s
    | .board => emit (.regRead (if size = 4 then fieldLe 64 bs 0 4 else 0)) s
    | .keeper => emit (.regRead (fieldLe 64 bs 0 8)) s

/-- REGISTER_RC_READ. -/
def execRegisterRcRead (c : Caller) (offset : BitVec 26) (size : Nat) (s : State) : Res := .next (regRead c offset.toNat size s)

/-- LO_REGISTER_READ. -/
def execLoRegisterRead (c : Caller) (offset : BitVec 26) (size : Nat) (s : State) : Res := .next (regRead c offset.toNat size s)

end Sys2Proof.Machine
end

