-- ==== Sys2Proof/Machine/RegWrite.lean ====
section
/-! DEFINITION. Writing the registers of BAR0 (R6 to R9, R460 to R462, R467 to R469): the RW, W1C and W1S fields that a
function may write, and the KW fields that Keeper firmware writes. -/

namespace Sys2Proof.Machine

/-- W1C: the ones of a write clear. -/
def w1c {w : Nat} (old : BitVec w) (v : W32) : BitVec w := old &&& ~~~(v.setWidth w)

/-- A half of a 64-bit register replaced. -/
def putHalf (old : W64) (hi : Bool) (v : W32) : W64 :=
  if hi then BitVec.ofNat 64 (old.toNat % 2 ^ 32 + v.toNat * 2 ^ 32) else BitVec.ofNat 64 (old.toNat / 2 ^ 32 * 2 ^ 32 + v.toNat)

/-! ## The global block (R467 to R469) -/

/-- A write of GLB_CAUSE: a bit whose condition still holds is set again at once (R468). -/
def writeCause (v : W32) (s : State) : State :=
  let s := { s with glb := { s.glb with cause := w1c s.glb.cause v } }
  let s := if v.getLsbD 1 ∧ s.kpr.state = .halted then setCause 1 s else s
  if v.getLsbD 4 ∧ s.glb.boot = .held then setCause 4 s else s

/-- A write of GLB_RESET by PF0: REFUSED is W1C; WARM asks for a device warm reset and drops a Shed request; else SHED_RST
asks for the reset of the Shed in bits 3:2 (R431, R469). -/
def writeReset (v : W32) (s : State) : State :=
  let s := if v.getLsbD 4 then { s with glb := { s.glb with refused := false } } else s
  if v.getLsbD 0 then { s with glb := { s.glb with warm := true, shedRst := false } }
  else if v.getLsbD 1 then askShedReset (shedOf (bitsOf v.toNat 3 2)) s
  else s

/-- KPR_BEAT's STATE from its code. -/
def kprOf (n : Nat) : Option KprState :=
  match n with | 0 => some .bootRom | 1 => some .running | 2 => some .restarting | 3 => some .halted | _ => none

/-- Host writes of the global block, and Keeper firmware's. -/
def writeGlob (c : Caller) (off : Nat) (v : W32) (s : State) : State :=
  match off with
  | 0x8 => if isPf0 c then writeCause v s else s
  | 0xC =>
    if isPf0Fn c then writeReset v s
    else if isKeeper c ∧ v.getLsbD 4 then { s with glb := { s.glb with refused := false } }
    else s
  | 0x10 =>
    if isKeeper c then
      let s := { s with glb := { s.glb with homeMap := v.setWidth 8 } }
      keeperShows off (BitVec.ofNat 32 (globReg s off)) v s
    else s
  | 0x100 =>
    if isKeeper c then
      { s with kpr := { s.kpr with count := v.setWidth 24, state := (kprOf (bitsOf v.toNat 26 24)).getD s.kpr.state } }
    else s
  | _ => s

/-! ## Power, security, journal, Daymark -/

/-- Events of the power block. -/
def writePower (off : Nat) (v : W32) (s : State) : State :=
  if off = 0x10018 then { s with power := { s.power with brnEvt := w1c s.power.brnEvt v } }
  else if off = 0x10020 then { s with power := { s.power with islEvt := w1c s.power.islEvt v } }
  else s

/-- SEC_EVT, and by the Keeper RUN of SEC_SVN, SEC_KEYS and SEC_PENS. -/
def writeSec (c : Caller) (off : Nat) (v : W32) (s : State) : State :=
  if off = 0x2001C then { s with sec := { s.sec with evt := w1c s.sec.evt v } }
  else if isKeeper c = false then s
  else if off = 0x20004 then { s with jnl := { s.jnl with runSvn := BitVec.ofNat 8 (bitsOf v.toNat 15 8) } }
  else if off = 0x20008 ∨ off = 0x2000C then keeperShows off (BitVec.ofNat 32 (secReg s (off - 0x20000))) v s
  else s

/-- JNL_EVT and INF_EVT. -/
def writeJnl (off : Nat) (v : W32) (s : State) : State :=
  if off = 0x30010 then { s with jnl := { s.jnl with evt := w1c s.jnl.evt v } }
  else if off = 0x30200 then { s with infEvt := w1c s.infEvt v }
  else s

/-- DMK_TRIG_FIRED, the page of a port's own window, and the Keeper's DMK_CTL and DMK_TRIG_ARMED. -/
def writeDmk (c : Caller) (off : Nat) (v : W32) (s : State) : State :=
  let d := s.dmk
  match off with
  | 0x100000 => if isKeeper c then { s with dmk := { d with en := v.getLsbD 0, bare := v.getLsbD 1 } } else s
  | 0x100014 =>
    if isKeeper c then { s with dmk := { d with triggers := d.triggers.map fun t => (t.1, { t.2 with armed := v.getLsbD t.1.val }) } } else s
  | 0x100018 => { s with dmk := { d with fired := w1c d.fired v } }
  | 0x10001C => if c = .fn 0 then { s with dmk := { d with pageA := v.setWidth 4 } } else s
  | 0x100020 => if c = .fn 64 then { s with dmk := { d with pageB := v.setWidth 4 } } else s
  | _ => s

/-! ## Mailbox windows (R324, R327) -/

/-- The Keeper's writes of a window's KW registers. -/
def keeperWindow (m : ChanIx) (o : Nat) (v : W32) (s : State) : State :=
  match o with
  | 0x0 =>
    let s := modChan m (fun q =>
      { q with pen := v.setWidth 12, bound := v.getLsbD 12, ringErr := v.getLsbD 13, throttled := v.getLsbD 14 }) s
    keeperShows (windowBase m) (chanTable s m 0) v s
  | 0x2C => keeperShows (windowBase m + 0x2C) (chanTable s m 0x2C) v s
  | 0x8 => modChan m (fun q => { q with dbInMask := v }) s
  | 0x18 => modChan m (fun q => { q with reqCons := v.setWidth 16 }) s
  | 0x1C => modChan m (fun q => { q with rspProd := v.setWidth 16 }) s
  | 0x24 => modChan m (fun q => { q with ntcProd := v }) s
  | 0x34 => if 128 ≤ m.val then modChan m (fun q => { q with peerNode := v.setWidth 16 }) s else s
  | _ => s

/-- A write in a mailbox window. A function's doorbell and index writes are journalled while recording (R391). A doorbell's
time is not named by the write: a free choice. -/
def writeMbx (c : Caller) (m : ChanIx) (off : Nat) (v : W32) (s : State) : State :=
  let o := (off - 0x400000) % 0x4000
  let (now, s) := takePick s
  let s := match c with
    | .fn _ => if o = 0x04 ∨ o = 0x14 ∨ o = 0x20 ∨ o = 0x28 then ijnAppend 2 m.val 0 (toLe 4 off ++ toLe 4 v.toNat) s else s
    | _ => s
  let s := windowWrite m o v now s
  if isKeeper c then keeperWindow m o v s else s

/-! ## Shed blocks -/

/-- EN and FENCE of a unit's control register: writing FENCE fences the unit (R12). -/
def writeUnitCtl (sh : ShedIx) (k : UnitKind) (u : UnitIx) (v : W32) (s : State) : State :=
  let s := modUnit sh k u (fun n => { n with en := v.getLsbD 0 }) s
  if v.getLsbD 1 then fenceUnit sh k u 0 (modUnit sh k u (fun n => { n with fence := true }) s) else s

/-- SELFTEST of YRD_CTL: an Idle Yard begins its test (R266). -/
def writeSelftest (y : YardRef) (v : W32) (s : State) : State :=
  if v.getLsbD 2 ∧ yardWorks s y ∧ (yard s y).task.isNone then modYard y (fun d => { d with testing := true }) s else s

/-- A unit's event register clears; a hidden spare has none. -/
def clearUnitEvt (sh : ShedIx) (k : UnitKind) (u : UnitIx) (v : W32) (s : State) : State :=
  if hiddenSpare (unit s sh k u) u then s else modUnit sh k u (fun n => { n with evt := w1c n.evt v }) s

/-- Event registers and FORCE_FAIL of a Shed's blocks: what PF0 and the Keeper may write. -/
def writeShedHost (sh : ShedIx) (b : ShedBlock) (v : W32) (s : State) : State :=
  match b with
  | .ctl o => if o = 0xC ∧ v.getLsbD 0 then modShd sh (fun q => { q with queueFull := false }) s else s
  | .prt p o => if o = 0x1C then modPort p (fun q => { q with evt := w1c q.evt v }) s else s
  | .yrd u o => if o = 0x28 then clearUnitEvt sh .yard u v s else s
  | .lnt l o => if o = 0x10 then modLantern l (fun q => { q with evt := w1c q.evt v }) s else s
  | .nts k o =>
    if o = 0x18 then modStk k (fun q => { q with evt := w1c q.evt v }) s
    else if o = 0x4 ∧ v.getLsbD 2 then wakeJobs (failStack k (modStk k (fun q => { q with forceFail := true }) s))
    else s
  | .rdu u o => if o = 0x1C then clearUnitEvt sh .reduce u v s else s
  | .gfu k u o => if o = 0x18 then clearUnitEvt sh k u v s else s
  | .eng o => if o = 0x14 then clearBusErr sh (modEng sh (fun e => { e with evt := w1c e.evt v }) s) else s
  | .mtb o => if o = 0x14 then modBank sh (fun b => { b with evt := w1c b.evt v }) s else s
  | .sch o => if o = 0x14 then modSched sh (fun q => { q with evt := w1c q.evt v }) s else s
  | .coh o => if o = 0x28 then modHome sh (fun h => { h with evt := w1c h.evt v }) s else s
  | _ => s

/-- The Loft's and scheduler's registers. -/
def writeSch (sh : ShedIx) (o : Nat) (v : W32) (s : State) : State :=
  match o with
  | 0x0 => modSched sh (fun q => { q with voqMib := v.setWidth 7, alpha := BitVec.ofNat 2 (bitsOf v.toNat 9 8), voqMax := BitVec.ofNat 12 (bitsOf v.toNat 27 16) }) s
  | 0x8 => modSched sh (fun q => { q with ecnThr := (v.setWidth 16).setWidth 17 }) s
  | 0xC => modSched sh (fun q => { q with xoff := (v.setWidth 16).setWidth 17, xon := BitVec.ofNat 16 (bitsOf v.toNat 31 16) }) s
  | 0x10 => modSched sh (fun q => { q with headroom := (v.setWidth 16).setWidth 17, watchdog := BitVec.ofNat 16 (bitsOf v.toNat 31 16) }) s
  | _ => s

/-- A meter's settings, whose write fills both of its buckets (R295). -/
def writeMeter (sh : ShedIx) (o : Nat) (v : W32) (s : State) : State :=
  let ix : ShedIx × Fin 16384 := (sh, Fin.ofNat 16384 ((o - 0x100000) / 0x20))
  let f (m : Meter) : Meter :=
    match o % 0x20 with
    | 0x0 => { m with port := v.setWidth 7, cls := BitVec.ofNat 3 (bitsOf v.toNat 9 7), pen := BitVec.ofNat 12 (bitsOf v.toNat 21 10),
                      anyPen := v.getLsbD 22, en := v.getLsbD 23, aware := v.getLsbD 24, redPass := v.getLsbD 25 }
    | 0x4 => { m with cir := v.setWidth 21 }
    | 0x8 => { m with cbs := v.setWidth 24 }
    | 0xC => { m with pir := v.setWidth 21 }
    | 0x10 => { m with pbs := v.setWidth 24 }
    | _ => m
  let full (m : Meter) : Meter := { m with cTok := m.cbs.toNat * 8000, pTok := m.pbs.toNat * 8000 }
  { s with sw := { s.sw with meters := aMod s.sw.meters ix {} fun m => if o % 0x20 ≤ 0x10 then full (f m) else m } }

/-- A write of a port's KW register at its Shed offset. -/
def writePortKw (sh : ShedIx) (k o : Nat) (v : W32) (s : State) : State :=
  match writePortReg (Fin.ofNat 512 (128 * sh.val + k)) o v.toNat none s with
  | some (_, s) => s
  | none => s

/-- LNT_CTL.FORCE and LNT_SLICE_MAP. -/
def writeLnt (l : StackIx) (o : Nat) (v : W32) (s : State) : State :=
  if o = 0x4 ∧ v.getLsbD 0 then evalLevel (changeLaser l s)
  else if 0x100 ≤ o ∧ o < 0x180 ∧ v.toNat % 64 < 36 then
    modLantern l (fun q => { q with map := aSet q.map (Fin.ofNat 32 ((o - 0x100) / 4)) (Fin.ofNat 36 (v.toNat % 64)) }) s
  else s

/-- What Keeper firmware alone may write of a Shed's block `b` at Shed offset `off`. -/
def writeShedKeeper (sh : ShedIx) (off : Nat) (b : ShedBlock) (v : W32) (s : State) : State :=
  match b with
  | .ctl o => if o = 0x4 then modShd sh (fun q => { q with dispatch := v.getLsbD 0 }) s else s
  | .prt _ o => if o = 0x1C then s else writePortKw sh ((off - 0x10000) / 0x1000) off v s
  | .yrd u o => if o = 0x4 then writeSelftest ⟨sh, u⟩ v (writeUnitCtl sh .yard u v s) else s
  | .lnt l o => writeLnt l o v s
  | .nts k o =>
    if o = 0x4 then modStk k (fun q => { q with retireEn := v.getLsbD 0, patrolEn := v.getLsbD 1 }) s
    else if o = 0x14 then modStk k (fun q => { q with ceThr := v.setWidth 16 }) s
    else s
  | .rdu u o => if o = 0x4 then writeUnitCtl sh .reduce u v s else s
  | .gfu k u o => if o = 0x4 then writeUnitCtl sh k u v s else s
  | .eng o =>
    if o = 0x4 then modEng sh (fun e => { e with en := v.getLsbD 0 }) s
    else if o = 0x18 ∨ o = 0x1C then wakeWaits sh (modEng sh (fun e => { e with flags := putHalf e.flags (o == 0x1C) v }) s)
    else s
  | .mtb o =>
    if o = 0x0 then modBank sh (fun b => { b with mode := v.getLsbD 0, gap := BitVec.ofNat 13 (bitsOf v.toNat 13 1) }) s
    else if 0x100 ≤ o ∧ o < 0x140 then keeperShows (shedBase sh + 0x380000 + o) (BitVec.ofNat 32 (mtbReg s sh o)) v s
    else s
  | .sch o =>
    if 0x20000 ≤ o ∧ o < 0x21000 then writePortKw sh ((o - 0x20000) / 0x20) off v s
    else if 0x30000 ≤ o ∧ o < 0x31000 then writePortKw sh ((o - 0x30000) / 0x20) off v s
    else writeSch sh o v s
  | .coh o => if o = 0x0 then modHome sh (fun h => { h with timeoutUs := v.setWidth 10 }) s else s
  | .shp o =>
    if o < 0x2000 then writePortKw sh (o / 0x40) off v s
    else if 0x10000 ≤ o ∧ o < 0x11000 then writePortKw sh ((o - 0x10000) / 0x20) off v s
    else if 0x20000 ≤ o ∧ o < 0x40000 then writePortKw sh ((o - 0x20000) / 0x400) off v s
    else if 0x100000 ≤ o ∧ o < 0x180000 then writeMeter sh o v s
    else s
  | _ => s

/-! ## A function's own structures -/

/-- An MSI-X entry's word: unmasking a pending vector sends its message. -/
def writeMsix (f : FnIx) (o : Nat) (v : W32) (s : State) : State :=
  let i : Fin 64 := Fin.ofNat 64 (o / 16)
  let put (g : Msix → Msix) (s : State) : State := modFn f (fun x => { x with msix := aMod x.msix i {} g }) s
  match o % 16 with
  | 0 => put (fun e => { e with addr := putHalf e.addr false v }) s
  | 4 => put (fun e => { e with addr := putHalf e.addr true v }) s
  | 8 => put (fun e => { e with data := v }) s
  | _ =>
    let s := put (fun e => { e with masked := v.getLsbD 0 }) s
    if v.getLsbD 0 = false ∧ (aGetD (fnSt s f).msix i {}).pending then emit (.msix f i) (put (fun e => { e with pending := false }) s) else s

/-- Writes of the aperture table, PCI_APR_EVT and the MSI-X table. -/
def writeFn (f : FnIx) (off : Nat) (v : W32) (s : State) : State :=
  if off < 0x3810000 then
    let w : Fin 8192 := Fin.ofNat 8192 ((off - 0x3800000) / 8)
    if off % 8 = 0 then aprLoWrite f w v s else aprHiWrite f w v s
  else if off = 0x3810004 ∧ v.getLsbD 0 then modFn f (fun g => { g with aprEvt := false }) s
  else if 0x3F00000 ≤ off ∧ off < 0x3F00400 then writeMsix f (off - 0x3F00000) v s
  else s

/-! ## A register write -/

/-- A write of an aligned word that the caller sees, at a block whose island accepts it. -/
def writeSeen (c : Caller) (off : Nat) (v : W32) (s : State) : State :=
  match regRange off with
  | .glob => writeGlob c off v s
  | .power => writePower off v s
  | .sec => writeSec c off v s
  | .jnl => writeJnl off v s
  | .dmk => writeDmk c off v s
  | .mbx m => writeMbx c m off v s
  | .shed sh =>
    let o := (off - 0x1000000) % 0x800000
    let s := writeShedHost sh (shedBlock sh o) v s
    if isKeeper c then writeShedKeeper sh o (shedBlock sh o) v s else s
  | .fn => match callerFn c with | some f => writeFn f off v s | none => s
  | .none => s

/-- A write of an aligned word: board management writes nothing, a reserved or invisible offset discards, and so does an
island that is not Running (R18, R20). -/
def writeWord (c : Caller) (off : Nat) (v : W32) (s : State) : State :=
  if c = .board ∨ sees c off = false ∨ crossing s c off ≠ .reached then s else writeSeen c off v s

/-- REGISTER_WRITE (R460): 4 B aligned, or 8 B aligned as both words; any other is discarded. -/
def execRegisterWrite (c : Caller) (offset : BitVec 26) (size : Nat) (value : W64) (s : State) : Res :=
  let off := offset.toNat
  if size = 4 ∧ off % 4 = 0 then .next (writeWord c off (value.setWidth 32) s)
  else if size = 8 ∧ off % 8 = 0 then
    .next (writeWord c (off + 4) (BitVec.ofNat 32 (value.toNat / 2 ^ 32)) (writeWord c off (value.setWidth 32) s))
  else .next s

end Sys2Proof.Machine
end

