-- ==== Sys2Proof/Machine/Replay.lean ====
section
/-! DEFINITION. What reads registers and runs commands on its own: the Daymark's record of an event (R397 to R402), and
INPUT_REPLAY's FEED, which injects the journal's records (R393 to R395). -/

namespace Sys2Proof.Machine

/-! ## DAYMARK_RECORD_WRITE (R397, R399 to R402) -/

/-- An armed trigger matches an event. -/
def trigMatches (e : DmkEvent) (t : Trigger) : Bool := t.armed && t.source == e.source && t.code == e.code

/-- COUNT, 0 counting as 1. -/
def trigCount (t : Trigger) : Nat := max 1 t.count.toNat

/-- The event is the trigger's COUNT-th: it fires. -/
def trigFires (e : DmkEvent) (t : Trigger) : Bool := trigMatches e t && (t.hits + 1) % trigCount t == 0

/-- The trigger after an event: counted, and disarmed by a ONESHOT firing. -/
def trigAfter (e : DmkEvent) (t : Trigger) : Trigger :=
  if trigMatches e t then { t with hits := t.hits + 1, armed := !(t.oneshot && trigFires e t) } else t

/-- The lowest-numbered of the triggers. -/
def lowestTrigger (ts : List (Fin 32 × Trigger)) : Option (Fin 32 × Trigger) :=
  (ts.mergeSort fun a b => decide (a.1.val ≤ b.1.val)).head?

/-- A record's size: 64 B and 8 B per snapshot, to a multiple of 64 B. -/
def recordLen (n : Nat) : Nat := (64 + 8 * n + 63) / 64 * 64

/-- The snapshot of a register: its offset and its value, read without any effect (R400). -/
def snapshot (s : State) (fr : Nat) (off : W32) : List Byte := toLe 4 off.toNat ++ toLe 4 (readWord s .keeper fr off.toNat)

/-- A record's header (R397). -/
def recordHeader (e : DmkEvent) (seq : W32) (n trig : Nat) (kprTime aonTime : W64) (lost : W32) : List Byte :=
  toLe 4 seq.toNat ++ toLe 4 e.source.toNat ++ toLe 2 e.code.toNat ++ [BitVec.ofNat 8 n, BitVec.ofNat 8 trig, e.island, 0, 0, 0]
    ++ toLe 8 kprTime.toNat ++ toLe 8 aonTime.toNat
    ++ toLe 2 e.pen.toNat ++ toLe 2 e.node.toNat ++ toLe 4 e.obj.toNat ++ toLe 8 e.addr.toNat
    ++ toLe 4 lost.toNat ++ List.replicate 12 0

/-- The events of the queue that a Full Daymark only counts. -/
def dropQueue (s : State) : State :=
  { s with dmk := { s.dmk with full := true, lost := satAdd s.dmk.lost s.dmk.queue.length, queue := [] } }

/-- The record of an event is written at DMK_WRITE_PTR; the triggers that matched have counted it. -/
def putRecord (e : DmkEvent) (fired : List (Fin 32 × Trigger)) (s : State) : State :=
  let t := lowestTrigger fired
  let offs := (t.map (·.2.offsets)).getD []
  let len := recordLen offs.length
  let d := s.dmk
  if dmkSize < d.writePtr + len then dropQueue { s with dmk := { d with queue := e :: d.queue } }
  else
    let (kt, s) := takeFree 64 s
    let (at_, s) := takeFree 64 s
    let (fr, s) := takeFree 32 s
    let h := recordHeader e (d.writeSeq + 1) offs.length ((t.map (·.1.val)).getD 0xFF) kt at_ d.lostSince
    let bytes := padTo len (h ++ offs.flatMap (snapshot s fr.toNat))
    let frozen := fired.any fun x => x.2.freeze
    let marks : W32 := fired.foldl (fun m x => orBit m x.1.val) d.fired
    { s with dmk := { d with
        buf := writeBytes d.buf d.writePtr bytes, writeSeq := d.writeSeq + 1, writePtr := d.writePtr + len, lostSince := 0,
        triggers := d.triggers.map fun x => (x.1, trigAfter e x.2), fired := marks, frozen,
        queue := if frozen then [] else d.queue } }

/-- DAYMARK_RECORD_WRITE: the oldest queued event. One that no trigger matches is passed over when BARE is 0. -/
def execDaymarkRecordWrite (s : State) : Res :=
  match s.dmk.queue with
  | [] => .next s
  | e :: rest =>
    let d := s.dmk
    if d.full ∨ d.frozen ∨ islFenced s 1 then .next s
    else
      let s := { s with dmk := { d with queue := rest } }
      if d.bare = false ∧ (d.triggers.any fun t => trigMatches e t.2) = false then .next s
      else .next (putRecord e (d.triggers.filter fun t => trigFires e t.2) s)

/-! ## FEED (R393, R394) -/

/-- The state a meaning answers with; a meaning that stops leaves the state. -/
def stateAfter (s : State) (r : Res) : State := match r with | .next t => t | _ => s

/-- A request's command by its opcode, its flags and its sub-operation (R339 to R345); an opcode outside the catalogue ends
with BAD_OPCODE. FEED of FEED is refused with BUSY, as R393 refuses it while replaying. -/
def runMailbox (op : Nat) (r : Req) (s : State) : Res :=
  let flag := r.flags.getLsbD 0
  let sub (i : Nat) : Nat := leAt r.payload i 1
  match op with
  | 0x01 => execEcho r s
  | 0x02 => execGetInfo r s
  | 0x03 => if sub 0 = 1 then execGetHealthPartner r s else if sub 0 = 2 then execGetHealthGroup r s else execGetHealthDevice r s
  | 0x10 => execPenCreate r s
  | 0x11 => execPenDestroy r s
  | 0x12 => execPenSetQuota r s
  | 0x20 => execExtentAlloc r s
  | 0x21 => execExtentFree r s
  | 0x22 => execExtentMigrate r s
  | 0x23 => if r.flags.getLsbD 1 then execLeaseRevoke r s else if flag then execLeaseSetRenew r s else execLeaseSet r s
  | 0x30 => execRegionCreate r s
  | 0x31 => execRegionPublish r s
  | 0x32 => execRegionOpen r s
  | 0x33 => if flag then execRegionRetire r s else execRegionClose r s
  | 0x40 => execWindowCreate r s
  | 0x41 => execWindowAdvance r s
  | 0x50 => execGroupCreate r s
  | 0x51 => execGroupEvict r s
  | 0x52 => execGroupAdmit r s
  | 0x53 => execGroupDestroy r s
  | 0x60 => execSessionInsert r s
  | 0x61 => execSessionDelete r s
  | 0x62 => execMatchTableLoad r s
  | 0x70 => execTableBuild r s
  | 0x71 => execTableRetire r s
  | 0x80 => if flag then execYardProgramRemove r s else execYardProgramLoad r s
  | 0x81 => execYardTaskSubmit r s
  | 0x90 => if flag then execDmaProgramRemove r s else execDmaProgramLoad r s
  | 0x91 => if flag then execDmaResume r s else execDmaStart r s
  | 0x92 => execDmaAbort r s
  | 0xA0 => execRouteMapLoad r s
  | 0xA1 => execRouteMapCommit r s
  | 0xB0 => if sub 2 = 1 then execVlanMemberSet r s else if sub 2 = 2 then execStaticMacLoad r s else execPortRegisterWrite r s
  | 0xB1 => execShaperConfig r s
  | 0xB2 => execMeterConfig r s
  | 0xB3 => execGateListLoad r s
  | 0xC0 =>
    match sub 0 with
    | 0 => execDaymarkDefine r s
    | 1 => execDaymarkClear r s
    | 2 => execDaymarkRearm r s
    | 3 => execDaymarkStop r s
    | 4 => execDaymarkStart r s
    | 5 => execDaymarkBare r s
    | _ => .next (mbx { cmdArm 0 with fields := [(0, r.payload.length)] } true r (fun rep s => post rep stBadParam [] s) s)
  | 0xC1 => execDaymarkRead r s
  | 0xC2 =>
    match sub 0 with
    | 0 => execInputReplayRecord r s
    | 1 => execInputReplayStop r s
    | 2 => execInputReplayRead r s
    | 3 => execInputReplayReplay r s
    | 5 => execInputReplayStatus r s
    | 4 => .next (mbx (cmdReplay 4) true r (fun rep s => post rep stBusy [] s) s)
    | _ => .next (mbx { cmdReplay 0 with fields := [(0, r.payload.length)], ranges := fun _ => false } true r
        (fun rep s => post rep stBadParam [] s) s)
  | 0xD0 => if flag then execCalibRunAbort r s else execCalibRun r s
  | 0xD1 => execCalibGet r s
  | 0xD2 => if flag then execCalibSetClear r s else execCalibSet r s
  | 0xF0 => execAttestQuote r s
  | 0xF1 => execIdentityGet r s
  | 0x100 => execConfigGet r s
  | 0x101 => execConfigSet r s
  | 0x110 => execSpareStatus r s
  | 0x111 => if flag then execSpareEngageNow r s else execSpareEngage r s
  | _ => .next (post (replyOf s op r) stBadOpcode [] (takeRequest op false r s))

/-- A record of the Input Journal (R392). -/
structure IjnRec where
  seq : W32
  kind : Nat
  chan : Nat
  node : Nat
  body : List Byte
deriving DecidableEq, Repr

/-- The first whole record of some bytes, its size, and whether there is one. -/
def takeRec (bs : List Byte) : Option (IjnRec × Nat) :=
  let n := leAt bs 10 4
  let size := (32 + n + 31) / 32 * 32
  if bs.length < 32 ∨ bs.length < size then none
  else some ({ seq := fieldLe 32 bs 0 4, kind := leAt bs 4 1, chan := leAt bs 6 2, node := leAt bs 8 2, body := (bs.drop 32).take n }, size)

/-- A channel whose ring is not served while the replay lasts. -/
def nameChan (c : ChanIx) (s : State) : State :=
  if s.ijn.chansFed.contains c then s else { s with ijn := { s.ijn with chansFed := s.ijn.chansFed ++ [c] } }

/-- A KIND 1 request is taken as if from the ring; its recorded buffer stands in the host's memory while it runs. -/
def feedRequest (q : IjnRec) (s : State) : State :=
  let c : ChanIx := Fin.ofNat 160 q.chan
  let s := nameChan c s
  let op := leAt q.body 0 2
  if op = 0x13 ∨ op = 0xE0 ∨ op = 0xE1 ∨ (chan s c).ringErr then s
  else
    let (now, s) := takePick s
    let r := slotReq c q.body now
    let host := s.host
    let s := modChan c (fun x => { x with
      taken := x.taken ++ [(BitVec.ofNat 16 op, r.tag)], asked := { gen := x.gen, slot := q.body.take 256 } :: x.asked }) (hostWrite c r.buf.toNat (q.body.drop 256) s)
    let t := stateAfter s (runMailbox op r { s with ijn := { s.ijn with inject := true } })
    { t with host, ijn := { t.ijn with inject := false } }

/-- A KIND 2 write is applied. -/
def feedWrite (q : IjnRec) (s : State) : State :=
  let c : ChanIx := Fin.ofNat 160 q.chan
  let (now, s) := takePick (nameChan c s)
  windowWrite c (leAt q.body 0 4 % 0x4000) (fieldLe 32 q.body 4 4) now s

/-- The packet of a KIND 3 record, as it enters station 4: header fields of R76. Which port of the ingress Shed it came by is a
free choice. -/
def headerRx (port : PortIx) (b : List Byte) (now : Nat) : Rx :=
  let pl := b.drop 40
  { port, l2 := { udpLen := b.length }, version := BitVec.ofNat 4 (leAt b 0 1 / 16), htype := BitVec.ofNat 4 (leAt b 0 1),
    flags := BitVec.ofNat 16 (beAt b 2 2), pen := BitVec.ofNat 12 (beAt b 4 2 / 16), cls := BitVec.ofNat 4 (beAt b 4 2),
    src := BitVec.ofNat 16 (beAt b 6 2), seq := BitVec.ofNat 32 (beAt b 8 4), epoch := BitVec.ofNat 16 (beAt b 12 2),
    length := BitVec.ofNat 16 (beAt b 14 2), addr := BitVec.ofNat 56 (beAt b 16 7), keyId := BitVec.ofNat 8 (leAt b 23 1),
    group := BitVec.ofNat 32 (beAt b 24 4), step := BitVec.ofNat 32 (beAt b 28 4), handle := BitVec.ofNat 32 (beAt b 32 4),
    tag := BitVec.ofNat 32 (beAt b 36 4), payload := pl, now }

/-- A KIND 3 packet enters station 4; responses and Hellos, which station 4 lets pass (R101), take their effect. -/
def feedPacket (q : IjnRec) (s : State) : State :=
  let (k, s) := takePick s
  let (now, s) := takePick s
  let p := headerRx (Fin.ofNat 512 (128 * (q.chan % 4) + k % 128)) q.body now
  match leAt q.body 1 1 with
  | 0x10 => fromStation4 0x10 p (holdOrdered 0x10) s
  | 0x11 => invalAck p s
  | 0x40 => fromStation4 0x40 p leaseRenew s
  | 0x44 => if flagBit p 2 then s else fromStation4 0x44 p lendOffer s
  | 0x45 => if flagBit p 2 then s else fromStation4 0x45 p recallFrames s
  | 0x50 => if helloRefused s p then refuseHello p s else acceptHello p s
  | 0x58 => fromStation4 0x58 p (holdOrdered 0x58) s
  | 0x59 => fromStation4 0x59 p ownerAccept s
  | 0x5A => fromStation4 0x5A p ownerQuery s
  | _ => s

/-- A recorded digest meets the observed one, or waits for it (R394). -/
def expectDigest (e : Digest) (s : State) : State :=
  match extract (fun d => d.kind == e.kind && d.chan == e.chan && d.key == e.key) s.ijn.observed with
  | some (d, rest) =>
    if d.crc = e.crc then { s with ijn := { s.ijn with observed := rest } } else diverge e.seq e.crc d.crc s
  | none => { s with ijn := { s.ijn with expected := s.ijn.expected ++ [e] } }

/-- One record is injected. -/
def feedRecord (q : IjnRec) (s : State) : State :=
  let dig (kind : BitVec 8) (key : W32) : State :=
    expectDigest { kind, chan := BitVec.ofNat 16 q.chan, key, crc := fieldLe 32 q.body 4 4, seq := q.seq } s
  match q.kind with
  | 1 => feedRequest q s
  | 2 => feedWrite q s
  | 3 => feedPacket q s
  | 4 => dig 4 (fieldLe 32 q.body 0 4)
  | 5 => dig 5 (fieldLe 32 q.body 0 2)
  | _ => s

/-- The start marker differs from this device's firmware digest or configuration generation. -/
def markerDiffers (s : State) (q : IjnRec) : Bool := q.kind == 6 && q.body != startMarker s

/-- The whole records at hand are injected in order, at most `n`, until the session ends or a start marker differs. -/
def feedRecords : Nat → State → Bool × State
  | 0, s => (true, s)
  | n + 1, s =>
    if s.ijn.state ≠ .replaying then (true, s)
    else match takeRec s.ijn.fed with
      | none => (true, s)
      | some (q, size) =>
        let j := s.ijn
        let s := { s with ijn := { j with fed := j.fed.drop size, total := j.total - size, replayed := j.replayed + 1 } }
        if markerDiffers s q then (false, { s with ijn := { s.ijn with state := .idle, fed := [] } })
        else
          let s := feedRecord q s
          let s := if s.ijn.total = 0 ∧ s.ijn.state ≠ .diverged then { s with ijn := { s.ijn with state := .done } } else s
          feedRecords n s

/-- INPUT_REPLAY 4 FEED: the next bytes of the journal. -/
def replayFeed (r : Req) (rep : Reply) (s : State) : State :=
  if s.ijn.state = .recording then post rep stBusy [] s
  else if s.ijn.state ≠ .replaying then post rep stNotFound [] s
  else
    let bytes := inBuf s r
    if s.ijn.total < s.ijn.fed.length + bytes.length then post rep stBadParam [] s
    else
      let (ok, s) := feedRecords (s.ijn.fed.length + bytes.length) { s with ijn := { s.ijn with fed := s.ijn.fed ++ bytes } }
      post rep (if ok then stOk else stBadParam) [] s

def execInputReplayFeed (r : Req) (s : State) : Res := .next (mbx (cmdReplay 4) true r (replayFeed r) s)

end Sys2Proof.Machine
end

