-- ==== Sys2Proof/Machine/YardScalar.lean ====
section
/-! DEFINITION. The scalar group of the Yard (R238): arithmetic, comparisons, loads and stores, control flow. -/

namespace Sys2Proof.Machine

/-- An operation s[RD] := op(s[RA], b). -/
def scalarOp (y : YardRef) (f : YF) (op : W64 → W64 → W64) : State → Res :=
  insn y f { rd := true, ra := true, b := true } (pureInsn y fun d => setS f.rd (op (getS d f.ra) (opB d f)) d)

def execSadd (y : YardRef) (f : YF) (s : State) : Res := scalarOp y f (fun a b => a + b) s
def execSsub (y : YardRef) (f : YF) (s : State) : Res := scalarOp y f (fun a b => a - b) s
def execSmul (y : YardRef) (f : YF) (s : State) : Res := scalarOp y f (fun a b => a * b) s
/-- SMULH: the high half of the signed product. -/
def execSmulh (y : YardRef) (f : YF) (s : State) : Res :=
  scalarOp y f (fun a b => BitVec.ofInt 64 ((a.toInt * b.toInt) / 2 ^ 64)) s
def execSand (y : YardRef) (f : YF) (s : State) : Res := scalarOp y f (fun a b => a &&& b) s
def execSor (y : YardRef) (f : YF) (s : State) : Res := scalarOp y f (fun a b => a ||| b) s
def execSxor (y : YardRef) (f : YF) (s : State) : Res := scalarOp y f (fun a b => a ^^^ b) s
/-- Shifts use b mod 64. -/
def execSshl (y : YardRef) (f : YF) (s : State) : Res := scalarOp y f (fun a b => a <<< (b.toNat % 64)) s
def execSshr (y : YardRef) (f : YF) (s : State) : Res := scalarOp y f (fun a b => a >>> (b.toNat % 64)) s
def execSsra (y : YardRef) (f : YF) (s : State) : Res := scalarOp y f (fun a b => a.sshiftRight (b.toNat % 64)) s
def execSmin (y : YardRef) (f : YF) (s : State) : Res := scalarOp y f (fun a b => if a.slt b then a else b) s
def execSmax (y : YardRef) (f : YF) (s : State) : Res := scalarOp y f (fun a b => if a.slt b then b else a) s
def execSminu (y : YardRef) (f : YF) (s : State) : Res := scalarOp y f (fun a b => if a.ult b then a else b) s
def execSmaxu (y : YardRef) (f : YF) (s : State) : Res := scalarOp y f (fun a b => if a.ult b then b else a) s

/-- A condition of SCMP; 6 and 7 are reserved. -/
def scalarCond (c : Nat) (a b : W64) : Bool :=
  match c with
  | 0 => a == b
  | 1 => a != b
  | 2 => a.slt b
  | 3 => !a.slt b
  | 4 => a.ult b
  | _ => !a.ult b

/-- SCMP. -/
def execScmp (y : YardRef) (f : YF) (s : State) : Res :=
  insn y f { rd := true, ra := true, b := true, aux := 7 } (fun _ _ s =>
    if 5 < auxBits f 2 0 then .fault tkIllegal none s
    else .done (modYard y (fun d =>
      setS f.rd (if scalarCond (auxBits f 2 0) (getS d f.ra) (opB d f) then 1 else 0) d) s)) s

/-- SMOV. -/
def execSmov (y : YardRef) (f : YF) (s : State) : Res :=
  insn y f { rd := true, imm := true } (pureInsn y fun d => setS f.rd f.imm d) s

/-! ## Loads and stores (R231, R235) -/

/-- The bytes of an access: AUX[1:0]. -/
def accSize (f : YF) : Nat := 2 ^ auxBits f 1 0

/-- Where a scalar access goes. -/
inductive Target where
  | scratch (a : Nat)
  /-- The line of device space and the place in it. -/
  | window (line : BitVec 32) (off : Nat)
  | bad
deriving DecidableEq, Repr

/-- The target of a scalar access of `n` bytes: naturally aligned, in scratch or in the task's window. -/
def scalarTarget (t : Task) (a n : Nat) : Target :=
  if a % n ≠ 0 then .bad
  else if a < scratchSize then .scratch a
  else
    let o := a - 2 ^ 40
    if a < 2 ^ 40 ∨ leAt t.desc 24 4 * 4096 ≤ o then .bad
    else
      let x := leAt t.desc 20 4 * 4096 + o
      .window (BitVec.ofNat 32 (x / 128)) (x % 128)

/-- A loaded value: zero- or sign-extended. -/
def loaded (f : YF) (bs : List Byte) : W64 :=
  if auxBits f 2 2 = 1 then BitVec.ofInt 64 (signedOf (8 * accSize f) (leNat bs)) else BitVec.ofNat 64 (leNat bs)

/-- SLD: from scratch at once; from the window once the L1 holds the line (R302), with status POISONED where it is poisoned
(R306). -/
def execSld (y : YardRef) (f : YF) (s : State) : Res :=
  insn y f { rd := true, ra := true, imm := true, aux := 7 } (fun d t s =>
    let n := accSize f
    let put (v : W64) (s : State) : YRes := .done (modYard y (setS f.rd v) s)
    match scalarTarget t (getS d f.ra + f.imm).toNat n with
    | .bad => .fault tkAddress none s
    | .scratch a => put (loaded f (scratchRead d t.pen a n)) s
    | .window line off =>
      match cohLoad (yardCache y) line s with
      | (none, s) => .wait s
      | (some x, s) =>
        if x.poison ∨ isPoisoned s line then .fault tkPoisoned none s
        else
          let (bs, s) := taggedRead t.pen line x.tag x.data s
          put (loaded f ((bs.drop off).take n)) s) s

/-- SST: to scratch at once; to the window once the L1 holds the line in M (R302). -/
def execSst (y : YardRef) (f : YF) (s : State) : Res :=
  insn y f { ra := true, rb := true, imm := true, aux := 3 } (fun d t s =>
    let n := accSize f
    let bs := toLe n (getS d f.rb).toNat
    match scalarTarget t (getS d f.ra + f.imm).toNat n with
    | .bad => .fault tkAddress none s
    | .scratch a => .done (modYard y (scratchWrite t.pen a bs) s)
    | .window line off =>
      match cohStore (yardCache y) t.pen line off bs s with
      | (false, s) => .wait s
      | (true, s) => .done s) s

/-! ## Control flow -/

/-- A branch by IMM, a multiple of 16, or on to the next instruction. -/
def branch (f : YF) (taken : Bool) (d : Yard) (s : State) : YRes :=
  if f.imm.toNat % 16 ≠ 0 then .fault tkIllegal none s else if taken then .jump (d.pc + f.imm) s else .done s

/-- SBRZ. -/
def execSbrz (y : YardRef) (f : YF) (s : State) : Res :=
  insn y f { ra := true, imm := true } (fun d _ s => branch f (getS d f.ra == 0) d s) s

/-- SBRNZ. -/
def execSbrnz (y : YardRef) (f : YF) (s : State) : Res :=
  insn y f { ra := true, imm := true } (fun d _ s => branch f (getS d f.ra != 0) d s) s

/-- SLOOP: the counter falls by one, and the branch is taken while it is not zero. -/
def execSloop (y : YardRef) (f : YF) (s : State) : Res :=
  insn y f { ra := true, imm := true } (fun d _ s =>
    let v := getS d f.ra - 1
    if f.imm.toNat % 16 ≠ 0 then .fault tkIllegal none s
    else branch f (v != 0) d (modYard y (setS f.ra v) s)) s

/-- SCALL: s31 takes the address of the next instruction. -/
def execScall (y : YardRef) (f : YF) (s : State) : Res :=
  insn y f { imm := true } (fun d _ s =>
    if f.imm.toNat % 16 ≠ 0 then .fault tkIllegal none s
    else .jump (d.pc + f.imm) (modYard y (setS 31 (d.pc + 16)) s)) s

/-- SJMP. -/
def execSjmp (y : YardRef) (f : YF) (s : State) : Res :=
  insn y f { ra := true, imm := true } (fun d _ s =>
    let a := getS d f.ra + f.imm
    if a.toNat % 16 ≠ 0 then .fault tkIllegal none s else .jump a s) s

end Sys2Proof.Machine
end

