-- ==== Sys2Proof/Machine/YardVector.lean ====
section
/-! DEFINITION. The vector group of the Yard (R239 to R242): lanes, predication, scale lanes, conversions between EBI
elements and integers, top-32 lists and reductions. -/

namespace Sys2Proof.Machine

/-! ## Lanes (R239, R240) -/

/-- The formats of vector lanes: .B8, .H16, .W32, .D64. -/
def laneFmts : List Nat := [0, 2, 3, 4]
/-- The bytes of a lane. -/
def laneBytes (fmt : Nat) : Nat := match fmt with | 0 => 1 | 2 => 2 | 3 => 4 | 4 => 8 | _ => 1
/-- The format of a code. -/
def laneFmt (f : YF) : Fmt := (fmtOf f.fmt.toNat).getD .ebi8

/-- The active lanes of a width. -/
def lanes (d : Yard) (w : Nat) : Nat := d.vl.toNat / (8 * w)
/-- The bits of a lane as stored, and its value: −128 and −32,768 of an EBI element read as R141 gives. -/
def laneRaw (b : List Byte) (w i : Nat) : Nat := leAt b (w * i) w
def laneVal (f : Fmt) (b : List Byte) (i : Nat) : Int := elemAt f b i

/-- The predicate bit of a lane is that of its lowest byte; without PE every lane is written. -/
def laneOn (d : Yard) (f : YF) (w i : Nat) : Bool :=
  !f.pred.getLsbD 3 || (getP d (bitsOf f.pred.toNat 2 0)).getLsbD (w * i)

/-- A register with lanes replaced: those within VL whose predicate bit allows it. -/
def putLanes (d : Yard) (f : YF) (w : Nat) (g : Nat → Nat) (old : List Byte) : List Byte :=
  let n := lanes d w
  ((List.range n).flatMap fun i => if laneOn d f w i then toLe w (g i) else (old.drop (w * i)).take w) ++ old.drop (w * n)

/-- Scale words within VL: 256 bits each. -/
def scaleCount (d : Yard) : Nat := d.vl.toNat / 256

/-- A scale word may change: some lane of its block is written. A word belongs to 32 bytes, or to the 64 of its EBI16
block (R229). -/
def scaleOn (d : Yard) (f : YF) (b : Nat) : Bool :=
  let w := laneBytes f.fmt.toNat
  let span := if f.fmt = 2 ∧ b < 4 then 64 else 32
  !f.pred.getLsbD 3 || (List.range (span / w)).any fun i => span * b / w + i < lanes d w && laneOn d f w (span * b / w + i)

/-- A scale lane with its words within VL replaced. -/
def putScales (d : Yard) (f : YF) (g : Nat → BitVec 16) (old : List (BitVec 16)) : List (BitVec 16) :=
  (List.range 8).map fun b => if b < scaleCount d ∧ scaleOn d f b then g b else old.getD b 0

/-- The scale lane of a result copied from a register. -/
def copyScales (f : YF) (rd ra : Nat) (d0 d : Yard) : Yard :=
  setVs rd (putScales d0 f (fun b => (getVs d0 ra).getD b 0) (getVs d0 rd)) d

/-- A result register of lanes, with its scale lane copied from v[RA]. -/
def laneResult (f : YF) (w : Nat) (g : Nat → Nat) (d : Yard) : Yard :=
  copyScales f f.rd.toNat f.ra.toNat d (setV f.rd.toNat (putLanes d f w g (getV d f.rd.toNat)) d)

/-! ## Arithmetic -/

/-- The result of a lane: .B8 and .H16 saturate to ±Qmax, .W32 and .D64 wrap. -/
def laneSat (fm : Fmt) (v : Int) : Nat × Bool :=
  if isEbi fm then (rawOf (fmtBits fm) (clampTo (qmax fm) v), decide (qmax fm < v.natAbs)) else (rawOf (fmtBits fm) v, false)

/-- A lane-wise operation on v[RA] and v[RB]. -/
def vectorOp (y : YardRef) (f : YF) (op : Int → Int → Int) : State → Res :=
  insn y f { pred := true, rd := true, ra := true, rb := true, fmts := laneFmts } (pureInsn y fun d =>
    let fm := laneFmt f
    let w := laneBytes f.fmt.toNat
    let res (i : Nat) : Nat × Bool := laneSat fm (op (laneVal fm (getV d f.ra.toNat) i) (laneVal fm (getV d f.rb.toNat) i))
    let sat := (List.range (lanes d w)).any fun i => laneOn d f w i && (res i).2
    setSat sat (laneResult f w (fun i => (res i).1) d))

def execVadd (y : YardRef) (f : YF) (s : State) : Res := vectorOp y f (fun a b => a + b) s
def execVsub (y : YardRef) (f : YF) (s : State) : Res := vectorOp y f (fun a b => a - b) s
def execVmul (y : YardRef) (f : YF) (s : State) : Res := vectorOp y f (fun a b => a * b) s
def execVmin (y : YardRef) (f : YF) (s : State) : Res := vectorOp y f (fun a b => if a < b then a else b) s
def execVmax (y : YardRef) (f : YF) (s : State) : Res := vectorOp y f (fun a b => if a < b then b else a) s

/-- A bitwise operation, byte by byte. -/
def bitOp (y : YardRef) (f : YF) (op : Nat → Nat → Nat) : State → Res :=
  insn y f { pred := true, rd := true, ra := true, rb := true, fmts := [0, 1, 2, 3, 4] } (pureInsn y fun d =>
    let w := laneBytes f.fmt.toNat
    laneResult f w (fun i => op (laneRaw (getV d f.ra.toNat) w i) (laneRaw (getV d f.rb.toNat) w i)) d)

def execVand (y : YardRef) (f : YF) (s : State) : Res := bitOp y f Nat.land s
def execVor (y : YardRef) (f : YF) (s : State) : Res := bitOp y f Nat.lor s
def execVxor (y : YardRef) (f : YF) (s : State) : Res := bitOp y f Nat.xor s

/-- VSHR: shr_rne of each lane by b; from 128 on every lane is 0. -/
def execVshr (y : YardRef) (f : YF) (s : State) : Res :=
  insn y f { pred := true, rd := true, ra := true, b := true, fmts := laneFmts } (pureInsn y fun d =>
    let fm := laneFmt f
    laneResult f (laneBytes f.fmt.toNat) (fun i =>
      rawOf (fmtBits fm) (shrRne (laneVal fm (getV d f.ra.toNat) i) (min 128 (opB d f).toNat))) d) s

/-! ## Loads and stores of registers -/

/-- AUX[4:0] registers from v[RD] on: 1 to 16 of them, within v0 to v31. -/
def regCount (f : YF) : Nat := auxBits f 4 0
def countOk (f : YF) (first : Nat) : Bool := decide (1 ≤ regCount f) && decide (regCount f ≤ 16) && decide (first + regCount f ≤ 32)

/-- A vector access of `n` bytes at an address: 32-byte aligned, in scratch. -/
def vectorAddr (a n : Nat) : Bool := a % 32 == 0 && inScratch a n

/-- Register r takes bytes within VL. -/
def loadReg (f : YF) (d0 : Yard) (r : Nat) (bs : List Byte) (d : Yard) : Yard :=
  setV r (putLanes d0 f 1 (fun i => (bs.getD i 0).toNat) (getV d0 r)) d

/-- VLD. -/
def execVld (y : YardRef) (f : YF) (s : State) : Res :=
  insn y f { pred := true, rd := true, ra := true, imm := true, aux := 31 } (fun d t s =>
    let a := (getS d f.ra + f.imm).toNat
    let n := d.vl.toNat / 8
    if countOk f f.rd.toNat = false then .fault tkIllegal none s
    else if vectorAddr a (n * regCount f) = false then .fault tkAddress none s
    else .done (modYard y (fun d => (List.range (regCount f)).foldl
      (fun x i => loadReg f d (f.rd.toNat + i) (scratchRead d t.pen (a + n * i) n) x) d) s)) s

/-- VST: AUX[4:0] registers from v[RD] on are stored. -/
def execVst (y : YardRef) (f : YF) (s : State) : Res :=
  insn y f { rd := true, ra := true, imm := true, aux := 31 } (fun d t s =>
    let a := (getS d f.ra + f.imm).toNat
    let n := d.vl.toNat / 8
    if countOk f f.rd.toNat = false then .fault tkIllegal none s
    else if vectorAddr a (n * regCount f) = false then .fault tkAddress none s
    else .done (modYard y (fun d => scratchWrite t.pen a
      ((List.range (regCount f)).flatMap fun i => (getV d (f.rd.toNat + i)).take n) d) s)) s

/-- The scale words of one register in VLDS and VSTS: VL/256 for .B8, half that for .H16. -/
def scaleRun (d : Yard) (f : YF) : Nat := if f.fmt = 2 then scaleCount d / 2 else scaleCount d

/-- VLDS. -/
def execVlds (y : YardRef) (f : YF) (s : State) : Res :=
  insn y f { pred := true, rd := true, ra := true, imm := true, aux := 31, fmts := [0, 2] } (fun d t s =>
    let a := (getS d f.ra + f.imm).toNat
    let n := scaleRun d f
    if countOk f f.rd.toNat = false then .fault tkIllegal none s
    else if vectorAddr a (2 * n * regCount f) = false then .fault tkAddress none s
    else .done (modYard y (fun d => (List.range (regCount f)).foldl (fun x i =>
      let bs := scratchRead d t.pen (a + 2 * n * i) (2 * n)
      let old := getVs d (f.rd.toNat + i)
      setVs (f.rd.toNat + i) (putScales d f (fun b => if b < n then fieldLe 16 bs (2 * b) 2 else old.getD b 0) old) x) d) s)) s

/-- VSTS. -/
def execVsts (y : YardRef) (f : YF) (s : State) : Res :=
  insn y f { rd := true, ra := true, imm := true, aux := 31, fmts := [0, 2] } (fun d t s =>
    let a := (getS d f.ra + f.imm).toNat
    let n := scaleRun d f
    if countOk f f.rd.toNat = false then .fault tkIllegal none s
    else if vectorAddr a (2 * n * regCount f) = false then .fault tkAddress none s
    else .done (modYard y (fun d => scratchWrite t.pen a ((List.range (regCount f)).flatMap fun i =>
      ((getVs d (f.rd.toNat + i)).take n).flatMap fun w => toLe 2 w.toNat) d) s)) s

/-! ## Moves -/

/-- VBCAST. -/
def execVbcast (y : YardRef) (f : YF) (s : State) : Res :=
  insn y f { pred := true, rd := true, ra := true, imm := true, fmts := laneFmts } (pureInsn y fun d =>
    let w := laneBytes f.fmt.toNat
    let x := setV f.rd.toNat (putLanes d f w (fun _ => (getS d f.ra).toNat) (getV d f.rd.toNat)) d
    setVs f.rd.toNat (putScales d f (fun _ => f.imm.setWidth 16) (getVs d f.rd.toNat)) x) s

/-- VALIGN: bytes from IMM on of v[RB]:v[RA], within VL; bytes and words beyond the pair are a free function of the operands,
so that equal runs have equal results (R152, R263). -/
def execValign (y : YardRef) (f : YF) (s : State) : Res :=
  insn y f { pred := true, rd := true, ra := true, rb := true, imm := true } (pureInsn y fun d =>
    let n := d.vl.toNat / 8
    let k := min f.imm.toNat (2 * n)
    let e := Config.alignBeyond f.imm.toNat n (getV d f.ra.toNat ++ getV d f.rb.toNat) (getVs d f.ra.toNat ++ getVs d f.rb.toNat)
    let bs := ((getV d f.ra.toNat).take n ++ (getV d f.rb.toNat).take n ++ toLe 256 e.toNat).drop k
    let m := scaleCount d
    let ws := ((getVs d f.ra.toNat).take m ++ (getVs d f.rb.toNat).take m
      ++ (List.range 8).map fun i => BitVec.ofNat 16 (bitsOf e.toNat (2048 + 16 * i + 15) (2048 + 16 * i))).drop (k / 32)
    let x := setV f.rd.toNat (putLanes d f 1 (fun i => (bs.getD i 0).toNat) (getV d f.rd.toNat)) d
    if f.imm.toNat % 32 = 0 then setVs f.rd.toNat (putScales d f (fun b => ws.getD b 0) (getVs d f.rd.toNat)) x
    else copyScales f f.rd.toNat f.ra.toNat d x) s

/-- VIDX. -/
def execVidx (y : YardRef) (f : YF) (s : State) : Res :=
  insn y f { pred := true, rd := true, ra := true, fmts := [3, 4] } (pureInsn y fun d =>
    setV f.rd.toNat (putLanes d f (laneBytes f.fmt.toNat) (fun i => (getS d f.ra).toNat + i) (getV d f.rd.toNat)) d) s

/-! ## Predicates -/

/-- Predicate bits from a function of the bit, those beyond VL unchanged. -/
def putPred (d : Yard) (g : Nat → Bool) (old : BitVec 256) : BitVec 256 :=
  let n := d.vl.toNat / 8
  BitVec.ofNat 256 ((List.range 256).map fun i => bitNat (if i < n then g i else old.getLsbD i) * 2 ^ i).sum

/-- A comparison of VCMP; 6 and 7 are reserved. -/
def vectorCond (c : Nat) (a b : Int) : Bool :=
  match c with
  | 0 => a == b
  | 1 => a != b
  | 2 => decide (a < b)
  | 3 => decide (a ≤ b)
  | 4 => decide (b < a)
  | _ => decide (b ≤ a)

/-- VCMP. -/
def execVcmp (y : YardRef) (f : YF) (s : State) : Res :=
  insn y f { rd := true, ra := true, rb := true, aux := 7, fmts := laneFmts } (fun _ _ s =>
    if 5 < auxBits f 2 0 then .fault tkIllegal none s
    else .done (modYard y (fun d =>
      let fm := laneFmt f
      let w := laneBytes f.fmt.toNat
      setP f.rd.toNat (putPred d (fun i => vectorCond (auxBits f 2 0) (laneVal fm (getV d f.ra.toNat) (i / w))
        (laneVal fm (getV d f.rb.toNat) (i / w))) (getP d f.rd.toNat)) d) s)) s

/-- VSEL. -/
def execVsel (y : YardRef) (f : YF) (s : State) : Res :=
  insn y f { pred := true, rd := true, ra := true, rb := true, rc := true, fmts := laneFmts } (pureInsn y fun d =>
    let w := laneBytes f.fmt.toNat
    laneResult f w (fun i => laneRaw (getV d (if (getP d f.rc.toNat).getLsbD (w * i) then f.ra.toNat else f.rb.toNat)) w i) d) s

/-- An operation of VPLOG; 5 to 7 are reserved. -/
def predOp (c : Nat) (a b : Bool) : Bool :=
  match c with
  | 0 => a && b
  | 1 => a || b
  | 2 => Bool.xor a b
  | 3 => a && !b
  | _ => !a

/-- VPLOG. -/
def execVplog (y : YardRef) (f : YF) (s : State) : Res :=
  insn y f { rd := true, ra := true, rb := true, aux := 7 } (fun _ _ s =>
    if 4 < auxBits f 2 0 then .fault tkIllegal none s
    else .done (modYard y (fun d => setP f.rd.toNat (putPred d (fun i =>
      predOp (auxBits f 2 0) ((getP d f.ra.toNat).getLsbD i) ((getP d f.rb.toNat).getLsbD i)) (getP d f.rd.toNat)) d) s)) s

/-! ## EBI elements and integers (R241) -/

/-- A value shifted from exponent e to f, saturated to ±lim. -/
def shiftTo (lim : Nat) (v e f : Int) : Int × Bool :=
  let x : Int := if f ≤ e then (if v = 0 then 0 else v * 2 ^ (min 128 (e - f).toNat)) else shrRne v (min 128 (f - e).toNat)
  (clampTo lim x, decide (lim < x.natAbs))

/-- The registers of a group of integers: four for .B8, two for .H16. -/
def wideRegs (f : YF) : Nat := if f.fmt = 2 then 2 else 4

/-- VWIDEN. -/
def execVwiden (y : YardRef) (f : YF) (s : State) : Res :=
  insn y f { pred := true, rd := true, ra := true, rb := true, fmts := [0, 2] } (fun d _ s =>
    let k := wideRegs f
    if 32 < f.rd.toNat + k then .fault tkIllegal none s
    else
      let fm := laneFmt f
      let n := lanes d 4
      let res (i : Nat) : Int × Bool :=
        let w := (getVs d f.ra.toNat).getD (i / 32) 0
        shiftTo (2 ^ 31 - 1) (laneVal fm (getV d f.ra.toNat) i * scaleM w) (scaleE w) (getS d f.rb).toInt
      let g : YF := { f with fmt := 3 }
      let sat := (List.range k).any fun r => (List.range n).any fun i => laneOn d g 4 i && (res (r * n + i)).2
      .done (modYard y (fun d => setSat sat ((List.range k).foldl (fun x r =>
        copyScales g (f.rd.toNat + r) f.ra.toNat d
          (setV (f.rd.toNat + r) (putLanes d g 4 (fun i => rawOf 32 (res (r * n + i)).1) (getV d (f.rd.toNat + r))) x)) d)) s)) s

/-- An exponent held to a range beyond which R144 gives the same result. -/
def clampExp (v : W64) : Int := max (-1024) (min 1024 v.toInt)

/-- VREQ: groups of 32 requantised, with the ordinals of R147 from s[RC] on. -/
def execVreq (y : YardRef) (f : YF) (s : State) : Res :=
  insn y f { pred := true, rd := true, ra := true, rb := true, rc := true, rnd := true, aux := 0x3FFF, fmts := [0, 2] } (fun d _ s =>
    let k := wideRegs f
    if 32 < f.ra.toNat + k then .fault tkIllegal none s
    else
      let fm := laneFmt f
      let w := laneBytes f.fmt.toNat
      let n := lanes d 4
      let xs : List Int := (List.range (lanes d w)).map fun i => elemAt .i32 (getV d (f.ra.toNat + i / n)) (i % n)
      let ord (i : Nat) : Nat := (getS d f.rc + BitVec.ofNat 64 i).toNat
      let stream : BitVec 16 := BitVec.ofNat 16 (auxBits f 13 0)
      let qs := (List.range ((xs.length + 31) / 32)).map fun b =>
        requant ((xs.drop (32 * b)).take 32) (clampExp (getS d f.rb)) (qmax fm) f.rnd.toNat
          fun i => rand16 d.seed d.step stream (ord (32 * b + i))
      let q := qs.flatMap fun x => x.q
      .done (modYard y (fun d =>
        let x := setV f.rd.toNat (putLanes d f w (fun i => rawOf (8 * w) (q.getD i 0)) (getV d f.rd.toNat)) d
        let old := getVs d f.rd.toNat
        setSat (qs.any (·.sat)) (setVs f.rd.toNat (putScales d f (fun b =>
          match (qs.drop b).head? with | some z => mkScale z.e z.m | none => old.getD b 0) old) x)) s)) s

/-! ## VTOPK and VREDS -/

/-- An entry of a list of 32: its value and its index. -/
abbrev TopEntry := Int × Nat

/-- An entry precedes another. -/
def topBefore (smallest : Bool) (a b : TopEntry) : Bool :=
  if a.1 = b.1 then decide (a.2 ≤ b.2) else if smallest then decide (a.1 < b.1) else decide (b.1 < a.1)

/-- VTOPK. -/
def execVtopk (y : YardRef) (f : YF) (s : State) : Res :=
  insn y f { pred := true, rd := true, ra := true, rb := true, aux := 1, fmts := [3] } (pureInsn y fun d =>
    let old := getV d f.rd.toNat
    let cur : List TopEntry := (List.range 32).map fun i => (elemAt .i32 old i, laneRaw old 4 (32 + i))
    let new : List TopEntry := (List.range (lanes d 4)).map fun i =>
      (elemAt .i32 (getV d f.ra.toNat) i, laneRaw (getV d f.rb.toNat) 4 i)
    let out := ((cur ++ new).mergeSort fun a b => topBefore (f.aux.getLsbD 0) a b).take 32
    let lane (i : Nat) : Nat := if i < 32 then rawOf 32 (out.getD i (0, 0)).1 else (out.getD (i - 32) (0, 0)).2
    copyScales f f.rd.toNat f.ra.toNat d
      (setV f.rd.toNat ((List.range 64).flatMap fun i => if laneOn d f 4 i then toLe 4 (lane i) else (old.drop (4 * i)).take 4) d)) s

/-- VREDS: with no active lane a minimum or maximum is free, the same in every run (R263). -/
def execVreds (y : YardRef) (f : YF) (s : State) : Res :=
  insn y f { rd := true, ra := true, aux := 3, fmts := [3, 4] } (fun d _ s =>
    let op := auxBits f 1 0
    let xs : List Int := (List.range (lanes d (laneBytes f.fmt.toNat))).map fun i => elemAt (laneFmt f) (getV d f.ra.toNat) i
    if op = 3 then .fault tkIllegal none s
    else if op = 0 then .done (modYard y (setS f.rd (BitVec.ofInt 64 xs.sum)) s)
    else match xs with
      | [] => .done (modYard y (setS f.rd (Config.noLanes op f.fmt.toNat)) s)
      | x :: xs => .done (modYard y (setS f.rd (BitVec.ofInt 64
          (xs.foldl (fun a b => if op = 1 then min a b else max a b) x))) s)) s

end Sys2Proof.Machine
end

