-- ==== Sys2Proof/Machine/Dispatch.lean ====
section
/-! DEFINITION. What each command does: one arm for each constructor of Instr, in the order of the table. -/

namespace Sys2Proof.Machine

/-- The effect of a command on everything but the queue. -/
def exec (i : Instr) (s : State) : Host.Outcome State Fault Refusal :=
  match i with
  | .powerOnReset b => Sys2Proof.Machine.execPowerOnReset b s
  | .firmwareBringup b => Sys2Proof.Machine.execFirmwareBringup b s
  | .railWaitExpiry shed => Sys2Proof.Machine.execRailWaitExpiry shed s
  | .deviceWarmReset c b => Sys2Proof.Machine.execDeviceWarmReset c b s
  | .shedReset c shed => Sys2Proof.Machine.execShedReset c shed s
  | .pciePortReset portB => Sys2Proof.Machine.execPciePortReset portB s
  | .functionLevelReset fn => Sys2Proof.Machine.execFunctionLevelReset fn s
  | .pcieLinkUp portB degraded => Sys2Proof.Machine.execPcieLinkUp portB degraded s
  | .pcieLinkDown portB => Sys2Proof.Machine.execPcieLinkDown portB s
  | .supplySag aonLow nvLow => Sys2Proof.Machine.execSupplySag aonLow nvLow s
  | .supplyResume => Sys2Proof.Machine.execSupplyResume s
  | .inputLevelAccept input level => Sys2Proof.Machine.execInputLevelAccept input level s
  | .chatterWindowEnd input => Sys2Proof.Machine.execChatterWindowEnd input s
  | .chatterQuietExpiry input => Sys2Proof.Machine.execChatterQuietExpiry input s
  | .elsStuck lantern => Sys2Proof.Machine.execElsStuck lantern s
  | .elsStuckExit lantern => Sys2Proof.Machine.execElsStuckExit lantern s
  | .refclkLoss input => Sys2Proof.Machine.execRefclkLoss input s
  | .refclkAonLoss => Sys2Proof.Machine.execRefclkAonLoss s
  | .pwrTjUpdate degC => Sys2Proof.Machine.execPwrTjUpdate degC s
  | .pwrAvgUpdate milliwatts => Sys2Proof.Machine.execPwrAvgUpdate milliwatts s
  | .islandFence island => Sys2Proof.Machine.execIslandFence island s
  | .islandRunning island stacksOk => Sys2Proof.Machine.execIslandRunning island stacksOk s
  | .homeSlotRebuildDone slot now => Sys2Proof.Machine.execHomeSlotRebuildDone slot now s
  | .unitFence shed kind unit cause => Sys2Proof.Machine.execUnitFence shed kind unit cause s
  | .read p => Sys2Proof.Machine.execRead p s
  | .write p => Sys2Proof.Machine.execWrite p s
  | .writeRelease p => Sys2Proof.Machine.execWriteRelease p s
  | .writeReleaseApply node seq => Sys2Proof.Machine.execWriteReleaseApply node seq s
  | .atomic p => Sys2Proof.Machine.execAtomic p s
  | .storeSettled node seq => Sys2Proof.Machine.execStoreSettled node seq s
  | .invalidate p => Sys2Proof.Machine.execInvalidate p s
  | .invalidateApply node seq => Sys2Proof.Machine.execInvalidateApply node seq s
  | .invalAck p => Sys2Proof.Machine.execInvalAck p s
  | .invalidationSlowThreshold id => Sys2Proof.Machine.execInvalidationSlowThreshold id s
  | .reduceContrib p => Sys2Proof.Machine.execReduceContrib p s
  | .reduceResult p => Sys2Proof.Machine.execReduceResult p s
  | .gatherReq p => Sys2Proof.Machine.execGatherReq p s
  | .filterReq p => Sys2Proof.Machine.execFilterReq p s
  | .requestToUnit shed kind => Sys2Proof.Machine.execRequestToUnit shed kind s
  | .gatherFetchDone id => Sys2Proof.Machine.execGatherFetchDone id s
  | .filterFetchDone id corrupt => Sys2Proof.Machine.execFilterFetchDone id corrupt s
  | .leaseRenew p => Sys2Proof.Machine.execLeaseRenew p s
  | .lendOffer p => Sys2Proof.Machine.execLendOffer p s
  | .recall p => Sys2Proof.Machine.execRecall p s
  | .recallDeadlineExpiry id => Sys2Proof.Machine.execRecallDeadlineExpiry id s
  | .partnerHello p => Sys2Proof.Machine.execPartnerHello p s
  | .ownerOffer p => Sys2Proof.Machine.execOwnerOffer p s
  | .ownerOfferApply node seq => Sys2Proof.Machine.execOwnerOfferApply node seq s
  | .ownerAccept p => Sys2Proof.Machine.execOwnerAccept p s
  | .ownerQuery p => Sys2Proof.Machine.execOwnerQuery p s
  | .transferTimerExpiry pen extent => Sys2Proof.Machine.execTransferTimerExpiry pen extent s
  | .acknowledgement p => Sys2Proof.Machine.execAcknowledgement p s
  | .ackDelayExpiry node => Sys2Proof.Machine.execAckDelayExpiry node s
  | .retransmitTimerExpiry node seq => Sys2Proof.Machine.execRetransmitTimerExpiry node seq s
  | .nack p => Sys2Proof.Machine.execNack p s
  | .readResp p => Sys2Proof.Machine.execReadResp p s
  | .writeAck p => Sys2Proof.Machine.execWriteAck p s
  | .routeMapLoad r => Sys2Proof.Machine.execRouteMapLoad r s
  | .routeMapCommit r => Sys2Proof.Machine.execRouteMapCommit r s
  | .previousMapQuietExpiry => Sys2Proof.Machine.execPreviousMapQuietExpiry s
  | .previousMapWindowExpiry => Sys2Proof.Machine.execPreviousMapWindowExpiry s
  | .extentAlloc r => Sys2Proof.Machine.execExtentAlloc r s
  | .extentFree r => Sys2Proof.Machine.execExtentFree r s
  | .extentScrubDone pen extent => Sys2Proof.Machine.execExtentScrubDone pen extent s
  | .extentMigrate r => Sys2Proof.Machine.execExtentMigrate r s
  | .migrationBlockStart pen extent => Sys2Proof.Machine.execMigrationBlockStart pen extent s
  | .migrationBlockAck pen extent => Sys2Proof.Machine.execMigrationBlockAck pen extent s
  | .migrationBlockTimeout pen extent => Sys2Proof.Machine.execMigrationBlockTimeout pen extent s
  | .migrationSourceError pen extent => Sys2Proof.Machine.execMigrationSourceError pen extent s
  | .patrolRead stack location ecc lastOfPass => Sys2Proof.Machine.execPatrolRead stack location ecc lastOfPass s
  | .locationRetireCopyDone stack location => Sys2Proof.Machine.execLocationRetireCopyDone stack location s
  | .forceFail c stack => Sys2Proof.Machine.execForceFail c stack s
  | .controlAreaResyncBlock half block => Sys2Proof.Machine.execControlAreaResyncBlock half block s
  | .controlBlockPlace half block => Sys2Proof.Machine.execControlBlockPlace half block s
  | .windowCreate r => Sys2Proof.Machine.execWindowCreate r s
  | .windowAdvance r => Sys2Proof.Machine.execWindowAdvance r s
  | .stageBlockDone window layer block => Sys2Proof.Machine.execStageBlockDone window layer block s
  | .stagedLayerDiscard window layer => Sys2Proof.Machine.execStagedLayerDiscard window layer s
  | .flashPagePadTimeout tray => Sys2Proof.Machine.execFlashPagePadTimeout tray s
  | .flashWriteDurable tray => Sys2Proof.Machine.execFlashWriteDurable tray s
  | .ftlCheckpoint tray => Sys2Proof.Machine.execFtlCheckpoint tray s
  | .ftlGarbageCollect tray => Sys2Proof.Machine.execFtlGarbageCollect tray s
  | .ftlWearLevel tray => Sys2Proof.Machine.execFtlWearLevel tray s
  | .ftlReadRelocate tray eraseBlock => Sys2Proof.Machine.execFtlReadRelocate tray eraseBlock s
  | .ftlAgeRefresh tray hour => Sys2Proof.Machine.execFtlAgeRefresh tray hour s
  | .flashTrayMountDone tray image => Sys2Proof.Machine.execFlashTrayMountDone tray image s
  | .ftlRefreshScanDone => Sys2Proof.Machine.execFtlRefreshScanDone s
  | .regionCreate r => Sys2Proof.Machine.execRegionCreate r s
  | .regionPublish r => Sys2Proof.Machine.execRegionPublish r s
  | .draftSeal pen extent => Sys2Proof.Machine.execDraftSeal pen extent s
  | .regionOpen r => Sys2Proof.Machine.execRegionOpen r s
  | .regionClose r => Sys2Proof.Machine.execRegionClose r s
  | .regionRetire r => Sys2Proof.Machine.execRegionRetire r s
  | .versionFree pen region version => Sys2Proof.Machine.execVersionFree pen region version s
  | .leaseSet r => Sys2Proof.Machine.execLeaseSet r s
  | .leaseSetRenew r => Sys2Proof.Machine.execLeaseSetRenew r s
  | .leaseRevoke r => Sys2Proof.Machine.execLeaseRevoke r s
  | .leaseTimerExpiry holder pen => Sys2Proof.Machine.execLeaseTimerExpiry holder pen s
  | .leaseGraceExpiry holder pen => Sys2Proof.Machine.execLeaseGraceExpiry holder pen s
  | .reclaimExtentScrub pen extent => Sys2Proof.Machine.execReclaimExtentScrub pen extent s
  | .tableBuild r => Sys2Proof.Machine.execTableBuild r s
  | .tableRetire r => Sys2Proof.Machine.execTableRetire r s
  | .tableRetireDone pen table => Sys2Proof.Machine.execTableRetireDone pen table s
  | .expanderEnqueue e pen slot desc bytes => Sys2Proof.Machine.execExpanderEnqueue e pen slot desc bytes s
  | .expanderTableLoadDone e slot => Sys2Proof.Machine.execExpanderTableLoadDone e slot s
  | .expanderBlockDeliver e => Sys2Proof.Machine.execExpanderBlockDeliver e s
  | .groupCreate r => Sys2Proof.Machine.execGroupCreate r s
  | .groupEvict r => Sys2Proof.Machine.execGroupEvict r s
  | .groupAdmit r => Sys2Proof.Machine.execGroupAdmit r s
  | .groupDestroy r => Sys2Proof.Machine.execGroupDestroy r s
  | .groupDestroyDone group => Sys2Proof.Machine.execGroupDestroyDone group s
  | .getHealthGroup r => Sys2Proof.Machine.execGetHealthGroup r s
  | .scoreWindowEnd group => Sys2Proof.Machine.execScoreWindowEnd group s
  | .reduceUnitFail shed unit => Sys2Proof.Machine.execReduceUnitFail shed unit s
  | .gatherUnitFail shed kind unit => Sys2Proof.Machine.execGatherUnitFail shed kind unit s
  | .matchTableLoad r => Sys2Proof.Machine.execMatchTableLoad r s
  | .matchHoleRestore shed part group => Sys2Proof.Machine.execMatchHoleRestore shed part group s
  | .matchParityScan shed ok => Sys2Proof.Machine.execMatchParityScan shed ok s
  | .matchRowRewrite shed row failed => Sys2Proof.Machine.execMatchRowRewrite shed row failed s
  | .matchBankLossRewrite shed => Sys2Proof.Machine.execMatchBankLossRewrite shed s
  | .sessionInsert r => Sys2Proof.Machine.execSessionInsert r s
  | .sessionDelete r => Sys2Proof.Machine.execSessionDelete r s
  | .sessionDeleteDone session => Sys2Proof.Machine.execSessionDeleteDone session s
  | .yardProgramLoad r => Sys2Proof.Machine.execYardProgramLoad r s
  | .yardProgramRemove r => Sys2Proof.Machine.execYardProgramRemove r s
  | .yardTaskSubmit r => Sys2Proof.Machine.execYardTaskSubmit r s
  | .taskDispatch y => Sys2Proof.Machine.execTaskDispatch y s
  | .taskTimeLimit y => Sys2Proof.Machine.execTaskTimeLimit y s
  | .yardFault y cause => Sys2Proof.Machine.execYardFault y cause s
  | .yardPipelineStall y => Sys2Proof.Machine.execYardPipelineStall y s
  | .yardSelftestStart y => Sys2Proof.Machine.execYardSelftestStart y s
  | .yardSelftestDone y result marginOk now => Sys2Proof.Machine.execYardSelftestDone y result marginOk now s
  | .streamBlockLanded y port => Sys2Proof.Machine.execStreamBlockLanded y port s
  | .sadd y f => Sys2Proof.Machine.execSadd y f s
  | .ssub y f => Sys2Proof.Machine.execSsub y f s
  | .smul y f => Sys2Proof.Machine.execSmul y f s
  | .smulh y f => Sys2Proof.Machine.execSmulh y f s
  | .sand y f => Sys2Proof.Machine.execSand y f s
  | .sor y f => Sys2Proof.Machine.execSor y f s
  | .sxor y f => Sys2Proof.Machine.execSxor y f s
  | .sshl y f => Sys2Proof.Machine.execSshl y f s
  | .sshr y f => Sys2Proof.Machine.execSshr y f s
  | .ssra y f => Sys2Proof.Machine.execSsra y f s
  | .smin y f => Sys2Proof.Machine.execSmin y f s
  | .smax y f => Sys2Proof.Machine.execSmax y f s
  | .sminu y f => Sys2Proof.Machine.execSminu y f s
  | .smaxu y f => Sys2Proof.Machine.execSmaxu y f s
  | .scmp y f => Sys2Proof.Machine.execScmp y f s
  | .smov y f => Sys2Proof.Machine.execSmov y f s
  | .sld y f => Sys2Proof.Machine.execSld y f s
  | .sst y f => Sys2Proof.Machine.execSst y f s
  | .sbrz y f => Sys2Proof.Machine.execSbrz y f s
  | .sbrnz y f => Sys2Proof.Machine.execSbrnz y f s
  | .sloop y f => Sys2Proof.Machine.execSloop y f s
  | .scall y f => Sys2Proof.Machine.execScall y f s
  | .sjmp y f => Sys2Proof.Machine.execSjmp y f s
  | .vadd y f => Sys2Proof.Machine.execVadd y f s
  | .vsub y f => Sys2Proof.Machine.execVsub y f s
  | .vmul y f => Sys2Proof.Machine.execVmul y f s
  | .vmin y f => Sys2Proof.Machine.execVmin y f s
  | .vmax y f => Sys2Proof.Machine.execVmax y f s
  | .vand y f => Sys2Proof.Machine.execVand y f s
  | .vor y f => Sys2Proof.Machine.execVor y f s
  | .vxor y f => Sys2Proof.Machine.execVxor y f s
  | .vshr y f => Sys2Proof.Machine.execVshr y f s
  | .vld y f => Sys2Proof.Machine.execVld y f s
  | .vst y f => Sys2Proof.Machine.execVst y f s
  | .vlds y f => Sys2Proof.Machine.execVlds y f s
  | .vsts y f => Sys2Proof.Machine.execVsts y f s
  | .vbcast y f => Sys2Proof.Machine.execVbcast y f s
  | .valign y f => Sys2Proof.Machine.execValign y f s
  | .vidx y f => Sys2Proof.Machine.execVidx y f s
  | .vcmp y f => Sys2Proof.Machine.execVcmp y f s
  | .vsel y f => Sys2Proof.Machine.execVsel y f s
  | .vplog y f => Sys2Proof.Machine.execVplog y f s
  | .vwiden y f => Sys2Proof.Machine.execVwiden y f s
  | .vreq y f => Sys2Proof.Machine.execVreq y f s
  | .vtopk y f => Sys2Proof.Machine.execVtopk y f s
  | .vreds y f => Sys2Proof.Machine.execVreds y f s
  | .mld y f => Sys2Proof.Machine.execMld y f s
  | .msld y f => Sys2Proof.Machine.execMsld y f s
  | .mzero y f => Sys2Proof.Machine.execMzero y f s
  | .mma y f => Sys2Proof.Machine.execMma y f s
  | .mmaK16 y f => Sys2Proof.Machine.execMmaK16 y f s
  | .mst y f => Sys2Proof.Machine.execMst y f s
  | .mrd y f => Sys2Proof.Machine.execMrd y f s
  | .strmOpen y f => Sys2Proof.Machine.execStrmOpen y f s
  | .strmRead y f => Sys2Proof.Machine.execStrmRead y f s
  | .strmWrite y f => Sys2Proof.Machine.execStrmWrite y f s
  | .strmClose y f => Sys2Proof.Machine.execStrmClose y f s
  | .strmStat y f => Sys2Proof.Machine.execStrmStat y f s
  | .sync y f => Sys2Proof.Machine.execSync y f s
  | .stepGet y f => Sys2Proof.Machine.execStepGet y f s
  | .stepSet y f => Sys2Proof.Machine.execStepSet y f s
  | .stepAdd y f => Sys2Proof.Machine.execStepAdd y f s
  | .seedGet y f => Sys2Proof.Machine.execSeedGet y f s
  | .seedSet y f => Sys2Proof.Machine.execSeedSet y f s
  | .taskend y f => Sys2Proof.Machine.execTaskend y f s
  | .sgetp y f => Sys2Proof.Machine.execSgetp y f s
  | .vsetl y f => Sys2Proof.Machine.execVsetl y f s
  | .sflag y f => Sys2Proof.Machine.execSflag y f s
  | .frameReceive fr now => Sys2Proof.Machine.execFrameReceive fr now s
  | .grantOpportunity port now => Sys2Proof.Machine.execGrantOpportunity port now s
  | .macLearn shed => Sys2Proof.Machine.execMacLearn shed s
  | .macAgeingExpiry mac vid => Sys2Proof.Machine.execMacAgeingExpiry mac vid s
  | .pfcFrameReceive port cls quanta => Sys2Proof.Machine.execPfcFrameReceive port cls quanta s
  | .pfcPauseExpiry port cls => Sys2Proof.Machine.execPfcPauseExpiry port cls s
  | .pfcXoffRefresh port cls => Sys2Proof.Machine.execPfcXoffRefresh port cls s
  | .pfcWatchdogTrip port cls => Sys2Proof.Machine.execPfcWatchdogTrip port cls s
  | .pfcWatchdogRecoveryEnd port cls => Sys2Proof.Machine.execPfcWatchdogRecoveryEnd port cls s
  | .gateIntervalBoundary port now => Sys2Proof.Machine.execGateIntervalBoundary port now s
  | .gateListLoad r => Sys2Proof.Machine.execGateListLoad r s
  | .voqSample shed now => Sys2Proof.Machine.execVoqSample shed now s
  | .shaperConfig r => Sys2Proof.Machine.execShaperConfig r s
  | .meterConfig r => Sys2Proof.Machine.execMeterConfig r s
  | .portRegisterWrite r => Sys2Proof.Machine.execPortRegisterWrite r s
  | .vlanMemberSet r => Sys2Proof.Machine.execVlanMemberSet r s
  | .staticMacLoad r => Sys2Proof.Machine.execStaticMacLoad r s
  | .rdS cache line => Sys2Proof.Machine.execRdS cache line s
  | .rdU cache line => Sys2Proof.Machine.execRdU cache line s
  | .upg cache line => Sys2Proof.Machine.execUpg cache line s
  | .wb cache line => Sys2Proof.Machine.execWb cache line s
  | .evc cache line => Sys2Proof.Machine.execEvc cache line s
  | .rdOnce ch line => Sys2Proof.Machine.execRdOnce ch line s
  | .wrFull ch line data => Sys2Proof.Machine.execWrFull ch line data s
  | .wrPart ch addr data => Sys2Proof.Machine.execWrPart ch addr data s
  | .snoopResponse cache line => Sys2Proof.Machine.execSnoopResponse cache line s
  | .homeTimeout line => Sys2Proof.Machine.execHomeTimeout line s
  | .homeFilterRebuild slot => Sys2Proof.Machine.execHomeFilterRebuild slot s
  | .dmaProgramLoad r => Sys2Proof.Machine.execDmaProgramLoad r s
  | .dmaProgramRemove r => Sys2Proof.Machine.execDmaProgramRemove r s
  | .dmaStart r => Sys2Proof.Machine.execDmaStart r s
  | .dmaResume r => Sys2Proof.Machine.execDmaResume r s
  | .dmaAbort r => Sys2Proof.Machine.execDmaAbort r s
  | .dmaBeat shed => Sys2Proof.Machine.execDmaBeat shed s
  | .dmaMove ch f => Sys2Proof.Machine.execDmaMove ch f s
  | .dmaFill ch f => Sys2Proof.Machine.execDmaFill ch f s
  | .dmaCompare ch f => Sys2Proof.Machine.execDmaCompare ch f s
  | .dmaLoop ch f => Sys2Proof.Machine.execDmaLoop ch f s
  | .dmaWait ch f => Sys2Proof.Machine.execDmaWait ch f s
  | .dmaWaitTimeout ch => Sys2Proof.Machine.execDmaWaitTimeout ch s
  | .dmaSignal ch f => Sys2Proof.Machine.execDmaSignal ch f s
  | .dmaEnd ch f => Sys2Proof.Machine.execDmaEnd ch f s
  | .dmaBusError shed cause space addr => Sys2Proof.Machine.execDmaBusError shed cause space addr s
  | .dmaEngineRecover shed => Sys2Proof.Machine.execDmaEngineRecover shed s
  | .mailboxDoorbell c chan bits now => Sys2Proof.Machine.execMailboxDoorbell c chan bits now s
  | .throttlePoll chan => Sys2Proof.Machine.execThrottlePoll chan s
  | .throttleExit chan => Sys2Proof.Machine.execThrottleExit chan s
  | .doorbellOutMaskWrite c chan mask => Sys2Proof.Machine.execDoorbellOutMaskWrite c chan mask s
  | .noticePost chan kind body => Sys2Proof.Machine.execNoticePost chan kind body s
  | .kprBeatTick => Sys2Proof.Machine.execKprBeatTick s
  | .keeperWatchdogExpiry now digestOk => Sys2Proof.Machine.execKeeperWatchdogExpiry now digestOk s
  | .keeperRestartDone => Sys2Proof.Machine.execKeeperRestartDone s
  | .echo r => Sys2Proof.Machine.execEcho r s
  | .getInfo r => Sys2Proof.Machine.execGetInfo r s
  | .getHealthDevice r => Sys2Proof.Machine.execGetHealthDevice r s
  | .getHealthPartner r => Sys2Proof.Machine.execGetHealthPartner r s
  | .penCreate r => Sys2Proof.Machine.execPenCreate r s
  | .penDestroy r => Sys2Proof.Machine.execPenDestroy r s
  | .teardownDrainDone pen => Sys2Proof.Machine.execTeardownDrainDone pen s
  | .teardownStep4Timeout pen => Sys2Proof.Machine.execTeardownStep4Timeout pen s
  | .tagSweepDone pen => Sys2Proof.Machine.execTagSweepDone pen s
  | .penRelease pen => Sys2Proof.Machine.execPenRelease pen s
  | .penSetQuota r => Sys2Proof.Machine.execPenSetQuota r s
  | .penKeyInstall r => Sys2Proof.Machine.execPenKeyInstall r s
  | .penKeyRemove r => Sys2Proof.Machine.execPenKeyRemove r s
  | .attestQuote r => Sys2Proof.Machine.execAttestQuote r s
  | .identityGet r => Sys2Proof.Machine.execIdentityGet r s
  | .svnRaise => Sys2Proof.Machine.execSvnRaise s
  | .sakDistribute port => Sys2Proof.Machine.execSakDistribute port s
  | .daymarkDefine r => Sys2Proof.Machine.execDaymarkDefine r s
  | .daymarkClear r => Sys2Proof.Machine.execDaymarkClear r s
  | .daymarkRearm r => Sys2Proof.Machine.execDaymarkRearm r s
  | .daymarkStop r => Sys2Proof.Machine.execDaymarkStop r s
  | .daymarkStart r => Sys2Proof.Machine.execDaymarkStart r s
  | .daymarkBare r => Sys2Proof.Machine.execDaymarkBare r s
  | .daymarkRead r => Sys2Proof.Machine.execDaymarkRead r s
  | .daymarkRecordWrite => Sys2Proof.Machine.execDaymarkRecordWrite s
  | .inputReplayRecord r => Sys2Proof.Machine.execInputReplayRecord r s
  | .inputReplayStop r => Sys2Proof.Machine.execInputReplayStop r s
  | .inputReplayRead r => Sys2Proof.Machine.execInputReplayRead r s
  | .inputReplayReplay r => Sys2Proof.Machine.execInputReplayReplay r s
  | .inputReplayFeed r => Sys2Proof.Machine.execInputReplayFeed r s
  | .inputReplayStatus r => Sys2Proof.Machine.execInputReplayStatus r s
  | .calibRun r => Sys2Proof.Machine.execCalibRun r s
  | .calibRunAbort r => Sys2Proof.Machine.execCalibRunAbort r s
  | .calibLanternDone lantern m => Sys2Proof.Machine.execCalibLanternDone lantern m s
  | .calibGet r => Sys2Proof.Machine.execCalibGet r s
  | .calibSet r => Sys2Proof.Machine.execCalibSet r s
  | .calibSetClear r => Sys2Proof.Machine.execCalibSetClear r s
  | .fwStage r => Sys2Proof.Machine.execFwStage r s
  | .fwActivate r => Sys2Proof.Machine.execFwActivate r s
  | .configGet r => Sys2Proof.Machine.execConfigGet r s
  | .configSet r => Sys2Proof.Machine.execConfigSet r s
  | .spareStatus r => Sys2Proof.Machine.execSpareStatus r s
  | .spareEngage r => Sys2Proof.Machine.execSpareEngage r s
  | .spareEngageNow r => Sys2Proof.Machine.execSpareEngageNow r s
  | .spareEngageComplete shed kind unit => Sys2Proof.Machine.execSpareEngageComplete shed kind unit s
  | .wearMonitorEval lantern m => Sys2Proof.Machine.execWearMonitorEval lantern m s
  | .loftRowError shed row uncorrectable now => Sys2Proof.Machine.execLoftRowError shed row uncorrectable now s
  | .partnerHealthWindow node => Sys2Proof.Machine.execPartnerHealthWindow node s
  | .sliceMove lantern lane => Sys2Proof.Machine.execSliceMove lantern lane s
  | .sliceRetuneDone lantern slice => Sys2Proof.Machine.execSliceRetuneDone lantern slice s
  | .laserInputChangeover lantern => Sys2Proof.Machine.execLaserInputChangeover lantern s
  | .laserInputForce c lantern => Sys2Proof.Machine.execLaserInputForce c lantern s
  | .llrReplay port codewords lost => Sys2Proof.Machine.execLlrReplay port codewords lost s
  | .lldpTransmit port => Sys2Proof.Machine.execLldpTransmit port s
  | .lldpReceive port chassis portId molup ttl => Sys2Proof.Machine.execLldpReceive port chassis portId molup ttl s
  | .lldpTtlExpiry port => Sys2Proof.Machine.execLldpTtlExpiry port s
  | .fabricLinkUp port peerLlr => Sys2Proof.Machine.execFabricLinkUp port peerLlr s
  | .fabricLinkDown port now => Sys2Proof.Machine.execFabricLinkDown port now s
  | .flapSuppressEnd port now => Sys2Proof.Machine.execFlapSuppressEnd port now s
  | .detachHoldExpiry node => Sys2Proof.Machine.execDetachHoldExpiry node s
  | .apertureRead fn offset length => Sys2Proof.Machine.execApertureRead fn offset length s
  | .apertureWrite fn offset data => Sys2Proof.Machine.execApertureWrite fn offset data s
  | .aprHiWrite c w value => Sys2Proof.Machine.execAprHiWrite c w value s
  | .registerWrite c offset size value => Sys2Proof.Machine.execRegisterWrite c offset size value s
  | .registerRcRead c offset size => Sys2Proof.Machine.execRegisterRcRead c offset size s
  | .mkpduReceive port ckn mi prio sak => Sys2Proof.Machine.execMkpduReceive port ckn mi prio sak s
  | .avsbusRetry shed ok => Sys2Proof.Machine.execAvsbusRetry shed ok s
  | .loRegisterRead c offset size => Sys2Proof.Machine.execLoRegisterRead c offset size s

end Sys2Proof.Machine
end

