-- ==== Sys2Proof/Safety.lean ====
section
/-! DEFINITION. What counts as a safe run of the block, and the terms in which the statements speak of its commands. -/

namespace Sys2Proof.Machine

/-- A step that completes: it answers a next state. -/
def Completes (s : State) : Prop := ∃ t, step s = .next t

/-- A request of the command catalogue that the Keeper takes and that passes every check of R329: its command has its own
effect. -/
structure Accepts (c : Cmd) (isIn : Bool) (r : Req) (s : State) : Prop where
  takes : takesNow c.op r s = true
  passes : requestStatus s c isIn r = stOk

/-! ## CMX requests (R22) -/

/-- The state in which a packet that stations 2 and 3 and its pair's check letIn has arrived: a packet that is no store
counts as settled (R93). -/
def received (op : BitVec 8) (p : Rx) (s : State) : State :=
  if isStore op then (letIn op p s).2 else settle p.src p.seq (letIn op p s).2

/-- That state with the request counted under its epoch (R100). -/
def counted (op : BitVec 8) (p : Rx) (s : State) : State := (takePick (admitEpoch p.epoch (received op p s))).2

/-- The state in which a request that passes stations 5 to 8 has its effect: its translation is cached (R36), a control
request is recorded (R391). -/
def station9 (op : BitVec 8) (p : Rx) (s : State) : State :=
  recordPacket op p (if namesExtent op p then touchEtc (portShed p.port) (rxKey (counted op p s) p) (counted op p s)
    else counted op p s)

/-- A request that passes stations 2 to 8, whichever control block its translation reads. -/
structure Passes (op : BitVec 8) (p : Rx) (s : State) : Prop where
  admitted : (letIn op p s).1 = true
  epoch : epochCheck (received op p s) p.epoch = none
  gates : ∀ walk, gates op p walk (counted op p s) = .pass

/-- An extent whose block lies in the near tier, with its key installed, no migration and no other access under way. -/
structure NearBlock (k : ExtKey) (blk b : Nat) (s : State) : Prop where
  valid : (extAt s k).v = true
  kept : (extAt s k).st ≠ .lost
  keyed : (memKey s k.1 (extAt s k).keyId).isSome = true
  still : migOf s k = none
  tier : (extAt s k).tier = .near
  place : b = 512 * (extAt s k).frame.toNat + blk
  free : s.pool.jobs = []

/-- The state with one more access numbered. -/
def jobCounted (s : State) : State := { s with pool := { s.pool with nextJob := s.pool.nextJob + 1 } }

/-! ## Yard instructions (R233, R236 to R240) -/

/-- An instruction that a Yard takes: the Yard works, a task runs on it, no matrix load before it waits, and its fields are
those that it uses. -/
structure Issues (y : YardRef) (f : YF) (u : Uses) (t : Task) (s : State) : Prop where
  works : yardWorks s y = true
  task : (yard s y).task = some t
  free : (yard s y).mload = none
  fields : legal f u = true
  word : reservedAt y s t (yard s y).pc = false

/-- The state after an instruction that computes on the Yard's registers and retires. -/
def ran (y : YardRef) (g : Yard → Yard) (s : State) : State := settleInsn y (.done (modYard y g s))

/-- The state after a jump. -/
def jumped (y : YardRef) (pc : W64) (s : State) : State := settleInsn y (.jump pc s)

/-- A vector register after a lane-wise instruction (R239, R240): the written lanes hold the results, those that the
predicate masks and the bytes beyond VL are unchanged, the scale lane is copied from v[RA], and no other register changes. -/
structure LaneWise (f : YF) (res : Nat → Nat) (d e : Yard) : Prop where
  on : ∀ i, i < lanes d (laneBytes f.fmt.toNat) → laneOn d f (laneBytes f.fmt.toNat) i = true →
    laneRaw (getV e f.rd.toNat) (laneBytes f.fmt.toNat) i = res i % 2 ^ (8 * laneBytes f.fmt.toNat)
  off : ∀ i, i < lanes d (laneBytes f.fmt.toNat) → laneOn d f (laneBytes f.fmt.toNat) i = false →
    laneRaw (getV e f.rd.toNat) (laneBytes f.fmt.toNat) i = laneRaw (getV d f.rd.toNat) (laneBytes f.fmt.toNat) i
  beyond : ∀ j, laneBytes f.fmt.toNat * lanes d (laneBytes f.fmt.toNat) ≤ j →
    (getV e f.rd.toNat).getD j 0 = (getV d f.rd.toNat).getD j 0
  scales : getVs e f.rd.toNat = putScales d f (fun b => (getVs d f.ra.toNat).getD b 0) (getVs d f.rd.toNat)
  others : ∀ r, r < 32 → r ≠ f.rd.toNat → getV e r = getV d r ∧ getVs e r = getVs d r
  rest : e.s = d.s ∧ e.p = d.p ∧ e.t = d.t ∧ e.ts = d.ts ∧ e.acc = d.acc ∧ e.scratch = d.scratch ∧ e.tags = d.tags ∧
    e.vl = d.vl ∧ e.step = d.step ∧ e.seed = d.seed

/-! ## Lines and DMA channels (R301, R311) -/

/-- A line whose home serves a request at once: it lies in device space, no transaction runs for it, its slot is in place,
no request waits, and its cells are in their form. -/
structure QuietLine (line : BitVec 32) (s : State) : Prop where
  there : lineExists s line = true
  free : aGet s.coh.busy line = none
  placed : cohWaits s line = false
  queue : s.coh.queue = []
  wf : memWf s.coh.mem = true

/-- A DMA instruction that a channel takes: the channel runs, its engine is Ready, no instruction is in progress, the stored
program holds it at the pc, and its fields are those that it uses. -/
structure DmaIssues (c : DmaIx) (op : BitVec 8) (f : DF) (u : DUses) (s : State) : Prop where
  works : islRunning s (shcOf (dmaShed c)) = true
  ready : (eng s (dmaShed c)).st = 0
  running : (dch s c).st = .running
  free : (dch s c).xfer = none
  stored : dmaAt s (dch s c) = some (dmaWord op f)
  fields : dmaLegal f u = true

/-- Every memory of the machine is in its canonical form: near tier, device space, host memories, mailbox rings, the Daymark
buffer, the Yards' scratch. -/
structure MemsWf (s : State) : Prop where
  near : memWf s.near.mem = true
  space : memWf s.coh.mem = true
  host : ∀ h ∈ s.host, memWf h.2 = true
  rings : ∀ c ∈ s.chans, memWf c.2.reqRing = true ∧ memWf c.2.rspRing = true
  daymark : memWf s.dmk.buf = true
  scratch : ∀ y ∈ s.work.yards, memWf y.2.scratch = true

end Sys2Proof.Machine
end

