-- ==== Sys2Proof/WellFormed.lean ====
section
/-! DEFINITION. Which commands the outside can send at all: the lengths and ranges that a row's carrier fixes, so that a
term outside them stands for no event of the hardware. exec is total on ill-formed terms too. -/

namespace Sys2Proof

/-- A packet's payload is what its UDP payload holds beyond the 40 B header (R75, R76). -/
def Rx.wf (p : Rx) : Bool := p.payload.length == p.l2.udpLen - 40 && decide (p.l2.udpLen < 65536)

/-- A request slot of 256 B leaves 232 B to the payload (R325). -/
def Req.wf (r : Req) : Bool := decide (r.payload.length ≤ 232)

/-- A frame's captured bytes are at most its own and at most 256 (R293), and a frame is 64 B long at least (R281). -/
def frameWf (f : Frame) : Bool :=
  decide (64 ≤ f.len) && decide (f.head.length ≤ f.len) && decide (f.head.length ≤ 256)

/-- The measurements of a Lantern: 36 slices, each with 22 B: the four items of R452. -/
def calibWf (m : CalibFacts) : Bool :=
  m.slices.length == 36 && m.slices.all fun x => match x with | some b => b.length == 22 | none => true

/-- A register access is of 1, 2, 4 or 8 B within the 64 MiB of BAR0 (R460). -/
def accessWf (offset : BitVec 26) (size : Nat) : Bool := [1, 2, 4, 8].contains size && decide (offset.toNat + size ≤ 2 ^ 26)

/-- A command that the outside can send. -/
def Instr.wf : Instr → Bool
  | .read p | .write p | .writeRelease p | .atomic p | .invalidate p | .invalAck p | .reduceContrib p
  | .reduceResult p | .gatherReq p | .filterReq p | .leaseRenew p | .lendOffer p | .recall p | .partnerHello p
  | .ownerOffer p | .ownerAccept p | .ownerQuery p | .acknowledgement p | .nack p | .readResp p | .writeAck p => p.wf
  | .routeMapLoad r | .routeMapCommit r | .extentAlloc r | .extentFree r | .extentMigrate r | .windowCreate r
  | .windowAdvance r | .regionCreate r | .regionPublish r | .regionOpen r | .regionClose r | .regionRetire r
  | .leaseSet r | .leaseSetRenew r | .leaseRevoke r | .tableBuild r | .tableRetire r | .groupCreate r
  | .groupEvict r | .groupAdmit r | .groupDestroy r | .getHealthGroup r | .matchTableLoad r | .sessionInsert r
  | .sessionDelete r | .yardProgramLoad r | .yardProgramRemove r | .yardTaskSubmit r | .gateListLoad r
  | .shaperConfig r | .meterConfig r | .portRegisterWrite r | .vlanMemberSet r | .staticMacLoad r
  | .dmaProgramLoad r | .dmaProgramRemove r | .dmaStart r | .dmaResume r | .dmaAbort r | .echo r | .getInfo r
  | .getHealthDevice r | .getHealthPartner r | .penCreate r | .penDestroy r | .penSetQuota r | .penKeyInstall r
  | .penKeyRemove r | .attestQuote r | .identityGet r | .daymarkDefine r | .daymarkClear r | .daymarkRearm r
  | .daymarkStop r | .daymarkStart r | .daymarkBare r | .daymarkRead r | .inputReplayRecord r | .inputReplayStop r
  | .inputReplayRead r | .inputReplayReplay r | .inputReplayFeed r | .inputReplayStatus r | .calibRun r
  | .calibRunAbort r | .calibGet r | .calibSet r | .calibSetClear r | .fwStage r | .fwActivate r | .configGet r
  | .configSet r | .spareStatus r | .spareEngage r | .spareEngageNow r => r.wf
  | .patrolRead _ location _ _ => decide (location < 12582912)
  | .locationRetireCopyDone _ location => decide (location < 12582912)
  | .expanderEnqueue _ _ _ _ bytes => decide (bytes.length ≤ 4096)
  | .matchHoleRestore _ _ group => decide (group < 67584)
  | .matchRowRewrite _ row _ => decide (row < 67584)
  | .frameReceive fr _ => frameWf fr
  | .wrFull _ _ data => data.length == 128
  | .wrPart _ addr data => decide (0 < data.length) && decide (addr.toNat % 128 + data.length ≤ 128)
  | .noticePost _ _ body => decide (body.length ≤ 496)
  | .calibLanternDone _ m => calibWf m
  | .wearMonitorEval _ m => m.slices.length == 36
  | .llrReplay _ codewords lost => decide (lost ≤ codewords)
  | .lldpReceive _ chassis portId _ _ => decide (chassis.length ≤ 255) && decide (portId.length ≤ 255)
  | .apertureRead _ _ length => decide (0 < length) && decide (length ≤ 4096)
  | .apertureWrite _ _ data => decide (0 < data.length) && decide (data.length ≤ 4096)
  | .registerWrite _ offset size _ => accessWf offset size
  | .registerRcRead _ offset size => accessWf offset size
  | .mkpduReceive _ ckn _ _ _ => decide (ckn.length ≤ 32)
  | .loRegisterRead _ offset size => accessWf offset size
  | .powerOnReset _ | .firmwareBringup _ | .railWaitExpiry _ | .deviceWarmReset _ _ | .shedReset _ _
  | .pciePortReset _ | .functionLevelReset _ | .pcieLinkUp _ _ | .pcieLinkDown _ | .supplySag _ _ | .supplyResume
  | .inputLevelAccept _ _ | .chatterWindowEnd _ | .chatterQuietExpiry _ | .elsStuck _ | .elsStuckExit _
  | .refclkLoss _ | .refclkAonLoss | .pwrTjUpdate _ | .pwrAvgUpdate _ | .islandFence _ | .islandRunning _ _
  | .homeSlotRebuildDone _ _ | .unitFence _ _ _ _ | .writeReleaseApply _ _ | .storeSettled _ _
  | .invalidateApply _ _ | .invalidationSlowThreshold _ | .requestToUnit _ _ | .gatherFetchDone _
  | .filterFetchDone _ _ | .recallDeadlineExpiry _ | .ownerOfferApply _ _ | .transferTimerExpiry _ _
  | .ackDelayExpiry _ | .retransmitTimerExpiry _ _ | .previousMapQuietExpiry | .previousMapWindowExpiry
  | .extentScrubDone _ _ | .migrationBlockStart _ _ | .migrationBlockAck _ _ | .migrationBlockTimeout _ _
  | .migrationSourceError _ _ | .forceFail _ _ | .controlAreaResyncBlock _ _ | .controlBlockPlace _ _
  | .stageBlockDone _ _ _ | .stagedLayerDiscard _ _ | .flashPagePadTimeout _ | .flashWriteDurable _
  | .ftlCheckpoint _ | .ftlGarbageCollect _ | .ftlWearLevel _ | .ftlReadRelocate _ _ | .ftlAgeRefresh _ _
  | .flashTrayMountDone _ _ | .ftlRefreshScanDone | .draftSeal _ _ | .versionFree _ _ _ | .leaseTimerExpiry _ _
  | .leaseGraceExpiry _ _ | .reclaimExtentScrub _ _ | .tableRetireDone _ _ | .expanderTableLoadDone _ _
  | .expanderBlockDeliver _ | .groupDestroyDone _ | .scoreWindowEnd _ | .reduceUnitFail _ _ | .gatherUnitFail _ _ _
  | .matchParityScan _ _ | .matchBankLossRewrite _ | .sessionDeleteDone _ | .taskDispatch _ | .taskTimeLimit _
  | .yardFault _ _ | .yardPipelineStall _ | .yardSelftestStart _ | .yardSelftestDone _ _ _ _
  | .streamBlockLanded _ _ | .sadd _ _ | .ssub _ _ | .smul _ _ | .smulh _ _ | .sand _ _ | .sor _ _ | .sxor _ _
  | .sshl _ _ | .sshr _ _ | .ssra _ _ | .smin _ _ | .smax _ _ | .sminu _ _ | .smaxu _ _ | .scmp _ _ | .smov _ _
  | .sld _ _ | .sst _ _ | .sbrz _ _ | .sbrnz _ _ | .sloop _ _ | .scall _ _ | .sjmp _ _ | .vadd _ _ | .vsub _ _
  | .vmul _ _ | .vmin _ _ | .vmax _ _ | .vand _ _ | .vor _ _ | .vxor _ _ | .vshr _ _ | .vld _ _ | .vst _ _
  | .vlds _ _ | .vsts _ _ | .vbcast _ _ | .valign _ _ | .vidx _ _ | .vcmp _ _ | .vsel _ _ | .vplog _ _
  | .vwiden _ _ | .vreq _ _ | .vtopk _ _ | .vreds _ _ | .mld _ _ | .msld _ _ | .mzero _ _ | .mma _ _ | .mmaK16 _ _
  | .mst _ _ | .mrd _ _ | .strmOpen _ _ | .strmRead _ _ | .strmWrite _ _ | .strmClose _ _ | .strmStat _ _
  | .sync _ _ | .stepGet _ _ | .stepSet _ _ | .stepAdd _ _ | .seedGet _ _ | .seedSet _ _ | .taskend _ _
  | .sgetp _ _ | .vsetl _ _ | .sflag _ _ | .grantOpportunity _ _ | .macLearn _ | .macAgeingExpiry _ _
  | .pfcFrameReceive _ _ _ | .pfcPauseExpiry _ _ | .pfcXoffRefresh _ _ | .pfcWatchdogTrip _ _
  | .pfcWatchdogRecoveryEnd _ _ | .gateIntervalBoundary _ _ | .voqSample _ _ | .rdS _ _ | .rdU _ _ | .upg _ _
  | .wb _ _ | .evc _ _ | .rdOnce _ _ | .snoopResponse _ _ | .homeTimeout _ | .homeFilterRebuild _ | .dmaBeat _
  | .dmaMove _ _ | .dmaFill _ _ | .dmaCompare _ _ | .dmaLoop _ _ | .dmaWait _ _ | .dmaWaitTimeout _
  | .dmaSignal _ _ | .dmaEnd _ _ | .dmaBusError _ _ _ _ | .dmaEngineRecover _ | .mailboxDoorbell _ _ _ _
  | .throttlePoll _ | .throttleExit _ | .doorbellOutMaskWrite _ _ _ | .kprBeatTick | .keeperWatchdogExpiry _ _
  | .keeperRestartDone | .teardownDrainDone _ | .teardownStep4Timeout _ | .tagSweepDone _ | .penRelease _
  | .svnRaise | .sakDistribute _ | .daymarkRecordWrite | .spareEngageComplete _ _ _ | .loftRowError _ _ _ _
  | .partnerHealthWindow _ | .sliceMove _ _ | .sliceRetuneDone _ _ | .laserInputChangeover _ | .laserInputForce _ _
  | .lldpTransmit _ | .lldpTtlExpiry _ | .fabricLinkUp _ _ | .fabricLinkDown _ _ | .flapSuppressEnd _ _
  | .detachHoldExpiry _ | .aprHiWrite _ _ _ | .avsbusRetry _ _ => true

end Sys2Proof
end

