-- ==== Sys2Proof/Certificates/Slice0/Obligations.lean ====
section
/-! DEFINITION. What the model states for proof: one statement each, from the numbered rules of the spec. A statement of a
command's completion says under which state and operands the command has its own effect, and what the next state is; where
the next state is given as an update of `s`, everything that the update does not name is unchanged. -/

open Sys2Proof Sys2Proof.Machine

/-! ## Supplies, temperature, power, reference clocks, filtered inputs (R374, R381, R409, R410, R453 to R456, R470, R478) -/

/-- R453, R454: a sag of either rail stops non-volatile writes, is counted and leaves its event; the resumption releases the
lock (with BOOT_SRC other than 2) and makes the Keeper's kept appends in order. Nothing else changes. R470, R478, R479, R374:
PWR_TJ takes the hottest sensor; the first reading of 100 °C or more sets THERM in GLB_CAUSE and its hysteresis ends below 95
°C; 115 °C latches THERM_TRIP_N; PWR_AVG takes the second's average to the nearest 10 W. -/
def Obligations.SuppliesAndTemperature : Prop :=
  (∀ (a n : Bool) (s : State), (a || n) = true → s.power.aonLow = false → s.power.nvLow = false →
    exec (.supplySag a n) s = .next { s with
      power := { s.power with aonLow := a, nvLow := n, holdoff := false, brnCnt := satInc s.power.brnCnt,
                              brnEvt := orBit s.power.brnEvt 0 },
      jnl := { s.jnl with nvLock := true },
      dmk := dmkTake { source := 0xFFFFFFFF, code := 0x200, island := 0 }
        (dmkTake { source := 0x10018, code := 0, island := 0 } s.dmk) }) ∧
  (∀ s : State, (s.power.aonLow || s.power.nvLow) = true → s.glb.bootSrc ≠ 2 →
    ∃ t, exec .supplyResume s = .next t ∧ t.jnl.nvLock = false ∧ t.jnl.own = [] ∧ t.power.aonLow = false ∧
      t.power.nvLow = false ∧ t.power.brnEvt.getLsbD 1 = true ∧
      t.jnl.gen = s.jnl.gen + BitVec.ofNat 32 s.jnl.own.length ∧
      { t with power := s.power, jnl := s.jnl, nor := s.nor, dmk := s.dmk } = s) ∧
  (∀ (d : BitVec 8) (s : State), ∃ t, exec (.pwrTjUpdate d) s = .next t ∧ t.power.tj = d ∧
    t.power.thermTrip = (s.power.thermTrip || decide (115 ≤ d.toNat)) ∧
    t.power.thermOn = (decide (100 ≤ d.toNat) || (s.power.thermOn && decide (95 ≤ d.toNat))) ∧
    t.glb = (if s.power.thermOn = false ∧ 100 ≤ d.toNat then { s.glb with cause := orBit s.glb.cause 2 } else s.glb) ∧
    { t with power := s.power, glb := s.glb, dmk := s.dmk } = s) ∧
  (∀ (mw : Nat) (s : State), exec (.pwrAvgUpdate mw) s =
    .next { s with power := { s.power with avg := BitVec.ofNat 12 ((mw + 5000) / 10000 * 10) } }) ∧
  (∀ (sh : ShedIx) (s : State), sh ∈ s.power.avsRetry → ∃ t, exec (.avsbusRetry sh true) s = .next t ∧
    t.power.avsRetry = s.power.avsRetry.erase sh ∧ sh ∈ t.power.avsSet ∧ { t with power := s.power } = s)

/-- R381: the loss of the reference input in use moves the five islands of its Shed to the other input of the pair, which
stay in their states (the loss of the other one moves nothing; with both lost the SHC island is fenced, R380, where an
input stays lost until a device warm reset by the model's choice, log 199); the loss of the AON reference moves AON, KPR
and SEC to the internal oscillator. Each leaves REF_CHANGED. R455, R456, R410: a Normal input that is no PERST and no
ELS_FAULT_N presents an accepted level and counts its edge; an input over the edge limit enters Chatter with the level it
had before the window, and any other begins a new window; quiet ends Chatter, a pin low too long becomes Stuck and is
ignored, and a high pin ends Stuck. -/
def Obligations.ReferencesAndInputs : Prop :=
  (∀ (i : Fin 8) (s : State), (island s (shcOf (shedOf (i.val / 2)))).refAlt = decide (i.val % 2 = 1) →
    pairedRef i ∉ s.power.refLost →
    ∃ t, exec (.refclkLoss i) s = .next t ∧
      (∀ k : IslandIx, (island t k).refAlt =
        if shedOfIsland k = some (shedOf (i.val / 2)) then decide (i.val % 2 = 0) else (island s k).refAlt) ∧
      (∀ k : IslandIx, (island t k).state = (island s k).state) ∧ t.power.islEvt.getLsbD 1 = true ∧
      { t with isl := s.isl, power := s.power, dmk := s.dmk } = s) ∧
  (∀ (i : Fin 8) (s : State), (island s (shcOf (shedOf (i.val / 2)))).refAlt = decide (i.val % 2 = 0) →
    pairedRef i ∉ s.power.refLost →
    exec (.refclkLoss i) s = .next { s with power := { s.power with refLost :=
      if i ∈ s.power.refLost then s.power.refLost else s.power.refLost ++ [i] } }) ∧
  (∀ (i : Fin 8) (s : State), pairedRef i ∈ s.power.refLost → ∃ t,
    exec (.refclkLoss i) s = exec (.islandFence (shcOf (shedOf (i.val / 2)))) t ∧ i ∈ t.power.refLost ∧
      { t with power := s.power } = s) ∧
  (∀ s : State, (island s 0).refAlt = false → ∃ t, exec .refclkAonLoss s = .next t ∧
      (∀ k : IslandIx, (island t k).refAlt = (decide (k.val < 3) || (island s k).refAlt)) ∧
      (∀ k : IslandIx, (island t k).state = (island s k).state) ∧ t.power.islEvt.getLsbD 1 = true ∧
      { t with isl := s.isl, power := s.power, dmk := s.dmk } = s) ∧
  (∀ (i : Fin 38) (l : Bool) (s : State), 22 ≤ i.val → (input s i).pin ≠ l → (input s i).state = .normal →
    ∃ t, exec (.inputLevelAccept i l) s = .next t ∧ (input t i).pin = l ∧ (input t i).level = l ∧
      (input t i).edges.toNat = min 2047 ((input s i).edges.toNat + 1) ∧
      (∀ j, j ≠ i → input t j = input s j) ∧ { t with inputs := s.inputs } = s) ∧
  (∀ (i : Fin 38) (s : State), 22 ≤ i.val → (input s i).state = .normal → chatterLimit s < (input s i).edges.toNat →
    ∃ t, exec (.chatterWindowEnd i) s = .next t ∧ (input t i).state = .chatter ∧ (input t i).level = (input s i).atStart ∧
      t.infEvt.getLsbD 0 = true ∧ { t with inputs := s.inputs, infEvt := s.infEvt, dmk := s.dmk } = s) ∧
  (∀ (i : Fin 38) (s : State), (input s i).edges.toNat ≤ chatterLimit s →
    ∃ t, exec (.chatterWindowEnd i) s = .next t ∧
      input t i = { input s i with edges := 0, atStart := (input s i).level } ∧ { t with inputs := s.inputs } = s) ∧
  (∀ (i : Fin 38) (s : State), 22 ≤ i.val → (input s i).state = .chatter →
    ∃ t, exec (.chatterQuietExpiry i) s = .next t ∧ (input t i).state = .normal ∧ (input t i).level = (input s i).pin ∧
      t.infEvt.getLsbD 2 = true ∧ { t with inputs := s.inputs, infEvt := s.infEvt, dmk := s.dmk } = s) ∧
  (∀ (l : StackIx) (s : State), (input s (elsInput l)).state = .normal → (input s (elsInput l)).pin = false →
    ∃ t, exec (.elsStuck l) s = .next t ∧ (input t (elsInput l)).state = .stuck ∧ (lantern t l).elsIgnored = true ∧
      t.infEvt.getLsbD 1 = true ∧
      { t with inputs := s.inputs, lanterns := s.lanterns, infEvt := s.infEvt, dmk := s.dmk } = s) ∧
  (∀ (l : StackIx) (s : State), (input s (elsInput l)).state = .stuck → (input s (elsInput l)).pin = true →
    (input s (elsInput l)).level = true →
    ∃ t, exec (.elsStuckExit l) s = .next t ∧ (input t (elsInput l)).state = .normal ∧ (lantern t l).elsIgnored = false ∧
      t.infEvt.getLsbD 2 = true ∧
      { t with inputs := s.inputs, lanterns := s.lanterns, infEvt := s.infEvt, dmk := s.dmk } = s)


/-! ## Mailboxes (R321 to R340) -/

/-- R329: a request that the Keeper takes and that fails a check is answered with the status of the first failing check, with
an empty result, and has no other effect; one that the Keeper does not take waits. Stated of one command of each shape. R340:
ECHO returns its payload; GET_INFO returns versions, channel, binding, level and restarts; GET_HEALTH selector 0 returns the
level, the islands and, on an admin channel, the power; selector 1 returns the record of a partner. -/
def Obligations.ChecksAndInfoCommands : Prop :=
  (∀ (r : Req) (s : State),
    (takesNow 0x1 r s = true → requestStatus s (cmdEcho r) false r ≠ stOk → exec (.echo r) s =
      .next (post (replyOf s 0x1 r) (requestStatus s (cmdEcho r) false r) [] (takeRequest 0x1 false r s))) ∧
    (takesNow 0x10 r s = true → requestStatus s cmdPenCreate false r ≠ stOk → exec (.penCreate r) s =
      .next (post (replyOf s 0x10 r) (requestStatus s cmdPenCreate false r) [] (takeRequest 0x10 false r s))) ∧
    (takesNow 0xC1 r s = true → requestStatus s cmdDaymarkRead false r ≠ stOk → exec (.daymarkRead r) s =
      .next (post (replyOf s 0xC1 r) (requestStatus s cmdDaymarkRead false r) [] (takeRequest 0xC1 false r s))) ∧
    (takesNow 0x13 r s = true → requestStatus s cmdPenKeyInstall true r ≠ stOk → exec (.penKeyInstall r) s =
      .next (post (replyOf s 0x13 r) (requestStatus s cmdPenKeyInstall true r) [] (takeRequest 0x13 true r s))) ∧
    (takesNow 0x1 r s = false → exec (.echo r) s = .next s) ∧
    (takesNow 0x10 r s = false → exec (.penCreate r) s = .next s)) ∧
  (∀ (r : Req) (s : State),
    (Accepts (cmdEcho r) false r s →
      exec (.echo r) s = .next (post (replyOf s 0x1 r) stOk r.payload (takeRequest 0x1 false r s))) ∧
    (Accepts cmdGetInfo false r s → exec (.getInfo r) s = .next (post (replyOf s 0x2 r) stOk
      (toLe 4 s.jnl.fwVersion.toNat ++ toLe 4 Config.romVersion.toNat ++ toLe 2 r.chan.val
        ++ toLe 2 (if (chan s r.chan).bound ∧ r.chan.val < 128 then (chan s r.chan).pen.toNat else 0xFFFF)
        ++ [s.glb.svc.setWidth 8, BitVec.ofNat 8 s.kpr.restarts.toNat]) (takeRequest 0x2 false r s))) ∧
    (Accepts (cmdGetHealth 0) false r s → exec (.getHealthDevice r) s = .next (post (replyOf s 0x3 r) stOk
      ([s.glb.svc.setWidth 8] ++ (List.range 25).map (fun i => BitVec.ofNat 8 (islCode (island s (islNo i)).state)) ++ [0, 0]
        ++ toLe 4 (if r.chan.val = 0 ∨ r.chan.val = 64 then s.power.avg.toNat else 0)) (takeRequest 0x3 false r s))) ∧
    (∀ p, Accepts (cmdGetHealth 1) false r s → aGet s.partners (fieldLe 16 r.payload 4 4) = some p →
      ∃ res, exec (.getHealthPartner r) s = .next (post (replyOf s 0x3 r) stOk res (takeRequest 0x3 false r s)) ∧
        res.take 6 = toLe 2 (fieldLe 16 r.payload 4 4).toNat ++
          [p.score, p.last, p.role.setWidth 8, BitVec.ofNat 8 (partnerCode p.state)]))

/-- R326, R327, R331: a response that is posted outside a replay puts its slot at RSP_PROD modulo 16 of the response ring,
advances RSP_PROD, ends the request's count as unanswered, and sets outbound bit 0; a response to a channel reset since is
discarded (R334). -/
def Obligations.PostedResponse : Prop :=
  ∀ (p : Reply) (st : Nat) (res : List Byte) (s : State),
    ((chan s p.chan).gen ≠ p.gen → post p st res s = s) ∧
    ((chan s p.chan).gen = p.gen → p.replayed = false →
      let t := post p st res s
      (chan t p.chan).rspProd = (chan s p.chan).rspProd + 1 ∧
      (chan t p.chan).taken = (chan s p.chan).taken.erase (p.op, p.tag) ∧
      (chan t p.chan).dbOut.getLsbD 0 = true ∧
      (∀ i < 256, readByte (chan t p.chan).rspRing (256 * ((chan s p.chan).rspProd.toNat % 16) + i) =
        (rspSlot p.op st p.tag res).getD i 0) ∧
      (∀ a, a < 256 * ((chan s p.chan).rspProd.toNat % 16) ∨ 256 * ((chan s p.chan).rspProd.toNat % 16) + 256 ≤ a →
        readByte (chan t p.chan).rspRing a = readByte (chan s p.chan).rspRing a) ∧
      (∀ c, c ≠ p.chan → chan t c = chan s c) ∧
      { t with chans := s.chans, fns := s.fns, out := s.out, pairs := s.pairs, sw := s.sw, routes := s.routes,
               dmk := s.dmk, ijn := s.ijn, fresh := s.fresh } = s)

/-- R330 to R332, R335, R338: a doorbell of the owning function sets inbound bits, which the Keeper clears when it has served
them; the poll of a Throttled channel serves its ring; a quiet Throttled channel is released; a write of the outbound mask
takes effect and raises no message for bits that are clear; the beat advances COUNT; a notice with room in an empty ring is
written to the next entry. -/
def Obligations.DoorbellsAndBeat : Prop :=
  (∀ (f : FnIx) (c : ChanIx) (bits : W32) (now : Nat) (s : State), f.val = c.val → s.kpr.state ≠ .running →
    s.glb.boot ≠ .recovery → s.ijn.state ≠ .recording →
    ∃ t, exec (.mailboxDoorbell (.fn f) c bits now) s = .next t ∧ (chan t c).dbIn = (chan s c).dbIn ||| bits ∧
      (∀ d, d ≠ c → chan t d = chan s d) ∧ { t with chans := s.chans } = s) ∧
  (∀ (f : FnIx) (c : ChanIx) (bits : W32) (now : Nat) (s : State), f.val = c.val → s.kpr.state = .running →
    s.ijn.state ≠ .recording → (chan s c).dbIn = 0 → bits.getLsbD 0 = false → bits.getLsbD 1 = false →
    ∃ t, exec (.mailboxDoorbell (.fn f) c bits now) s = .next t ∧ (chan t c).dbIn = 0) ∧
  (∀ (c : ChanIx) (s : State), (chan s c).throttled = true → ringsOk (chan s c) = true → serves s 0 c = true →
    (chan s c).reqProd = (chan s c).reqCons →
    ∃ t, exec (.throttlePoll c) s = .next t ∧ (chan t c).dbIn = (chan s c).dbIn &&& ~~~1 ∧
      (∀ d, d ≠ c → chan t d = chan s d) ∧ { t with chans := s.chans } = s) ∧
  (∀ (c : ChanIx) (s : State), (chan s c).throttled = true → s.kpr.state = .running → (chan s c).dbIn = 0 →
    ∃ t, exec (.throttleExit c) s = .next t ∧ (chan t c).throttled = false ∧ (chan t c).dbInMask.getLsbD 0 = false ∧
      { t with chans := s.chans } = s) ∧
  (∀ (f : FnIx) (c : ChanIx) (m : W32) (s : State), f.val = c.val →
    (∀ b < 32, (chan s c).dbOut.getLsbD b = true → (chan s c).dbOutMask.getLsbD b = true → m.getLsbD b = true) →
    exec (.doorbellOutMaskWrite (.fn f) c m) s = .next (modChan c (fun q => { q with dbOutMask := m }) s)) ∧
  (∀ s : State, s.kpr.state = .running →
    exec .kprBeatTick s = .next { s with kpr := { s.kpr with count := s.kpr.count + 1 } }) ∧
  (∀ (c : ChanIx) (k : BitVec 16) (body : List Byte) (s : State), (chan s c).ntcKinds.getLsbD k.toNat = true →
    s.ijn.state = .idle → s.kpr.state = .running → (chan s c).held = [] → ringRoom (chan s c) = true →
    ∃ t, exec (.noticePost c k body) s = .next t ∧ (chan t c).ntcProd = (chan s c).ntcProd + 1 ∧
      (chan t c).ntcSeq = (chan s c).ntcSeq + 1 ∧ (chan t c).dbOut.getLsbD 1 = true ∧
      (∀ i < 512, readByte (hostMem t (chanMem s c))
          ((chan s c).ringBase.toNat + 512 * ((chan s c).ntcProd.toNat % (chan s c).ringEntries.toNat) + i) =
        (noticeEntry { kind := k, seq := (chan s c).ntcSeq, body } (chan s c).ntcLost).getD i 0))

/-! ## Pens, keys, attestation (R340, R351, R360 to R372) -/

/-- R340, R351, R360 to R372: PEN_CREATE makes a free Pen Active with its seed and binds the channels of the mask;
PEN_KEY_INSTALL of TYPE 1 installs a key whose every check passes; IDENTITY_GET and ATTEST_QUOTE write their bytes to the
Out buffer; SVN_RAISE raises the fuse to the image's SVN; SAK_DISTRIBUTE begins a new SAK with packet number 0;
MKPDU_RECEIVE under an installed CKN makes the device key server where its priority value is the lower. -/
def Obligations.PensAndKeys : Prop :=
  (∀ (r : Req) (s : State) (p : BitVec 12), Accepts cmdPenCreate false r s → leAt r.payload 0 2 = p.toNat → p ≠ 0 →
    (∀ c ∈ maskChannels (leAt r.payload 16 16), c % 64 ≠ 0 ∧ (chan s (Fin.ofNat 160 c)).bound = false) →
    (pen s p).state = .free →
    ∃ u, exec (.penCreate r) s = .next (post (replyOf s 0x10 r) stOk [] u) ∧
      pen u p = { state := .active, seed := fieldLe 64 r.payload 4 8,
                  channels := (maskChannels (leAt r.payload 16 16)).map fun c => Fin.ofNat 160 c } ∧
      (∀ c ∈ maskChannels (leAt r.payload 16 16), (chan u (Fin.ofNat 160 c)).bound = true ∧ (chan u (Fin.ofNat 160 c)).pen = p) ∧
      (∀ q, q ≠ p → pen u q = pen s q) ∧
      { u with pens := s.pens, chans := s.chans, ijn := s.ijn, fresh := s.fresh } = s) ∧
  (∀ (r : Req) (s : State), Accepts cmdPenKeyInstall true r s → keyFormatOk (inBuf s r) = true →
    beAt (inBuf s r) 1 1 = 1 → r.blen.toNat = 1688 → keyNamesOk (inBuf s r) r.payload = true →
    keyInstalled s (BitVec.ofNat 12 (leAt r.payload 0 2)) (BitVec.ofNat 8 (leAt r.payload 2 1)) = false →
    s.sec.keys.length < 16384 → (penKeys s (BitVec.ofNat 12 (leAt r.payload 0 2))).length < 16 →
    ∃ t, exec (.penKeyInstall r) s = .next t ∧
      (∀ m, unwrapKey (inBuf s r) = some m → t = post (replyOf s 0x13 r) stOk [] { takeRequest 0x13 true r s with
        sec := { s.sec with
          keys := aSet s.sec.keys (BitVec.ofNat 12 (leAt r.payload 0 2), BitVec.ofNat 8 (leAt r.payload 2 1)) m } }) ∧
      (unwrapKey (inBuf s r) = none →
        t = post (replyOf s 0x13 r) stAuthFail []
          (authFail (BitVec.ofNat 12 (leAt r.payload 0 2)).toNat (takeRequest 0x13 true r s)))) ∧
  (∀ (r : Req) (s : State), Accepts cmdIdentityGet false r s → 6056 ≤ r.blen.toNat → r.bufOk = true →
    exec (.identityGet r) s = .next (post (replyOf s 0xF1 r) stOk (toLe 4 6056)
      (bufWrite r.chan r.buf.toNat identityRecords (takeRequest 0xF1 false r s)))) ∧
  (∀ (r : Req) (s : State), Accepts cmdAttestQuote false r s → callerClass s r.chan = .admin →
    leAt r.payload 0 2 = 0xFFFF → 1344 + 80 * s.sec.log.length ≤ r.blen.toNat → r.bufOk = true →
    exec (.attestQuote r) s = .next (post (replyOf s 0xF0 r) stOk (toLe 4 (1344 + 80 * s.sec.log.length))
      (bufWrite r.chan r.buf.toNat (quoteBytes s 0xFFFF ((r.payload.drop 4).take 32)) (takeRequest 0xF0 false r s)))) ∧
  (∀ s : State, s.kpr.state = .running → s.jnl.runRaise = true → s.power.aonLow = false → s.power.nvLow = false →
    exec .svnRaise s = .next { s with fuses := { s.fuses with minSvn := max s.fuses.minSvn s.jnl.runSvn.toNat } }) ∧
  (∀ (p : PortIx) (s : State) (c : Secy), s.kpr.state = .running → (port s p).secy = some c → c.server = true →
    ∃ t, exec (.sakDistribute p) s = .next t ∧
      (port t p).secy = some { c with sak := bytesOf (Config.free 256 s.fresh), pn := 0 } ∧
      t.out = s.out ++ [.mka p (bytesOf (Config.free 256 s.fresh))] ∧
      (∀ q, q ≠ p → port t q = port s q) ∧ { t with ports := s.ports, out := s.out, fresh := s.fresh } = s) ∧
  (∀ (p : PortIx) (ckn : List Byte) (mi : BitVec 96) (prio : BitVec 8) (sak : Option (List Byte)) (s : State) (c : Secy),
    s.kpr.state = .running → (port s p).macsec = true → (∃ k ∈ s.sec.caks, k.ckn = ckn) → (port s p).secy = some c →
    (port s p).mka.toNat < prio.toNat →
    ∃ t, exec (.mkpduReceive p ckn mi prio sak) s = .next t ∧ (port t p).secy = some { c with ckn, server := true } ∧
      (port t p).peerMka = some prio ∧ (∀ q, q ≠ p → port t q = port s q) ∧
      { t with ports := s.ports, fresh := s.fresh } = s)

/-! ## Daymark and Input Journal (R391 to R402) -/

/-- R399, R402: DEFINE puts a trigger into a free number; CLEAR deletes one; REARM zeroes the buffer, starts SEQ again,
advances GEN, ends Full and Frozen and arms every trigger; STOP, START and BARE write DMK_CTL; DAYMARK_READ copies bytes of
the buffer. R391 to R393: RECORD clears the journal and begins to record with a start marker; STOP ends a recording or a
replay; READ copies the journal's bytes; REPLAY begins a session; STATUS names the state and the divergence. -/
def Obligations.DaymarkAndJournalCommands : Prop :=
  (∀ (r : Req) (s : State),
    (Accepts (cmdArm 0) true r s → leAt r.payload 1 1 ≤ 31 → leAt r.payload 2 1 ≤ 3 → leAt r.payload 12 1 ≤ 64 →
      leAt r.payload 3 1 = 0 → r.blen.toNat = 4 * leAt r.payload 12 1 →
      aGet s.dmk.triggers (Fin.ofNat 32 (leAt r.payload 1 1)) = none →
      (∀ o ∈ snapOffsets (inBuf s r) (leAt r.payload 12 1), o.toNat % 4 = 0 ∧ snapForbidden o.toNat = false) →
      exec (.daymarkDefine r) s = .next (post (replyOf s 0xC0 r) stOk [] { takeRequest 0xC0 true r s with
        dmk := { s.dmk with
          triggers := aSet s.dmk.triggers (Fin.ofNat 32 (leAt r.payload 1 1))
            { oneshot := (leAt r.payload 2 1).testBit 0, freeze := (leAt r.payload 2 1).testBit 1,
              source := fieldLe 32 r.payload 4 4, code := fieldLe 16 r.payload 8 2, count := fieldLe 16 r.payload 10 2,
              offsets := snapOffsets (inBuf s r) (leAt r.payload 12 1) } } })) ∧
    (Accepts (cmdArm 1) false r s → leAt r.payload 1 1 ≤ 31 →
      ∃ u, exec (.daymarkClear r) s = .next (post (replyOf s 0xC0 r) stOk [] u) ∧
        aGet u.dmk.triggers (Fin.ofNat 32 (leAt r.payload 1 1)) = none ∧
        (∀ k, k ≠ Fin.ofNat 32 (leAt r.payload 1 1) → aGet u.dmk.triggers k = aGet s.dmk.triggers k) ∧
        { u with dmk := s.dmk } = takeRequest 0xC0 false r s) ∧
    (Accepts (cmdArm 2) false r s →
      ∃ u, exec (.daymarkRearm r) s = .next (post (replyOf s 0xC0 r) stOk [] u) ∧
        u.dmk.buf = [] ∧ u.dmk.writeSeq = 0 ∧ u.dmk.gen = s.dmk.gen + 1 ∧ u.dmk.full = false ∧ u.dmk.frozen = false ∧
        (∀ t ∈ u.dmk.triggers, t.2.armed = true ∧ t.2.hits = 0) ∧ u.dmk.en = s.dmk.en ∧
        { u with dmk := s.dmk } = takeRequest 0xC0 false r s) ∧
    (Accepts (cmdArm 3) false r s → exec (.daymarkStop r) s = .next (post (replyOf s 0xC0 r) stOk []
      { takeRequest 0xC0 false r s with dmk := { s.dmk with en := false } })) ∧
    (Accepts (cmdArm 4) false r s → exec (.daymarkStart r) s = .next (post (replyOf s 0xC0 r) stOk []
      { takeRequest 0xC0 false r s with dmk := { s.dmk with en := true } })) ∧
    (Accepts (cmdArm 5) false r s → leAt r.payload 1 1 ≤ 1 → exec (.daymarkBare r) s =
      .next (post (replyOf s 0xC0 r) stOk []
        { takeRequest 0xC0 false r s with dmk := { s.dmk with bare := leAt r.payload 1 1 == 1 } })) ∧
    (Accepts cmdDaymarkRead false r s → leAt r.payload 0 4 % 64 = 0 → leAt r.payload 0 4 + leAt r.payload 4 4 ≤ 4194304 →
      leAt r.payload 4 4 ≤ r.blen.toNat → r.bufOk = true →
      exec (.daymarkRead r) s = .next (post (replyOf s 0xC1 r) stOk
        (toLe 4 s.dmk.gen.toNat ++ toLe 4 s.dmk.writeSeq.toNat ++ toLe 4 (leAt r.payload 4 4))
        (bufWrite r.chan r.buf.toNat (readBytes s.dmk.buf (leAt r.payload 0 4) (leAt r.payload 4 4))
          (takeRequest 0xC1 false r s))))) ∧
  (∀ (r : Req) (s : State),
    (Accepts (cmdReplay 0) false r s → s.ijn.state = .idle → s.ijn.area ≠ 0 →
      ∃ u, exec (.inputReplayRecord r) s = .next (post (replyOf s 0xC2 r) stOk [] u) ∧ u.ijn.area = s.ijn.area ∧
        (128 ≤ s.ijn.area → u.ijn.state = .recording ∧ u.ijn.records = 1 ∧ u.ijn.bytes.length = 128) ∧
        (s.ijn.area < 128 → u.ijn.state = .full ∧ u.ijn.bytes = [])) ∧
    (Accepts (cmdReplay 1) false r s → s.ijn.state = .replaying →
      ∃ u, exec (.inputReplayStop r) s = .next (post (replyOf s 0xC2 r) stOk [] u) ∧ u.ijn.state = .idle ∧
        u.ijn.bytes = s.ijn.bytes ∧ { u with ijn := s.ijn, fresh := s.fresh, chans := s.chans } = s) ∧
    (Accepts (cmdReplay 2) false r s → s.ijn.state = .idle → r.bufOk = true → exec (.inputReplayRead r) s =
      .next (post (replyOf s 0xC2 r) stOk (toLe 8 s.ijn.bytes.length ++ toLe 4 s.ijn.records.toNat)
        (bufWrite r.chan r.buf.toNat ((s.ijn.bytes.drop (leAt r.payload 4 8)).take r.blen.toNat)
          (takeRequest 0xC2 false r s)))) ∧
    (Accepts (cmdReplay 3) false r s → s.ijn.state = .idle → exec (.inputReplayReplay r) s =
      .next (post (replyOf s 0xC2 r) stOk [] { takeRequest 0xC2 false r s with
        ijn := { ({} : InputJournal) with area := s.ijn.area, state := .replaying, total := leAt r.payload 4 8 } })) ∧
    (Accepts (cmdReplay 5) false r s → s.ijn.state ≠ .recording → exec (.inputReplayStatus r) s =
      .next (post (replyOf s 0xC2 r) stOk ([BitVec.ofNat 8 (ijnCode s.ijn.state), 0, 0, 0] ++ toLe 4 s.ijn.replayed.toNat
        ++ toLe 4 s.ijn.divSeq.toNat ++ toLe 4 s.ijn.divExp.toNat ++ toLe 4 s.ijn.divObs.toNat)
        (takeRequest 0xC2 false r s))))


/-! ## Resets, boot, islands, service levels, the Keeper (R15 to R29, R334, R347 to R350, R427 to R438, R467, R469) -/

/-- R26: an evaluation of the level gives SVC_LEVEL the highest satisfied level and sets the cause bit of GLB_CAUSE that
drives ALERT_N exactly where the level falls; an unchanged level has no effect. R26, R423: a link of a PCIe port whose island
runs comes up, degraded or not, and goes down; SVC_LEVEL follows. -/
def Obligations.LevelsAndPcieLinks : Prop :=
  (∀ s : State,
    (levelOf s = s.glb.svc → evalLevel s = s) ∧ (evalLevel s).glb.svc = levelOf s ∧
    (levelRank s.glb.svc ≤ levelRank (levelOf s) → (evalLevel s).glb.cause = s.glb.cause) ∧
    (levelRank (levelOf s) < levelRank s.glb.svc → (evalLevel s).glb.cause = orBit s.glb.cause 0 ∧
      alertLow (evalLevel s) = true) ∧
    (evalLevel s).isl = s.isl ∧ (evalLevel s).pens = s.pens ∧ (evalLevel s).near = s.near ∧ (evalLevel s).pool = s.pool) ∧
  (∀ (dg : Bool) (s : State), islRunning s 3 = true → s.pcieA.perst = false → s.glb.boot ≠ .rom →
    ∃ t, exec (.pcieLinkUp false dg) s = .next t ∧ t.pcieA = { s.pcieA with up := true, degraded := dg } ∧
      t.glb.svc = levelOf { s with pcieA := { s.pcieA with up := true, degraded := dg } } ∧
      t.isl = s.isl ∧ t.pcieB = s.pcieB ∧ t.pens = s.pens) ∧
  (∀ (dg : Bool) (s : State), islRunning s 4 = true → s.pcieB.perst = false → s.glb.boot ≠ .rom →
    ∃ t, exec (.pcieLinkUp true dg) s = .next t ∧ t.pcieB = { s.pcieB with up := true, degraded := dg } ∧
      t.glb.svc = levelOf { s with pcieB := { s.pcieB with up := true, degraded := dg } } ∧
      t.isl = s.isl ∧ t.pcieA = s.pcieA ∧ t.pens = s.pens) ∧
  (∀ s : State, ∃ t, exec (.pcieLinkDown false) s = .next t ∧ t.pcieA = { s.pcieA with up := false } ∧
      t.glb.svc = levelOf { s with pcieA := { s.pcieA with up := false } } ∧ t.isl = s.isl ∧ t.pcieB = s.pcieB) ∧
  (∀ s : State, ∃ t, exec (.pcieLinkDown true) s = .next t ∧ t.pcieB = { s.pcieB with up := false } ∧
      t.glb.svc = levelOf { s with pcieB := { s.pcieB with up := false } } ∧ t.isl = s.isl ∧ t.pcieA = s.pcieA)

/-- R334, R427, R431: a function-level reset returns the indices, doorbells, masks and local keys of the function's channel,
of every channel of its port for a PF0, to reset, keeps the binding, discards what its taken commands would answer and clears
the function's aperture table; PERST of a port does so for the port, whose link goes down and whose island turns Off. R431,
R432, R437: POWER_ON_RESET boots the state that keeps nothing but the NOR and the fuses; DEVICE_WARM_RESET, asked for by a
PF0, the state that keeps the Daymark, the input filters and the Failed stacks besides; a self-test of the security engine
that fails ends the boot with its cause bit, AON alone running; else a device key is drawn (R359), and without a
NOR device the boot ends with AON, KPR and SEC running. What the outside holds is untouched. -/
def Obligations.Resets : Prop :=
  (∀ (f : FnIx) (s : State), ∃ t, exec (.functionLevelReset f) s = .next t ∧
    (∀ c ∈ resetChannelsOf f, chan t c = { ({} : Channel) with
      pen := (chan s c).pen, bound := (chan s c).bound, peerNode := (chan s c).peerNode, evt := (chan s c).evt,
      ntcDrop := (chan s c).ntcDrop, reqRing := (chan s c).reqRing, rspRing := (chan s c).rspRing, asked := (chan s c).asked,
      gen := (chan s c).gen + 1 }) ∧
    (∀ c, c ∉ resetChannelsOf f → chan t c = chan s c) ∧
    (∀ g ∈ resetFnsOf f, fnSt t g = { ({} : Fn) with errCnt := (fnSt s g).errCnt, aprEvt := (fnSt s g).aprEvt }) ∧
    (∀ g, g ∉ resetFnsOf f → fnSt t g = fnSt s g) ∧
    { t with chans := s.chans, fns := s.fns, share := s.share } = s) ∧
  (∀ s : State, ∃ t, exec (.pciePortReset false) s = .next t ∧ t.pcieA = { up := false, degraded := false, perst := true } ∧
    (island t 3).state = .off ∧ t.pcieB = s.pcieB ∧ (∀ i, i ≠ 3 → island t i = island s i)) ∧
  (∀ s : State, ∃ t, exec (.pciePortReset true) s = .next t ∧ t.pcieB = { up := false, degraded := false, perst := true } ∧
    (island t 4).state = .off ∧ t.pcieA = s.pcieA ∧ (∀ i, i ≠ 4 → island t i = island s i)) ∧
  (∀ (b : BootFacts) (s : State), ∃ u, exec (.powerOnReset b) s = .next (bootRom b u) ∧
    u = { State.reset with pending := s.pending, fresh := s.fresh, out := s.out, host := s.host, nor := s.nor,
                           fuses := s.fuses, inputs := pinInputs b.pins }) ∧
  (∀ (b : BootFacts) (s : State), b.secOk = false → ∃ t, exec (.powerOnReset b) s = .next t ∧
    t.glb.cause.getLsbD 4 = true ∧ (∀ i : IslandIx, (island t i).state = if i.val = 0 then .running else .off) ∧
    t.nor = s.nor ∧ t.fuses = s.fuses ∧ t.pens = [] ∧ t.chans = [] ∧ t.sec.keys = []) ∧
  (∀ (b : BootFacts) (s : State), b.secOk = true → b.norOk = false → ∃ t k, exec (.powerOnReset b) s = .next t ∧
    t.sec.devKey = some k ∧ (∀ i : IslandIx, (island t i).state = if i.val ≤ 2 then .running else .off) ∧
    t.nor = s.nor ∧ t.fuses = s.fuses ∧ t.pens = [] ∧ t.chans = [] ∧ t.sec.keys = []) ∧
  (∀ (f : FnIx) (b : BootFacts) (s : State), f.val % 64 = 0 → ∃ u, exec (.deviceWarmReset (.fn f) b) s = .next (bootRom b u) ∧
    u.dmk = s.dmk ∧ u.inputs = s.inputs ∧ u.infEvt = s.infEvt ∧ u.nor = s.nor ∧ u.fuses = s.fuses ∧ u.host = s.host ∧
    u.pens = [] ∧ u.chans = [] ∧ u.sec.keys = [] ∧ u.groups = [] ∧ u.pairs = [] ∧
    (∀ k : StackIx, stackFailed u k = stackFailed s k) ∧ (∀ i : IslandIx, (island u i).state = .off)) ∧
  (∀ (f : FnIx) (sh : ShedIx) (s : State), f.val % 64 = 0 → s.glb.warm = false → s.glb.shedRst = false →
    s.glb.shedResetOn = none → s.kpr.state = .running →
    exec (.shedReset (.fn f) sh) s = .next (endShedReset (releaseShed sh (resetShed sh (fenceIsland (shcOf sh)
      { s with glb := { s.glb with shedRst := false, shedSel := sh, shedResetOn := some sh } }))))) ∧
  (∀ (f : FnIx) (sh : ShedIx) (s : State), f.val % 64 = 0 → s.glb.warm = false → s.glb.shedRst = true →
    s.glb.shedSel ≠ sh → s.glb.shedResetOn = none → exec (.shedReset (.fn f) sh) s =
      .next (coded 0x20C 0 { s with glb := { s.glb with refused := true } }))

/-- R429, R437: the bring-up brings up the Sheds in ascending order, engages spares that waited, spreads the home slots of
Sheds that have not come up and evaluates the level; a Shed whose wait for supplies ran out first stays Off. -/
def Obligations.BringUp : Prop :=
  (∀ (b : BringupFacts) (s : State), s.glb.boot = .firmware → s.kpr.state = .running → ∃ u,
    u = bringShed b (bringShed b (bringShed b (bringShed b s 0) 1) 2) 3 ∧ exec (.firmwareBringup b) s =
      .next (evalLevel (rewriteHomes (engageWaiting true { u with glb := { u.glb with boot := .up } })))) ∧
  (∀ (b : BringupFacts) (s : State) (sh : ShedIx), shedPowered b s sh = false → bringShed b s sh = s) ∧
  (∀ (b : BringupFacts) (s : State) (sh : ShedIx), shedPowered b s sh = true → (island s (shcOf sh)).state = .off →
    b.shcOk.getLsbD sh.val = false → ∀ i, (island (bringShed b s sh) i).state = (island s i).state) ∧
  (∀ (sh : ShedIx) (s : State), s.glb.boot = .firmware → sh ∉ s.glb.railAbsent →
    ∃ t, exec (.railWaitExpiry sh) s = .next t ∧ t.glb.railAbsent = s.glb.railAbsent ++ [sh] ∧ t.isl = s.isl ∧
      t.glb.boot = .firmware)

/-- R15, R18, R20, R429: an island that fails shows Fenced with every island that depends on it, and what depends on the
fence follows; a Starting island whose dependence runs comes to run; a rebuilt home slot is no longer moving and lets its
waiting requests go on. R347, R348, R350: an expiry of the watchdog takes the Keeper into its restart; a third within 600 s
of the first of them leaves it halted with its cause bit; the restart's end makes the Keeper run again and does what R348
lists, in its order. -/
def Obligations.IslandsAndKeeper : Prop :=
  (∀ (i : IslandIx) (s : State), (island s i).state = .running ∨ (island s i).state = .starting →
    exec (.islandFence i) s = .next (endShedReset (fenceIsland i s))) ∧
  (∀ (i : IslandIx) (s : State), ∃ u, u = ((dependents i).filter fun j => !islFenced s j).foldl showFenced s ∧
    (∀ j ∈ dependents i, islFenced u j = true) ∧ (∀ j, j ∉ dependents i → island u j = island s j) ∧
    { u with isl := s.isl, power := s.power, dmk := s.dmk } = s) ∧
  (∀ (i : IslandIx) (b : BitVec 2) (s : State), (island s i).state = .starting → islRunning s 0 = true →
    (∀ j, parentIsland i = some j → islRunning s j = true) → ∃ u,
    exec (.islandRunning i b) s = .next (bootOn (endShedReset (releaseWaits none (wakeJobs
      (evalLevelBy (BitVec.ofNat 8 i.val) 2 (moveHomes u)))))) ∧ (island u i).state = .running ∧ (island u i).pll = true) ∧
  (∀ (n : Fin 4) (now : Nat) (s : State), slotMoving s n = true → islRunning s (shcOf (homeMap s n)) = true → ∃ u,
    exec (.homeSlotRebuildDone n now) s = .next ((u.coh.queue.map (·.1)).foldl
      (fun s l => serveLine l (u.coh.queue.length + 1) s) u) ∧
    u = resumeAllocs (wakeJobs (settleHeld n (releaseWaits (some n) (restartEvictions n now
      { s with glb := { s.glb with moving := s.glb.moving.filter fun k => ¬ k = n } }))))) ∧
  (∀ (now : Nat) (s : State), s.kpr.state = .running →
    (s.kpr.expiries.filter fun t => now < t + 600000000000).length < 2 →
    ∃ t, exec (.keeperWatchdogExpiry now true) s = .next t ∧ t.kpr.state = .restarting ∧ t.kpr.restartCause = 0 ∧
      t.kpr.expiries = (s.kpr.expiries.filter fun t => now < t + 600000000000) ++ [now] ∧ t.glb = s.glb ∧ t.pens = s.pens) ∧
  (∀ (now : Nat) (ok : Bool) (s : State), s.kpr.state = .running →
    2 ≤ (s.kpr.expiries.filter fun t => now < t + 600000000000).length →
    ∃ t, exec (.keeperWatchdogExpiry now ok) s = .next t ∧ t.kpr.state = .halted ∧ t.glb.cause.getLsbD 1 = true ∧
      { t with kpr := s.kpr, glb := s.glb, dmk := s.dmk } = s) ∧
  (∀ s : State, s.kpr.state = .restarting → ∃ u v,
    u = dropWaiting (answerTaken (answerActivate
      { s with kpr := { s.kpr with state := .running, restarts := s.kpr.restarts + 1 } })) ∧
    v = drainSheds (allChans.foldl (fun s c => notice c 0xA (restartBody s) s) u) ∧
    exec .keeperRestartDone s = .next (serveChans allChans
      (keeperOwed (allChans.foldl (fun s c => flushNotices c 64 s) v))))


/-! ## The journal, the firmware image, calibration (R439 to R452) -/

/-- R337, R345, R448, R449: CONFIG_GET of a setting gives the journal's value or the default; CONFIG_SET of a channel-local
key writes it and returns the notice indices to 0; CONFIG_SET of a setting in range appends a record, applies it and logs it;
while non-volatile writes are stopped it ends with NV_LOCKED and writes nothing. R444 to R446: where neither a repair nor the
75 % limit asks for a compaction, an append puts a committed record with the next sequence number last in the active half and
leaves the other half alone; a compaction leaves the live records alone in a complete half of the next generation, which
becomes active, and the old half erased. R447: the configuration generation that the mount finds is the SEQ of the last
committed record, 0 of an empty journal; an append makes it its record's SEQ, and a compaction leaves it as it is. -/
def Obligations.ConfigurationJournal : Prop :=
  (∀ (r : Req) (s : State) (row : SettingRow), Accepts (cmdConfigGet r) false r s → settingRow (reqKey r) = some row →
    localLen (reqKey r) = none → jValue s (reqKey r) = none →
    exec (.configGet r) s = .next (post (replyOf s 0x100 r) stOk (toLe 4 8 ++ toLe 8 row.dflt) (takeRequest 0x100 false r s))) ∧
  (∀ (r : Req) (s : State), Accepts (cmdConfigSet r) true r s → reqKey r = 0xFFFF0001 → leAt r.payload 4 4 = 4 →
    (chan s r.chan).held = [] →
    (leAt r.payload 8 4 = 0 ∨ (isPow2 (leAt r.payload 8 4) = true ∧ 16 ≤ leAt r.payload 8 4 ∧ leAt r.payload 8 4 ≤ 65536)) →
    ∃ u, exec (.configSet r) s = .next (post (replyOf s 0x101 r) stOk [] u) ∧
      (chan u r.chan).ringEntries.toNat = leAt r.payload 8 4 ∧ (chan u r.chan).ntcProd = 0 ∧ (chan u r.chan).ntcCons = 0 ∧
      (∀ c, c ≠ r.chan → chan u c = chan s c) ∧ u.jnl = s.jnl ∧ u.nor = s.nor) ∧
  (∀ (r : Req) (s : State), Accepts (cmdConfigSet r) true r s → reqKey r = 0x20F00 → leAt r.payload 4 4 = 8 →
    8 ≤ leAt r.payload 8 8 → leAt r.payload 8 8 ≤ 1024 → r.payload.length = 16 → s.jnl.nvLock = false →
    liveAfter s 0x20F00 (r.payload.drop 8) ≤ 4194304 →
    exec (.configSet r) s = .next (post (replyOf s 0x101 r) stOk []
      (logConfig (journalAppend 0x20F00 (r.payload.drop 8) (takeRequest 0x101 true r s))))) ∧
  (∀ (r : Req) (s : State), Accepts (cmdConfigSet r) true r s → reqKey r = 0x20F00 → leAt r.payload 4 4 = 8 →
    8 ≤ leAt r.payload 8 8 → leAt r.payload 8 8 ≤ 1024 → r.payload.length = 16 → s.jnl.nvLock = true →
    exec (.configSet r) s = .next (post (replyOf s 0x101 r) stNvLocked [] (setJnlEvt 3 (takeRequest 0x101 true r s)))) ∧
  (∀ (k : W32) (v : List Byte) (s : State), s.jnl.repair = false →
    halfUsed (activeHalf s) + (32 + (v.length + 15) / 16 * 16) ≤ 6291456 →
    let t := journalAppend k v s
    (activeHalf t).recs = (activeHalf s).recs ++ [mkRec k v (s.jnl.gen + 1)] ∧ recOk (mkRec k v (s.jnl.gen + 1)) = true ∧
    t.jnl.gen = s.jnl.gen + 1 ∧ t.jnl.active = s.jnl.active ∧ t.jnl.appendCnt = satInc s.jnl.appendCnt ∧
    (if s.jnl.active then t.nor.half0 = s.nor.half0 else t.nor.half1 = s.nor.half1) ∧ t.nor.image = s.nor.image ∧
    { t with nor := s.nor, jnl := s.jnl } = s) ∧
  (∀ s : State, let t := compact s
    t.jnl.active = !s.jnl.active ∧ (activeHalf t).recs = liveRecs (scanned (activeHalf s)) ∧ halfValid (activeHalf t) = true ∧
    (activeHalf t).gen = (activeHalf s).gen + 1 ∧ (if s.jnl.active then t.nor.half1.erased = true else t.nor.half0.erased = true) ∧
    t.jnl.evt.getLsbD 1 = true ∧ t.jnl.gen = s.jnl.gen) ∧
  (∀ s : State, let t := mountJournal s
    t.jnl.gen = match (scanned (activeHalf t)).getLast? with | some r => r.seq | none => 0) ∧
  (∀ (k : W32) (v : List Byte) (s : State), ∃ r, (activeHalf (journalAppend k v s)).recs.getLast? = some r ∧ recOk r = true ∧
    r.seq = (journalAppend k v s).jnl.gen)

/-- R439 to R441: FW_STAGE of a first part by the primary channel programs it and opens a staging, or closes it where the
part is the whole image; FW_ACTIVATE of a good image in a running device loads it and takes the Keeper into its restart; with
a bad one it ends with AUTH_FAIL, counted. R415, R451, R452: CALIB_RUN of one Lantern takes its ports' links down and waits;
each Lantern's completion writes its records and the last ends the run; ABORT ends it; CALIB_GET writes the 1,168 B image;
CALIB_SET appends the valid items and with CLEAR deletes those that the journal holds. -/
def Obligations.FirmwareAndCalibration : Prop :=
  (∀ (r : Req) (s : State), Accepts cmdFwStage true r s → leAt r.payload 0 4 = 0 → r.chan = primaryChan s →
    3144 ≤ leAt r.payload 4 4 → leAt r.payload 4 4 ≤ 33554432 → r.blen.toNat ≤ leAt r.payload 4 4 →
    s.power.aonLow = false → s.power.nvLow = false →
    exec (.fwStage r) s = .next (post (replyOf s 0xE0 r) stOk [] { takeRequest 0xE0 true r s with
      nor := { s.nor with image := inBuf s r }
      jnl := { s.jnl with
        staged := r.blen.toNat, total := leAt r.payload 4 4, fwiOwner := decide (r.chan.val = 64), stageTime := r.now,
        fwiImage := if r.blen.toNat = leAt r.payload 4 4 then 2 else 1 } })) ∧
  (∀ (r : Req) (s : State), Accepts cmdFwActivate false r s → staging s = false → s.jnl.activating = false →
    s.glb.boot ≠ .recovery → ∃ t, exec (.fwActivate r) s = .next t ∧
      (imageOk s = true → t.kpr.state = .restarting ∧ t.kpr.restartCause = 1 ∧
        t.kpr.activateReply = some (replyOf s 0xE1 r) ∧ t.jnl.runSvn = BitVec.ofNat 8 (imageSvn s.nor.image) ∧
        t.jnl.activating = true ∧ t.nor = s.nor) ∧
      (imageOk s = false → ∃ u, t = post (replyOf s 0xE1 r) stAuthFail [] u ∧ u.jnl.fwiImage = 3 ∧
        u.sec.authFail = satInc s.sec.authFail ∧ u.kpr = s.kpr ∧ u.nor = s.nor)) ∧
  (∀ (r : Req) (s : State) (l : StackIx), Accepts cmdCalibRun false r s → leAt r.payload 0 1 = 1 → leAt r.payload 1 1 = l.val →
    s.calib = none → s.jnl.nvLock = false → islRunning s (lniOf (stackShed l)) = true →
    (∀ a : Fin 32, linkUp s (lanePort l a) = false) →
    ∃ t, exec (.calibRun r) s = .next t ∧ t.calib = some { reply := replyOf s 0xD0 r, todo := [l] } ∧
      (lantern t l).calibrating = true ∧ (∀ k, k ≠ l → lantern t k = lantern s k)) ∧
  (∀ (l : StackIx) (m : CalibFacts) (s : State) (c : CalibRunning), s.calib = some c → c.todo = [l] →
    islRunning s (lniOf (stackShed l)) = true → s.jnl.nvLock = false → m.slices.length = 36 →
    ∃ u d, exec (.calibLanternDone l m) s = .next (coded 0x20A 0 (endCalib stOk d u)) ∧
      d.written = c.written + BitVec.ofNat 32 (measured l m).length ∧
      d.failed = c.failed + BitVec.ofNat 32 ((m.slices.filter fun x => x.isNone).length) ∧ d.reply = c.reply ∧
      (lantern u l).calibrating = false) ∧
  (∀ (r : Req) (s : State) (c : CalibRunning), Accepts cmdCalibRunAbort false r s → s.calib = some c →
    exec (.calibRunAbort r) s = .next (post (replyOf s 0xD0 r) stOk [] (endCalib stOk c (takeRequest 0xD0 false r s)))) ∧
  (∀ (r : Req) (s : State), Accepts cmdCalibGet false r s → leAt r.payload 0 1 ≤ 15 → 1168 ≤ r.blen.toNat → r.bufOk = true →
    exec (.calibGet r) s = .next (post (replyOf s 0xD1 r) stOk [] (bufWrite r.chan r.buf.toNat
      (calibImage s (Fin.ofNat 16 (leAt r.payload 0 1))) (takeRequest 0xD1 false r s)))) ∧
  (∀ (r : Req) (s : State), Accepts cmdCalibSet true r s → leAt r.payload 0 1 ≤ 15 → s.jnl.nvLock = false →
    exec (.calibSet r) s = .next (post (replyOf s 0xD2 r) stOk [] (appendAll
      (calibRecords (Fin.ofNat 16 (leAt r.payload 0 1)) (inBuf s r)) (takeRequest 0xD2 true r s)))) ∧
  (∀ (r : Req) (s : State), Accepts cmdCalibSetClear false r s → leAt r.payload 0 1 ≤ 15 → s.jnl.nvLock = false →
    exec (.calibSetClear r) s = .next (post (replyOf s 0xD2 r) stOk [] (appendAll
      ((calibHeld s (Fin.ofNat 16 (leAt r.payload 0 1))).map fun k => (k, [])) (takeRequest 0xD2 false r s))))


/-! ## Lanterns, links, partners' health, fencing and sparing (R382 to R387, R404 to R422) -/

/-- R413, R417, R421, R422: a port whose lanes are lit brings its link up, with link-level retry where both ends offer it; a
link that goes down adds 1,000 to the flap penalty at that time; the suppression ends at the reuse limit; an up port sends
and stores LLDP, whose information expires. R387, R412: replayed and lost codewords count for the port; a health window's end
takes W into LAST and floor((3 H + W) / 4) into the score, and begins a new window. -/
def Obligations.FabricLinksAndHealth : Prop :=
  (∀ (p : PortIx) (peer : Bool) (s : State), islRunning s (lniOf (portShed p)) = true → lanesLit s p = true →
    isMember s p = false → linkUp s p = false → ∃ t, exec (.fabricLinkUp p peer) s = .next t ∧ linkUp t p = true ∧
      (port t p).llr = (peer && !(port s p).llrOff) ∧ t.isl = s.isl ∧ t.pens = s.pens) ∧
  (∀ (p : PortIx) (now : Nat) (s : State), linkUp s p = true → (port s p).penaltyAt = now →
    (port s p).penalty.toNat + 1000 < effective s 0x20E03 → effective s 0x20E03 ≤ effective s 0x20E02 →
    effective s 0x20E02 < 16384 → portPartner s p = none →
    ∃ t, exec (.fabricLinkDown p now) s = .next t ∧ linkUp t p = false ∧
      (port t p).penalty.toNat = (port s p).penalty.toNat + 1000 ∧ (port t p).penaltyAt = now ∧
      (port t p).evt.getLsbD 0 = true ∧ (port t p).suppressed = (port s p).suppressed) ∧
  (∀ (p : PortIx) (now : Nat) (s : State), (port s p).suppressed = true → (port s p).penaltyAt = now →
    (port s p).penalty.toNat ≤ effective s 0x20E04 → ∃ t, exec (.flapSuppressEnd p now) s = .next t ∧
      (port t p).suppressed = false ∧ (port t p).penalty = (port s p).penalty ∧ (∀ q, q ≠ p → port t q = port s q) ∧
      { t with ports := s.ports, dmk := s.dmk } = s) ∧
  (∀ (p : PortIx) (s : State), linkUp s p = true →
    exec (.lldpTransmit p) s = .next { s with out := s.out ++ [.lldp p (capsWord s p)] }) ∧
  (∀ (p : PortIx) (ch pid : List Byte) (m : Option (List Byte)) (ttl : BitVec 16) (s : State), linkUp s p = true →
    exec (.lldpReceive p ch pid m ttl) s =
      .next (modPort p (fun q => { q with lldp := some { chassis := ch, portId := pid, molup := m, ttl } }) s)) ∧
  (∀ (p : PortIx) (s : State), exec (.lldpTtlExpiry p) s = .next (modPort p (fun q => { q with lldp := none }) s)) ∧
  (∀ (p : PortIx) (n k : Nat) (s : State), (port s p).llr = true → ∃ t, exec (.llrReplay p n k) s = .next t ∧
    (port t p).retryCnt = satAdd (port s p).retryCnt n ∧ (port t p).lostCw = satAdd (port s p).lostCw k ∧
    (∀ m q, portPartner s p = some (m, q) → (∀ r, aGet s.partners m = some r →
      aGet t.partners m = some { r with retries := satAdd r.retries n, wRetries := r.wRetries + n })) ∧
    { t with ports := s.ports, partners := s.partners } = s) ∧
  (∀ (n : Node) (s : State) (p : Partner), aGet s.partners n = some p → p.state = .admitted →
    ∃ t q, exec (.partnerHealthWindow n) s = .next t ∧ aGet t.partners n = some q ∧
      q.last = BitVec.ofNat 8 (255 - (min (p.wRetries / 4096) 64 + min (2 * p.wExpiries) 96 + 64 * p.wFails
        + 32 * p.wDowns + 16 * p.wActs)) ∧
      q.score = BitVec.ofNat 8 ((3 * p.score.toNat + q.last.toNat) / 4) ∧
      q.wRetries = 0 ∧ q.wExpiries = 0 ∧ q.wFails = 0 ∧ q.wDowns = 0 ∧ q.wActs = 0 ∧
      (∀ m, m ≠ n → aGet t.partners m = aGet s.partners m) ∧ { t with partners := s.partners } = s)

/-- R383, R405 to R409: a lane whose slice fails moves to the free spare of its wavelength: the map names the spare, which
is engaged, the old slice is Fenced, and MOVED is set; a lane whose slice dies before its spare has been retuned is down;
a retuned spare takes its lane's wavelength and the lane; a lost input's light changes the Lantern to its standby, as the
Keeper's FORCE does. -/
def Obligations.SlicesAndLasers : Prop :=
  (∀ (l : StackIx) (a : Fin 32) (i : Fin 36) (s : State), (slice (lantern s l) (laneSlice (lantern s l) a)).state ≠ 0 →
    (lantern s l).retuning = [] → (freeSpares (lantern s l)).filter (fun j =>
      (slice (lantern s l) j).lambda == (slice (lantern s l) (laneSlice (lantern s l) a)).lambda) = [i] →
    laneSlice (lantern s l) a ≠ i →
    ∃ t, exec (.sliceMove l a) s = .next t ∧ laneSlice (lantern t l) a = i ∧ (slice (lantern t l) i).state = 3 ∧
      (slice (lantern t l) (laneSlice (lantern s l) a)).state = 5 ∧
      (slice (lantern t l) (laneSlice (lantern s l) a)).cause = 6 ∧ (lantern t l).evt.getLsbD 0 = true ∧
      (∀ k, k ≠ l → lantern t k = lantern s k)) ∧
  (∀ (l : StackIx) (a : Fin 32) (i : Fin 36) (s : State), (lantern s l).retuning = [(i, a, 5)] →
    (lantern s l).moveReplies = [] → laneSlice (lantern s l) a ≠ i →
    ∃ t, exec (.sliceRetuneDone l i) s = .next t ∧ laneSlice (lantern t l) a = i ∧ (slice (lantern t l) i).state = 3 ∧
      (slice (lantern t l) i).lambda = (slice (lantern s l) (laneSlice (lantern s l) a)).lambda ∧
      (lantern t l).retuning = [] ∧ { t with lanterns := s.lanterns, dmk := s.dmk } = s) ∧
  (∀ (l : StackIx) (s : State), ∃ t, exec (.laserInputChangeover l) s = .next t ∧
    (lantern t l).input = !(lantern s l).input ∧ (if (lantern s l).input then (lantern t l).lostB else (lantern t l).lostA) = true ∧
    (lantern t l).evt.getLsbD 1 = true ∧ (∀ k, k ≠ l → lantern t k = lantern s k)) ∧
  (∀ (l : StackIx) (s : State), ∃ t, exec (.laserInputForce .keeper l) s = .next t ∧
    (lantern t l).input = !(lantern s l).input ∧ (lantern t l).evt.getLsbD 1 = true) ∧
  (∀ (l : StackIx) (f : FnIx) (s : State), exec (.laserInputForce (.fn f) l) s = .next s) ∧
  (∀ (l : StackIx) (m : WearFacts) (s : State), islRunning s (lniOf (stackShed l)) = true →
    ∃ t, exec (.wearMonitorEval l m) s = .next t ∧ (lantern t l).laserA = m.laserA ∧ (lantern t l).laserB = m.laserB ∧
      (lantern t l).laserWear = (laserFlags s l 0 m.laserA).setWidth 4 ||| ((laserFlags s l 1 m.laserB).setWidth 4 <<< 2) ∧
      (∀ k, k ≠ l → lantern t k = lantern s k)) ∧
  (∀ (l : StackIx) (a : Fin 32) (s : State), (slice (lantern s l) (laneSlice (lantern s l) a)).state ≠ 0 →
    (∃ r ∈ (lantern s l).retuning, r.2.1 = a) →
    ∃ t, exec (.sliceMove l a) s = .next t ∧ a ∈ (lantern t l).down ∧ (lantern t l).map = (lantern s l).map ∧
      (lantern t l).retuning = (lantern s l).retuning ∧ { t with lanterns := s.lanterns } = s)

/-- R12, R382 to R386: a fenced unit shows Fenced with its cause, a hardware cause is journalled and the Shed's free spare is
engaged in its place by a running Keeper; SPARE_STATUS gives the records; SPARE_ENGAGE drains a unit, with NOW it fences it
at once with cause 5; a drained unit's completion does. Stated of Reduce Units, whose work is their groups' chunks. -/
def Obligations.FencingAndSparing : Prop :=
  (∀ (sh : ShedIx) (u : UnitIx) (c : BitVec 8) (s : State), u ≠ 16 → c ≠ 0 → (unit s sh .reduce u).st = .active →
    (unit s sh .reduce u).drain = none → (unit s sh .reduce 16).st = .spareFree → s.kpr.state = .running → s.groups = [] →
    ∃ t, exec (.unitFence sh .reduce u c) s = .next t ∧ (unit t sh .reduce u).st = .fenced ∧ (unit t sh .reduce u).cause = c ∧
      (unit t sh .reduce u).link = some 16 ∧ (unit t sh .reduce 16).st = .spareEngaged ∧
      (unit t sh .reduce 16).link = some u ∧ (unit t sh .reduce u).evt.getLsbD 3 = true ∧ t.groups = []) ∧
  (∀ (sh : ShedIx) (u : UnitIx) (s : State), u ≠ 16 → (unit s sh .reduce u).st = .active →
    (unit s sh .reduce u).drain = none → (unit s sh .reduce 16).st = .spareFree → s.kpr.state = .running → s.groups = [] →
    ∃ t, exec (.reduceUnitFail sh u) s = .next t ∧ (unit t sh .reduce u).st = .fenced ∧ (unit t sh .reduce u).cause = 1 ∧
      (unit t sh .reduce u).evt.getLsbD 2 = true ∧ (unit t sh .reduce 16).st = .spareEngaged) ∧
  (∀ (sh : ShedIx) (k : UnitKind) (u : UnitIx) (s : State), k = .gather ∨ k = .filter → u ≠ 16 →
    (unit s sh k u).st = .active → (unit s sh k u).drain = none → (unit s sh k 16).st = .spareFree →
    s.kpr.state = .running → s.work.reqs = [] →
    ∃ t, exec (.gatherUnitFail sh k u) s = .next t ∧ (unit t sh k u).st = .fenced ∧ (unit t sh k u).cause = 1 ∧
      (unit t sh k 16).st = .spareEngaged ∧ (unit t sh k 16).link = some u) ∧
  (∀ (r : Req) (s : State), Accepts cmdSpareStatus false r s → leAt r.payload 0 1 ≤ 4 → leAt r.payload 1 1 ≤ 3 →
    (spareRecords s r.chan (leAt r.payload 0 1) (shedOf (leAt r.payload 1 1))).length ≤ r.blen.toNat → r.bufOk = true →
    exec (.spareStatus r) s = .next (post (replyOf s 0x110 r) stOk
      (toLe 4 (spareRecords s r.chan (leAt r.payload 0 1) (shedOf (leAt r.payload 1 1))).length)
      (bufWrite r.chan r.buf.toNat (spareRecords s r.chan (leAt r.payload 0 1) (shedOf (leAt r.payload 1 1)))
        (takeRequest 0x110 false r s)))) ∧
  (∀ (r : Req) (s : State) (k : UnitKind), Accepts cmdSpareEngage false r s → r.flags = 0 →
    kindOf (leAt r.payload 0 1) = some k → engageStatus s (leAt r.payload 1 1) k (leAt r.payload 2 1) = stOk →
    ∃ t, exec (.spareEngage r) s = .next t ∧
      unit t (shedOf (leAt r.payload 1 1)) k (Fin.ofNat 17 (leAt r.payload 2 1)) =
        { unit s (shedOf (leAt r.payload 1 1)) k (Fin.ofNat 17 (leAt r.payload 2 1)) with
          en := false, draining := true, drain := some (replyOf s 0x111 r) } ∧
      { t with units := s.units } = takeRequest 0x111 false r s) ∧
  (∀ (r : Req) (s : State) (k : UnitKind), Accepts cmdSpareEngage false r s → r.flags = 1 →
    kindOf (leAt r.payload 0 1) = some k → engageStatus s (leAt r.payload 1 1) k (leAt r.payload 2 1) = stOk →
    exec (.spareEngageNow r) s = .next (post (replyOf s 0x111 r) stOk [] (fenceUnit (shedOf (leAt r.payload 1 1)) k
      (Fin.ofNat 17 (leAt r.payload 2 1)) 5 (takeRequest 0x111 false r s)))) ∧
  (∀ (sh : ShedIx) (k : UnitKind) (u : UnitIx) (s : State), (unit s sh k u).draining = true → unitIdle s sh k u = true →
    unitLive (unit s sh k u) = true → (unit s sh k 16).st = .spareFree → (unit s sh k u).wear.getLsbD 1 = false →
    exec (.spareEngageComplete sh k u) s = .next (fenceUnit sh k u 5 s)) ∧
  (∀ (sh : ShedIx) (row now : Nat) (s : State), islRunning s (shcOf sh) = true → (sh, row) ∉ s.loftMapped →
    (slide (aGetD s.loftErr (sh, row) []) now).length < effective s 0x5000C →
    exec (.loftRowError sh row false now) s =
      .next { s with loftErr := aSet s.loftErr (sh, row) (slide (aGetD s.loftErr (sh, row) []) now) }) ∧
  (∀ (sh : ShedIx) (row now : Nat) (s : State), islRunning s (shcOf sh) = true → (sh, row) ∉ s.loftMapped →
    mappedRows s sh < 1024 → effective s 0x5000C ≤ (slide (aGetD s.loftErr (sh, row) []) now).length →
    ∃ t, exec (.loftRowError sh row false now) s = .next t ∧ t.loftMapped = s.loftMapped ++ [(sh, row)] ∧
      aGet t.loftErr (sh, row) = none ∧ { t with loftMapped := s.loftMapped, loftErr := s.loftErr, dmk := s.dmk } = s)

/-! ## CMX requests, pairs, route maps and the tiers (R22, R37 to R106, R127, R270, R360) -/

/-- R22, R36, R93, R100, R391: a request that passes stations 2 to 8 has its effect in the state in which it has arrived, is
counted under its epoch, its translation is cached and, for a control request, its record is kept. Every form of every
request of the fabric is named. R86, R87, R100, R105: a request from a node without pair state, a duplicate and a packet
beyond the window have no effect on the pool; a request whose epoch is neither the current map's nor, while there is one, the
previous map's is answered with NACK STALE_EPOCH at station 4. Stated of READ and WRITE, which differ in whether they settle
at once. -/
def Obligations.Requests : Prop :=
  (∀ (p : Rx) (s : State), Passes 0x01 p s → exec (.read p) s = .next (doRead p (station9 0x01 p s))) ∧
  (∀ (p : Rx) (s : State), Passes 0x03 p s → exec (.write p) s = .next (doStore 0x03 p (station9 0x03 p s))) ∧
  (∀ (p : Rx) (s : State), Passes 0x05 p s → exec (.writeRelease p) s = .next (holdOrdered 0x05 p (station9 0x05 p s))) ∧
  (∀ (p : Rx) (s : State), Passes 0x08 p s → exec (.atomic p) s = .next (doStore 0x08 p (station9 0x08 p s))) ∧
  (∀ (p : Rx) (s : State), Passes 0x10 p s → exec (.invalidate p) s = .next (holdOrdered 0x10 p (station9 0x10 p s))) ∧
  (∀ (p : Rx) (s : State), Passes 0x20 p s → exec (.reduceContrib p) s = .next (doContrib p (station9 0x20 p s))) ∧
  (∀ (p : Rx) (s : State), Passes 0x28 p s →
    exec (.gatherReq p) s = .next (doUnitReq 0x28 false p (station9 0x28 p s))) ∧
  (∀ (p : Rx) (s : State), Passes 0x30 p s →
    exec (.filterReq p) s = .next (doUnitReq 0x30 true p (station9 0x30 p s))) ∧
  (∀ (p : Rx) (s : State), Passes 0x40 p s → exec (.leaseRenew p) s = .next (leaseRenew p (station9 0x40 p s))) ∧
  (∀ (p : Rx) (s : State), flagBit p 2 = false → Passes 0x44 p s →
    exec (.lendOffer p) s = .next (lendOffer p (station9 0x44 p s))) ∧
  (∀ (p : Rx) (s : State), flagBit p 2 = false → Passes 0x45 p s →
    exec (.recall p) s = .next (recallFrames p (station9 0x45 p s))) ∧
  (∀ (p : Rx) (s : State), Passes 0x58 p s → exec (.ownerOffer p) s = .next (holdOrdered 0x58 p (station9 0x58 p s))) ∧
  (∀ (p : Rx) (s : State), Passes 0x59 p s → exec (.ownerAccept p) s = .next (ownerAccept p (station9 0x59 p s))) ∧
  (∀ (p : Rx) (s : State), Passes 0x5A p s → exec (.ownerQuery p) s = .next (ownerQuery p (station9 0x5A p s))) ∧
  (∀ (p : Rx) (s : State), rxArrives s p = false → exec (.read p) s = .next s ∧ exec (.write p) s = .next s) ∧
  (∀ (p : Rx) (s : State), rxArrives s p = true → ((port s p.port).macsec = true → p.l2.macsecOk = true) →
    headersOk s 0x01 0 p = true → formOk s 0x01 p = true → (portQ s p.port).rx.n = 0 →
    (∀ pr, aGet s.pairs p.src = some pr → arrivalOf pr p.seq = .beyond →
      exec (.read p) s = .next (modPair p.src (fun q => { q with beyond := satInc q.beyond, ceEcho := q.ceEcho || p.l2.ce })
        (noteFlaws p s))) ∧
    (∀ pr, aGet s.pairs p.src = some pr → arrivalOf pr p.seq = .duplicate →
      exec (.read p) s = .next (sendAck p.src (modPair p.src (fun q =>
        { q with duplicates := satInc q.duplicates, ceEcho := q.ceEcho || p.l2.ce }) (noteFlaws p s))))) ∧
  (∀ (p : Rx) (s : State) (d : W32), (letIn 0x01 p s).1 = true → epochCheck (received 0x01 p s) p.epoch = some d →
    exec (.read p) s = .next (send p.src (nackPkt p 0x01 4 d) (received 0x01 p s))) ∧
  (∀ (p : Rx) (s : State) (d : W32), (letIn 0x03 p s).1 = true → epochCheck (received 0x03 p s) p.epoch = some d →
    exec (.write p) s = .next (send p.src (nackPkt p 0x01 4 d) (endStore p.src p.seq (received 0x03 p s))))

/-- R37, R80, R93, R97, R360: an access within one block of a NEAR extent whose location can be used: a READ answers with the
block's bytes, a WRITE lays its bytes over the block, an ATOMIC answers with the old value and stores the new one; the two
stores are answered with their response and wait to settle, every other block keeps its bytes. R38, R45, R46, R49, R51: a
clean patrol read changes nothing, a corrected error is counted, at the threshold its location is copied to a reserve
location, and the copy's end puts it there; a stack declared Failed has its control blocks to be resynchronised, which a copy
of the block from the other half ends. -/
def Obligations.NearTier : Prop :=
  (∀ (p : Rx) (s u : State) (b : Nat), Passes 0x01 p s → u = station9 0x01 p s → p.pen ≠ 0 → flagBit p 0 = false →
    1 ≤ p.length.toNat → addrOff p.addr % 4096 + p.length.toNat ≤ 4096 →
    NearBlock (rxKey u p) (addrOff p.addr / 4096) b u → imageOf u (rxKey u p) (addrOff p.addr / 4096) = none →
    readSt u b = .fine →
    exec (.read p) s = .next (respond p (readResp (rxJob 0x01 p u) p
      (((nearBlock u b).drop (addrOff p.addr % 4096)).take p.length.toNat) u) (jobCounted (meetBlock b false u)))) ∧
  (∀ (p : Rx) (s u : State) (b : Nat), Passes 0x03 p s → u = station9 0x03 p s → p.pen ≠ 0 → flagBit p 1 = false →
    1 ≤ p.length.toNat → addrOff p.addr % 4096 + p.length.toNat ≤ 4096 → p.payload.length = p.length.toNat →
    muted p = false → NearBlock (rxKey u p) (addrOff p.addr / 4096) b u → nearSt u (rxJob 0x03 p u) b = .fine →
    exec (.write p) s = .next (respond p (respPkt 0x04 p) (endStore p.src p.seq (jobCounted
      (putNear b (patch (nearBlock u b) (addrOff p.addr % 4096) p.payload) (meetBlock b true u)))))) ∧
  (∀ (p : Rx) (s u : State) (b : Nat), Passes 0x08 p s → u = station9 0x08 p s → p.pen ≠ 0 →
    addrOff p.addr % 4096 + 8 ≤ 4096 → muted p = false →
    NearBlock (rxKey u p) (addrOff p.addr / 4096) b u → nearSt u (rxJob 0x08 p u) b = .fine →
    exec (.atomic p) s = .next (respond p
      { respPkt 0x09 p with length := BitVec.ofNat 16 (((nearBlock u b).drop (addrOff p.addr % 4096)).take 8).length,
                            payload := ((nearBlock u b).drop (addrOff p.addr % 4096)).take 8 }
      (endStore p.src p.seq (jobCounted (putNear b (patch (nearBlock u b) (addrOff p.addr % 4096)
        (toLe 8 (atomicNew (BitVec.ofNat 2 (bitsOf p.flags.toNat 7 6)) (flagBit p 8)
          (fieldLe 64 (nearBlock u b) (addrOff p.addr % 4096) 8) p.payload).toNat)) (meetBlock b true u)))))) ∧
  (∀ (b a : Nat) (bs : List Byte) (s : State), (a < b * 4096 ∨ b * 4096 + bs.length ≤ a) →
    readBytes (putNear b bs s).near.mem a 1 = readBytes s.near.mem a 1) ∧
  (∀ (k : StackIx) (loc : Nat) (s : State), exec (.patrolRead k loc .clean false) s = .next s) ∧
  (∀ (k : StackIx) (loc : Nat) (s : State), (stk s k).patrolEn = true → stackUp s k = true →
    patrolReads (stk s k) loc = true → (stk s k).ceThr = 0 →
    ∃ t, exec (.patrolRead k loc .corrected false) s = .next t ∧ (stk t k).ce = satInc (stk s k).ce ∧
      aGetD (stk t k).passCe loc 0 = aGetD (stk s k).passCe loc 0 + 1 ∧ (stk t k).copying = (stk s k).copying ∧
      (∀ j, j ≠ k → stk t j = stk s j) ∧ { t with near := s.near } = s ∧ t.near.mem = s.near.mem) ∧
  (∀ (k : StackIx) (loc row r : Nat) (ue : Bool) (s : State), (stk s k).copying = [(row, r, ue)] → row = loc →
    stackUp s k = true → ue = false →
    ∃ t, exec (.locationRetireCopyDone k loc) s = .next (releaseWaits none (wakeJobs t)) ∧ aGet (stk t k).remap loc = some r ∧
      (stk t k).retired = (stk s k).retired + 1 ∧ (stk t k).copying = [] ∧ (stk t k).evt.getLsbD 0 = true ∧
      t.near.mem = s.near.mem) ∧
  (∀ (c : Caller) (k : StackIx) (s : State), isPf0 c = true → (stk s k).state ≠ 3 → s.pool.jobs = [] → s.work.builds = [] →
    ∃ t, exec (.forceFail c k) s = .next t ∧ (stk t k).state = 3 ∧ (stk t k).copying = [] ∧
      (stk t k).evt.getLsbD 2 = true ∧ aGet t.near.resync k = some [] ∧ t.near.mem = s.near.mem ∧
      (∀ j, j ≠ k → stk t j = stk s j)) ∧
  (∀ (c : Caller) (k : StackIx) (s : State), isPf0 c = false → exec (.forceFail c k) s = .next s) ∧
  (∀ (half : Bool) (i : Nat) (s : State), inResync s half i = true → i < s.near.ctl / 4096 →
    stackUp s (ctlAt s half i).1 = true → ctlCopyUp s (!half) i = true →
    ∃ t, exec (.controlAreaResyncBlock half i) s = .next (releaseWaits none t) ∧ inResync t half i = false ∧
      (∀ k, k ≠ ctlStack half i → aGet t.near.resync k = aGet s.near.resync k) ∧
      { t with near := { t.near with resync := s.near.resync, unplaced := s.near.unplaced } } = s) ∧
  (∀ (half : Bool) (i : Nat) (s : State), inResync s half i = true → i < s.near.ctl / 4096 →
    stackFailed s (ctlAt s half i).1 = true → islRunning s (ntmOf (ctlAt s half i).1) = true →
    ctlCopyUp s (!half) i = true → placeStacks s half ≠ [] →
    ∃ t, exec (.controlBlockPlace half i) s = .next (releaseWaits none t) ∧ inResync t half i = false ∧
      ∃ j r, aGet t.near.placed (half, i) = some (j, r) ∧ j ∈ placeStacks s half ∧ t.near.mem = s.near.mem)

/-- R93, R94, R128, R134: a WRITE_RELEASE, an INVALIDATE or an OWNER_OFFER held by its pair acts once T is at its
predecessor or beyond, and not before; a store that has ended settles and moves T. R40, R117: a WRITE_RELEASE whose extent
has been sealed meanwhile ends with NOT_OWNER and stores nothing. -/
def Obligations.OrderedRequests : Prop :=
  (∀ (n : Node) (seq : W32) (p : Rx) (s : State), dueHeld s n 0x05 seq = some p → releaseVerdict p s = .pass →
    exec (.writeReleaseApply n seq) s = .next (doStore 0x05 p (unhold n 0x05 seq s))) ∧
  (∀ (n : Node) (seq : W32) (p : Rx) (s : State) (x : BitVec 8) (st : Nat) (d : W32), dueHeld s n 0x05 seq = some p →
    releaseVerdict p s = .nack x st d →
    exec (.writeReleaseApply n seq) s = .next (nack p x st d (endIfStore 0x05 p (unhold n 0x05 seq s)))) ∧
  (∀ (n : Node) (seq : W32) (p : Rx) (s : State), dueHeld s n 0x05 seq = some p → p.pen ≠ 0 → slotMoving s (keySlot (rxKey s p)) = false →
    (extAt s (rxKey s p)).cls = .sealed → unopened s p = false → leaseRevoked s p.pen (.node p.src) = false →
    (extAt s (rxKey s p)).st = .resident →
    ∃ t, exec (.writeReleaseApply n seq) s = .next (nack p rNotOwner 8 0xFFFFFFFF t) ∧ t.near.mem = s.near.mem) ∧
  (∀ (n : Node) (seq : W32) (pr : Pair) (s : State), aGet s.pairs n = some pr → seqLe (seq - 1) pr.settled = false →
    exec (.writeReleaseApply n seq) s = .next s ∧ exec (.invalidateApply n seq) s = .next s ∧
      exec (.ownerOfferApply n seq) s = .next s) ∧
  (∀ (n : Node) (seq : W32) (p : Rx) (s : State), dueHeld s n 0x10 seq = some p → slotMoving s (invalSlot s p) = false →
    exec (.invalidateApply n seq) s = .next (invalidateNow p (unhold n 0x10 seq s))) ∧
  (∀ (n : Node) (seq : W32) (p : Rx) (s : State), dueHeld s n 0x58 seq = some p →
    slotMoving s (keySlot (rxKey s p)) = false →
    exec (.ownerOfferApply n seq) s = .next (ownerOfferNow p (unhold n 0x58 seq s))) ∧
  (∀ (n : Node) (seq : W32) (pr : Pair) (s : State), aGet s.pairs n = some pr → pr.ended = [seq] → pr.settledSel = [] →
    seq = pr.settled + 1 → ∃ t, exec (.storeSettled n seq) s = .next t ∧
      aGet t.pairs n = some { pr with settled := seq, ended := [] } ∧ (∀ m, m ≠ n → aGet t.pairs m = aGet s.pairs m) ∧
      { t with pairs := s.pairs } = s)

/-- R69, R70, R79, R106: a response that answers one of the device's own requests reaches what waits for it, once; a response
that answers none has no effect but its arrival. R87, R89, R91: an Acknowledgement takes off what it shows as arrived; after
its delay the device acknowledges what has arrived; an expired packet is sent again and counted, and at its last expiry, the twelfth
unless R109's setting says otherwise, the pair of its node is dropped. -/
def Obligations.ResponsesAndTimers : Prop :=
  (∀ (p : Rx) (s t : State) (r : DevReq), (letIn 0x02 p s).1 = true → takeReq p (received 0x02 p s) = some (r, t) →
    exec (.readResp p) s = .next (readRespFor r p t)) ∧
  (∀ (p : Rx) (s t : State) (r : DevReq), (letIn 0x04 p s).1 = true → takeReq p (received 0x04 p s) = some (r, t) →
    exec (.writeAck p) s = .next (writeAckFor r t)) ∧
  (∀ (p : Rx) (s t : State) (r : DevReq), (letIn 0x48 p s).1 = true → takeReq p (received 0x48 p s) = some (r, t) →
    exec (.nack p) s =
      .next (devFailed r (p.flags.toNat % 256 == 6 && !r.write && (tray t r.node).mounted) 4 t)) ∧
  (∀ (p : Rx) (s t : State) (r : DevReq), takeReq p s = some (r, t) → r ∈ s.pool.devReqs ∧ r.node = p.src ∧ r.tag = p.tag ∧
    takeReq p t = none ∧ { t with pool := { t.pool with devReqs := s.pool.devReqs } } = s) ∧
  (∀ (p : Rx) (s : State), (letIn 0x02 p s).1 = true → takeReq p (received 0x02 p s) = none →
    exec (.readResp p) s = .next (received 0x02 p s)) ∧
  (∀ (p : Rx) (s : State), (letIn 0x11 p s).1 = true →
    exec (.invalAck p) s = .next (invalAck p (received 0x11 p s))) ∧
  (∀ (p : Rx) (s : State), (letIn 0x21 p s).1 = true →
    exec (.reduceResult p) s = .next (doResult p (received 0x21 p s))) ∧
  (∀ (p : Rx) (s : State) (pr : Pair), rxArrives s p = true → ((port s p.port).macsec = true → p.l2.macsecOk = true) →
    headersOk s 0 1 p = true → (portQ s p.port).rx.n = 0 → aGet s.pairs p.src = some pr → pr.backlog = [] →
    p.tag = 0 → flagBit p 9 = false →
    ∃ t q, exec (.acknowledgement p) s = .next t ∧ aGet t.pairs p.src = some q ∧
      q.unacked = pr.unacked.filter (fun x => !seqLe x.seq p.seq) ∧ q.backlog = [] ∧ q.rxCum = pr.rxCum ∧
      q.settled = pr.settled ∧ (∀ m, m ≠ p.src → aGet t.pairs m = aGet s.pairs m) ∧ { t with pairs := s.pairs } = s) ∧
  (∀ (n : Node) (s : State) (pr : Pair), aGet s.pairs n = some pr → pr.arrivals ≠ 0 → slotMoving s (nodeSlot n) = false →
    ∃ t, exec (.ackDelayExpiry n) s = .next t ∧ t = sendAck n s ∧
      aGet t.pairs n = some { pr with arrivals := 0, ceEcho := false } ∧ t.pool = s.pool ∧ t.share = s.share) ∧
  (∀ (n : Node) (seq : W32) (s : State) (pr : Pair) (x : Sent), aGet s.pairs n = some pr →
    pr.unacked.find? (fun y => y.seq == seq) = some x → x.expiries + 1 < effective s 0x20303 →
    slotMoving s (nodeSlot n) = false →
    ∃ t, exec (.retransmitTimerExpiry n seq) s = .next t ∧ aGet t.pairs n = some { pr with
        unacked := pr.unacked.map fun y => if y.seq = seq then { y with expiries := y.expiries + 1 } else y } ∧
      t.pool = s.pool ∧ (∀ q, aGet s.partners n = some q →
        aGet t.partners n = some { q with expiries := satInc q.expiries, wExpiries := q.wExpiries + 1 })) ∧
  (∀ (n : Node) (seq : W32) (s : State) (pr : Pair) (x : Sent), aGet s.pairs n = some pr →
    pr.unacked.find? (fun y => y.seq == seq) = some x → effective s 0x20303 ≤ x.expiries + 1 → s.pool.devReqs = [] → s.work.reqs = [] →
    slotMoving s (nodeSlot n) = false →
    ∃ t, exec (.retransmitTimerExpiry n seq) s = .next t ∧ aGet t.pairs n = none) ∧
  (∀ (n : Node) (seq : W32) (s : State), slotMoving s (nodeSlot n) = true →
    exec (.retransmitTimerExpiry n seq) s = .next s ∧ exec (.ackDelayExpiry n) s = .next s)

/-- R85, R86, R418 to R421, R63: an accepted Hello starts the pair's numbering at its own and admits the partner with its
role; a refused one leaves the pairs as they are; the end of the hold time makes the partner Absent and lets its ports
go. -/
def Obligations.PartnersAdmitted : Prop :=
  (∀ (p : Rx) (s : State), rxArrives s p = true → ((port s p.port).macsec = true → p.l2.macsecOk = true) →
    headersOk s 0x50 2 p = true → (portQ s p.port).rx.n = 0 →
    ((aGet s.pairs p.src).isSome = true ∨ s.pairs.length < 65536) → helloRefused s p = false →
    ∃ t q r, exec (.partnerHello p) s = .next t ∧ t = acceptHello p s ∧ aGet t.pairs p.src = some q ∧
      q.rxCum = p.seq - 1 ∧ q.settled = p.seq - 1 ∧ q.maxOut = helloMax p.payload ∧ q.unacked = [] ∧ q.backlog = [] ∧
      aGet t.partners p.src = some r ∧ r.state = .admitted ∧ r.role.toNat = helloRole p.payload ∧
      r.deviceId = helloId p.payload ∧ p.port ∈ r.ports) ∧
  (∀ (p : Rx) (s : State), rxArrives s p = true → ((port s p.port).macsec = true → p.l2.macsecOk = true) →
    headersOk s 0x50 2 p = true → (portQ s p.port).rx.n = 0 →
    ((aGet s.pairs p.src).isSome = true ∨ s.pairs.length < 65536) → helloRefused s p = true →
    ∃ t, exec (.partnerHello p) s = .next t ∧ t.pairs = s.pairs ∧ t.partners = s.partners ∧ t.pool = s.pool ∧
      (port t p.port).evt.getLsbD 2 = true) ∧
  (∀ (n : Node) (s : State) (q : Partner), aGet s.partners n = some q → q.state = .holding → q.role ≠ 2 → q.role ≠ 4 →
    aGet s.pairs n = none →
    ∃ t, exec (.detachHoldExpiry n) s = .next t ∧ aGet t.partners n = some { q with state := .absent, ports := [] } ∧
      (∀ k, k ∈ q.ports → (port t k).partner = 0 ∧ (port t k).node = 0) ∧ t.pairs = s.pairs ∧ t.pens = s.pens ∧
      t.pool.exts = s.pool.exts) ∧
  (∀ (n : Node) (s : State) (q : Partner), aGet s.partners n = some q → q.state = .holding → q.role = 2 →
    aGet s.pairs n = none → (tray s n).gather = [] → (tray s n).pages = [] →
    ∃ t, exec (.detachHoldExpiry n) s = .next t ∧ aGet t.partners n = some { q with state := .absent, ports := [] } ∧
      (tray t n).mounted = false) ∧
  (∀ (n : Node) (s : State) (q : Partner), aGet s.partners n = some q → q.state = .holding → q.role = 4 →
    aGet s.pairs n = none → (∀ e ∈ s.pool.exts, e.2.node ≠ n) →
    ∃ t, exec (.detachHoldExpiry n) s = .next t ∧ aGet t.partners n = some { q with state := .absent, ports := [] } ∧
      aGet t.pool.lent n = none ∧ t.pool.exts = s.pool.exts)

/-- R99, R100, R102, R103, R270, R344: a map of the next epoch with entries that the rules allow is staged; its commit
makes it current and the current one previous, with the requests in flight counted to it; the previous map retires when
none is left, or is forced at the end of its window; each request's end counts under its own epoch. -/
def Obligations.RouteMaps : Prop :=
  (∀ (r : Req) (s u : State) (m : RouteMap), Accepts (cmdRouteMapLoad r) true r s → mapCounts r = true →
    m.epoch = fieldLe 16 r.payload 0 2 → m.nodes = (slices (inBuf s r) 0 64 (mapNodes r)).map nodeOf →
    m.tree = (slices (inBuf s r) (64 * mapNodes r) 16 (mapTrees r)).map (fun t => (fieldLe 32 t 0 4, fieldLe 16 t 4 2)) →
    m.epoch = s.routes.current.epoch + 1 → (slices (inBuf s r) 0 64 (mapNodes r)).all nodeBytesOk = true →
    nodesOk m.nodes = true → treeOk m.tree = true → u = takeRequest 0xA0 true r s →
    exec (.routeMapLoad r) s = .next (post (replyOf s 0xA0 r) stOk []
      { u with routes := { u.routes with staged := some m } })) ∧
  (∀ (r : Req) (s : State) (m : RouteMap), Accepts cmdRouteMapCommit false r s →
    fieldLe 16 r.payload 0 2 = s.routes.current.epoch + 1 → s.routes.previous = none → s.routes.staged = some m →
    m.epoch = s.routes.current.epoch + 1 →
    exec (.routeMapCommit r) s = .next (post (replyOf s 0xA1 r) stOk [] (commitMap m (takeRequest 0xA1 false r s))) ∧
    (commitMap m s).routes = { s.routes with
      current := m, previous := some s.routes.current, staged := none, inflight := 0, inflightPrev := s.routes.inflight }) ∧
  (∀ (s : State), s.routes.inflightPrev = 0 → exec .previousMapQuietExpiry s =
    .next { s with routes := { s.routes with previous := none, inflightPrev := 0 } }) ∧
  (∀ (s : State), s.routes.inflightPrev ≠ 0 → exec .previousMapQuietExpiry s = .next s) ∧
  (∀ (s : State) (m : RouteMap), s.routes.previous = some m → ∃ t, exec .previousMapWindowExpiry s = .next t ∧
    t.routes.previous = none ∧ t.routes.inflightPrev = 0 ∧ t.routes.current = s.routes.current ∧
    t.pool = s.pool ∧ t.pens = s.pens) ∧
  (∀ (e : BitVec 16) (s : State), e = s.routes.current.epoch →
    (finishEpoch e (admitEpoch e s)).routes.inflight = s.routes.inflight)

/-- R65 to R69, R442, R450: a partial page is programmed with what was gathered; a durable page leaves the tray's queue and
its units map to their new slots; a checkpoint keeps the map and starts the journal again; relocation, wear levelling and
refresh change that tray's layer alone; a mount rebuilds the layer from its checkpoint and journal. -/
def Obligations.FlashTrays : Prop :=
  (∀ (n : Node) (s : State), (tray s n).gather ≠ [] → (takeSlot n { tray s n with gather := [] }).1.isSome = true →
    ∃ t pg, exec (.flashPagePadTimeout n) s = .next t ∧ (tray t n).pages = (tray s n).pages ++ [pg] ∧ pg.writes ≠ [] ∧
      pg.unacked = pg.writes.map (·.2) ∧ pg.writes.length + (tray t n).gather.length = (tray s n).gather.length ∧
      (tray t n).map = (tray s n).map ∧ (∀ m, m ≠ n → tray t m = tray s m)) ∧
  (∀ (n : Node) (s : State), (tray s n).gather = [] → exec (.flashPagePadTimeout n) s = .next s) ∧
  (∀ (n : Node) (s : State) (w : UnitWrite) (v : W32) (ps : List Page),
    (tray s n).pages = { writes := [(w, v)], unacked := [] } :: ps →
    w.job = none → v ≠ unmapped →
    ∃ t, exec (.flashWriteDurable n) s = .next t ∧ (tray t n).pages = ps ∧ slotOf (tray t n) w.unit = v ∧
      (∀ u, u ≠ w.unit → slotOf (tray t n) u = slotOf (tray s n) u) ∧ (tray t n).seq = (tray s n).seq + 1 ∧
      (∀ m, m ≠ n → tray t m = tray s m) ∧ { t with pool := { t.pool with trays := s.pool.trays } } = s) ∧
  (∀ (n : Node) (s : State), (tray s n).mounted = true → exec (.ftlCheckpoint n) s = .next (modTray n (fun t => { t with
    checkpoints := ({ seq := t.seq, map := t.map, blocks := t.blocks, hour := t.hour } :: t.checkpoints).take 2
    journal := [] }) s)) ∧
  (∀ (n : Node) (b : Nat) (h : Bool) (s : State), (tray s n).mounted = true → unitsIn n (tray s n) b = [] →
    (tray s n).openBlk ≠ some b → h = true ∨ effective s 0x20208 ≤ (ebAt (tray s n) b).reads.toNat →
    ∃ t, exec (.ftlReadRelocate n { block := b, hard := h }) s = .next t ∧ (ebAt (tray t n) b).erases = (ebAt (tray s n) b).erases + 1 ∧
      (ebAt (tray t n) b).reads = 0 ∧ (ebAt (tray t n) b).state = 0 ∧ (tray t n).map = (tray s n).map ∧
      (∀ m, m ≠ n → tray t m = tray s m)) ∧
  (∀ (n : Node) (s : State), (tray s n).mounted = true →
    exec (.ftlGarbageCollect n) s =
      .next (if freeBlocks n (tray s n) * 100 < effective s 0x20206 * eraseBlocks n then
        relocateOne n (leastBlocks (tray s n) fun e => e.valid.toNat) s else s)) ∧
  (∀ (n : Node) (s : State) (e : EraseBlock), (tray s n).mounted = true → (tray s n).blocks = [e] →
    exec (.ftlWearLevel n) s = .next s) ∧
  (∀ (n : Node) (s : State) (e f : EraseBlock), (tray s n).mounted = true → (tray s n).blocks = [e, f] →
    f.erases.toNat ≤ e.erases.toNat → effective s 0x20207 < e.erases.toNat - f.erases.toNat →
    exec (.ftlWearLevel n) s = .next (relocateOne n (leastBlocks (tray s n) fun x => x.erases.toNat) s)) ∧
  (∀ (n : Node) (hour : W32) (s : State), (tray s n).mounted = true → (∀ e ∈ (tray s n).blocks, e.valid = 0) →
    exec (.ftlAgeRefresh n hour) s = .next (modTray n (fun t => { t with hour }) s)) ∧
  (∀ (s : State), effective s 0x2020B ≠ 0 →
    exec .ftlRefreshScanDone s = .next (coded 0x20B 1 (logConfig (ownAppend 0x2020B [] s)))) ∧
  (∀ (s : State), effective s 0x2020B = 0 → exec .ftlRefreshScanDone s = .next s) ∧
  (∀ (n : Node) (im : TrayImage) (s : State), n ∈ partnersOf s 2 → (tray s n).mounted = false →
    flashMapUsed s + trayMapGib s n * 2 ^ 30 ≤ s.near.flashMap →
    ∃ t, exec (.flashTrayMountDone n im) s = .next t ∧ tray t n = mountedTray n (tray s n) im ∧
      (∀ m, m ≠ n → tray t m = tray s m) ∧ t.pool.exts = s.pool.exts)

/-! ## Extents, lent memory, regions, leases and owners (R33 to R64, R110 to R137) -/

/-- R40, R41, R53 to R57: an allocated NEAR extent is valid in its frame, which reads as zeros, and no other extent changes;
a freed extent is not valid; a scrub's end takes off the frames that can be reached; a migration starts with no block moved,
moves one block at a time, and a block that arrives is at the new home; a block that cannot move stalls it. R61 to R64: a
lender's offered frames join its list, up to the limit of one lender; a recalled frame that holds nothing leaves the list; at
the deadline an extent that has not left is Lost and the recall ends. -/
def Obligations.ExtentsAndLentMemory : Prop :=
  (∀ (r : Req) (s u : State) (a : AllocCmd), Accepts cmdExtentAlloc false r s → u = takeRequest 0x20 false r s →
    r.flags = 0 → tierOf (leAt r.payload 12 1) = some .near → clsOf (leAt r.payload 13 1) = some a.cls →
    leAt r.payload 0 8 % 2 ^ 21 = 0 → leAt r.payload 8 4 = 1 → rangeOk (leAt r.payload 0 8) 1 = true →
    leAt r.payload 16 2 = 0 → leAt r.payload 14 2 = 0 →
    a = { reply := replyOf s 0x20 r, pen := actingPen s r, ext := BitVec.ofNat 35 (leAt r.payload 0 8 / 2 ^ 21), left := 1,
          tier := .near, cls := a.cls, node := 0, owner := 0, keyId := fieldLe 8 r.payload 18 1, hold := false,
          comp := false } →
    slotMoving u (keySlot (allocKey a)) = false → (migOf u (allocKey a)).any (·.ending) = false → allocVerdict u a = stOk → (freeFrame u .near 0).isSome = true →
    nearFrames u ≤ 2 ^ 32 →
    ∃ t f, f < nearFrames u ∧ frameOk u f = true ∧ f ∉ usedFrames u .near 0 ∧ exec (.extentAlloc r) s = .next t ∧
      (extAt t (allocKey a)).v = true ∧ (extAt t (allocKey a)).tier = .near ∧
      (extAt t (allocKey a)).frame.toNat = f ∧ (extAt t (allocKey a)).cls = a.cls ∧
      (extAt t (allocKey a)).keyId = a.keyId ∧ (extAt t (allocKey a)).st = .resident ∧
      (extAt t (allocKey a)).gen = (extAt s (allocKey a)).gen + 1 ∧ t.near.mem = zeroRange s.near.mem (f * 2 ^ 21) (2 ^ 21) ∧
      (∀ k, k ≠ allocKey a → extAt t k = extAt s k)) ∧
  (∀ (r : Req) (s u : State) (k : ExtKey), Accepts cmdExtentFree false r s → u = takeRequest 0x21 false r s →
    leAt r.payload 0 8 % 2 ^ 21 = 0 → leAt r.payload 8 4 = 1 → rangeOk (leAt r.payload 0 8) 1 = true →
    k = (actingPen s r, BitVec.ofNat 35 (leAt r.payload 0 8 / 2 ^ 21)) → slotMoving u (keySlot k) = false →
    freeVerdict u k = stOk → u.pool.jobs = [] → u.work.builds = [] → u.pool.recalls = [] → migOf u k = none →
    ∃ t, exec (.extentFree r) s = .next t ∧ (extAt t k).v = false ∧ (extAt t k).gen = (extAt s k).gen + 1 ∧
      (∀ j, j ≠ k → extAt t j = extAt s j) ∧ t.near.mem = s.near.mem) ∧
  (∀ (p : BitVec 12) (e : BitVec 35) (s : State), migOf s (p, e) = none →
    ∃ t, exec (.extentScrubDone p e) s = .next t ∧
      (∀ c ∈ t.pool.scrubs, c.key = (p, e) → scrubbable s (p, e) c.frm = false) ∧
      (∀ c ∈ s.pool.scrubs, c.key ≠ (p, e) → c ∈ t.pool.scrubs)) ∧
  (∀ (r : Req) (s u : State) (k : ExtKey), Accepts cmdExtentMigrate false r s → u = takeRequest 0x22 false r s →
    tierOf (leAt r.payload 12 1) = some .near → leAt r.payload 14 2 = 0 → leAt r.payload 0 8 % 2 ^ 21 = 0 →
    leAt r.payload 8 4 = 1 → rangeOk (leAt r.payload 0 8) 1 = true →
    k = (actingPen s r, BitVec.ofNat 35 (leAt r.payload 0 8 / 2 ^ 21)) → slotMoving u (keySlot k) = false →
    migAct u k .near 0 = .start → (freeFrame u .near 0).isSome = true →
    ∃ t m f, f < nearFrames u ∧ frameOk u f = true ∧ f ∉ usedFrames u .near 0 ∧ exec (.extentMigrate r) s = .next t ∧ (extAt t k).st = .migrating ∧ migOf t k = some m ∧ m.target = .near ∧
      m.frame = some f ∧ m.bits = [] ∧ m.moving = none ∧ (∀ j, j ≠ k → extAt t j = extAt s j)) ∧
  (∀ (r : Req) (s u : State) (k : ExtKey) (t : Tier), Accepts cmdExtentMigrate false r s → u = takeRequest 0x22 false r s →
    tierOf (leAt r.payload 12 1) = some t → leAt r.payload 0 8 % 2 ^ 21 = 0 →
    leAt r.payload 8 4 = 1 → rangeOk (leAt r.payload 0 8) 1 = true →
    k = (actingPen s r, BitVec.ofNat 35 (leAt r.payload 0 8 / 2 ^ 21)) → slotMoving u (keySlot k) = false →
    migAct u k t (fieldLe 16 r.payload 14 2) = .there → u.pool.migCmds = [] →
    ∃ v, exec (.extentMigrate r) s = .next v ∧ v.pool.exts = s.pool.exts ∧ v.pool.migs = s.pool.migs ∧ v.near = s.near) ∧
  (∀ (p : BitVec 12) (e : BitVec 35) (s : State) (m : Migration) (b : Nat), migOf s (p, e) = some m → migBlock m = some b →
    m.moving = none → m.stalled = false → m.ending = false → (migInto m).isSome = true →
    (extAt s (p, e)).st = .migrating → migRuns s m = true → slotMoving s (keySlot (p, e)) = false →
    blockBusy s (p, e) b = false →
    ∃ t n, exec (.migrationBlockStart p e) s = .next t ∧ migOf t (p, e) = some n ∧ n.moving = some b ∧ n.bits = m.bits ∧
      t.near.mem = s.near.mem ∧ t.pool.exts = s.pool.exts) ∧
  (∀ (p : BitVec 12) (e : BitVec 35) (s : State) (m : Migration) (b f : Nat) (d : List Byte), migOf s (p, e) = some m →
    m.moving = some b → m.data = some d → d.length = 4096 → m.back = false → m.target = .near → m.frame = some f →
    m.ending = false → m.turnBack = false → writeSt s (512 * f + b) = .fine → m.src.tier ≠ .flash →
    migBlock { m with bits := b :: m.bits } ≠ none → s.pool.jobs = [] → s.work.builds = [] →
    ∃ t, exec (.migrationBlockAck p e) s = .next t ∧ nearBlock t (512 * f + b) = d ∧
      migOf t (p, e) = some { m with bits := b :: m.bits, moving := none, data := none, written := false } ∧
      t.pool.exts = s.pool.exts) ∧
  (∀ (p : BitVec 12) (e : BitVec 35) (s : State) (m : Migration) (b : Nat), migOf s (p, e) = some m → m.moving = some b →
    m.ending = false → m.turnBack = false → migBlock m ≠ none → s.pool.jobs = [] → s.work.builds = [] →
    (∃ t, exec (.migrationBlockTimeout p e) s = .next t ∧ t.near.mem = s.near.mem ∧
      migOf t (p, e) = some { m with moving := none, data := none, written := false, stalled := true }) ∧
    (∀ x, sourceError s (p, e) b = some x →
      ∃ t, exec (.migrationSourceError p e) s = .next t ∧ exec (.migrationBlockTimeout p e) s = .next t ∧
        t.near.mem = s.near.mem ∧ migOf t (p, e) = some { m with moving := none, data := none, written := false, stalled := true })) ∧
  (∀ (p : Rx) (s u : State), Passes 0x44 p s → flagBit p 2 = false → u = station9 0x44 p s → p.addr.toNat % 2 ^ 21 = 0 →
    ∃ t, exec (.lendOffer p) s = .next t ∧ aGetD t.pool.lent p.src [] =
        aGetD u.pool.lent p.src [] ++ lendFrames u p.src (p.addr.toNat / 2 ^ 21) p.group.toNat ∧
      ((aGetD u.pool.lent p.src []).length ≤ 65536 → (aGetD t.pool.lent p.src []).length ≤ 65536) ∧
      t.pool.exts = u.pool.exts) ∧
  (∀ (p : Rx) (s u : State), Passes 0x45 p s → flagBit p 2 = false → u = station9 0x45 p s →
    recalled u p.src (p.addr.toNat / 2 ^ 21) p.group.toNat = [] →
    ∃ t, exec (.recall p) s = .next t ∧ t.pool.exts = u.pool.exts ∧ aGetD t.pool.lent p.src [] =
      (aGetD u.pool.lent p.src []).filter fun f =>
        ¬ (p.addr.toNat / 2 ^ 21 ≤ f ∧ f < p.addr.toNat / 2 ^ 21 + p.group.toNat)) ∧
  (∀ (id : Nat) (s : State) (r : Recall) (k : ExtKey), s.pool.recalls.find? (fun q => q.id = id) = some r → r.todo = [k] →
    (extAt s k).v = true → migOf s k = none → s.pool.jobs = [] → s.work.builds = [] →
    ∃ t, exec (.recallDeadlineExpiry id) s = .next t ∧ (extAt t k).st = .lost ∧ (∀ q ∈ t.pool.recalls, q.id ≠ id) ∧
      (∀ j, j ≠ k → extAt t j = extAt s j)) ∧
  (∀ (id : Nat) (s : State), (∀ q ∈ s.pool.recalls, q.id ≠ id) → exec (.recallDeadlineExpiry id) s = .next s)

/-- R110 to R121: a created region has version 1; a publication's version follows the latest and starts from its map; a
draft is sealed; a handle names an open version; a closed handle is not open; a retired region takes no publication; a
version that is neither latest nor held is freed, a held one stays. Stated of regions for whose turn nothing waits. -/
def Obligations.Regions : Prop :=
  (∀ (r : Req) (s u : State) (p : BitVec 12) (id : W32) (size : Nat), Accepts (cmdRegionCreate r) true r s →
    u = takeRequest 0x30 true r s → p = actingPen s r → id = fieldLe 32 r.payload 0 4 → id ≠ 0 → createRanges r = true →
    draftCount r = 0 → changeCount r = 0 → size = leAt r.payload 4 4 → slotMoving u (regionSlot p id) = false →
    s.share.pubs = [] → regionAt s p id = none → s.share.regions.length < 262144 → size * 4096 ≤ ctlFree u →
    ∃ t, exec (.regionCreate r) s = .next t ∧
      regionAt t p id = some { size, latest := 1, creator := r.chan, versions := [(1, [])] } ∧ t.share.pubs = [] ∧
      t.pool.exts = s.pool.exts) ∧
  (∀ (r : Req) (s u : State) (p : BitVec 12) (id : W32) (q : Region), Accepts (cmdRegionPublish r) true r s →
    u = takeRequest 0x31 true r s → p = actingPen s r → id = fieldLe 32 r.payload 0 4 → publishRanges r = true →
    draftCount r = 0 → changeCount r = 0 → slotMoving u (regionSlot p id) = false → s.share.pubs = [] →
    regionAt s p id = some q → q.retired = false → fieldLe 32 r.payload 4 4 = q.latest → q.latest ≠ 0xFFFFFFFF →
    q.versions.length < 16 → versionHeld u p id q.latest = true → q.size * 4096 ≤ ctlFree u →
    ∃ t, exec (.regionPublish r) s = .next t ∧ regionAt t p id = some { q with
        latest := q.latest + 1, versions := aSet q.versions (q.latest + 1) (aGetD q.versions q.latest []) }) ∧
  (∀ (p : BitVec 12) (e e' : BitVec 35) (s : State) (q : Pub), s.share.pubs = [q] → q.started = true → q.pen = p →
    q.todo = [e, e'] → e ≠ e' → drained s (p, e) = true → slotMoving s (keySlot (p, e)) = false →
    ∃ t, exec (.draftSeal p e) s = .next t ∧ (extAt t (p, e)).cls = .sealed ∧ (extAt t (p, e)).owner = none ∧
      (extAt t (p, e)).hold = none ∧ t.share.pubs = [{ q with todo := [e'] }] ∧
      (∀ k, k ≠ (p, e) → extAt t k = extAt s k)) ∧
  (∀ (r : Req) (s u : State) (p : BitVec 12) (id v : W32) (q : Region), Accepts (cmdRegionOpen r) false r s →
    u = takeRequest 0x32 false r s → p = actingPen s r → id = fieldLe 32 r.payload 0 4 → leAt r.payload 8 2 = 0 →
    slotMoving u (regionSlot p id) = false → slotMoving u (chanSlot r.chan) = false →
    regionAt u p id = some q → q.retired = false →
    v = (if fieldLe 32 r.payload 4 4 = 0 then q.latest else fieldLe 32 r.payload 4 4) → v.toNat ≤ q.latest.toNat →
    (aGet q.versions v).isSome = true → leaseRevoked u p (.chan r.chan) = false → openHandles u < 1048576 →
    leaseRoom u p (.chan r.chan) = true →
    exec (.regionOpen r) s = .next (answerOpen r (replyOf s 0x32 r) q
      { pen := p, rpen := p, region := id, version := v, holder := r.chan } u)) ∧
  (∀ (r : Req) (s u : State) (x : Handle), Accepts { cmdRegionClose with flags := 0, fields := [(0, 4)] } false r s →
    u = takeRequest 0x33 false r s → handleOpen u (actingPen s r) (fieldLe 32 r.payload 0 4) = some x →
    (handleSlots u (actingPen s r) (fieldLe 32 r.payload 0 4)).any (slotMoving u) = false →
    ∃ t, exec (.regionClose r) s = .next t ∧
      handleAt t (fieldLe 32 r.payload 0 4) = some { x with isOpen := false, window := false } ∧
      t.share.regions = s.share.regions ∧ t.pool.exts = s.pool.exts) ∧
  (∀ (r : Req) (s u : State) (p : BitVec 12) (id : W32) (q : Region), Accepts cmdRegionClose false r s →
    u = takeRequest 0x33 false r s → p = actingPen s r → leAt r.payload 0 4 = 0 → id = fieldLe 32 r.payload 4 4 →
    slotMoving u (regionSlot p id) = false → s.share.pubs = [] → regionAt s p id = some q → q.retired = false →
    (isAdmin r.chan = true ∨ r.chan = q.creator) → versionHeld u p id q.latest = true →
    ∃ t, exec (.regionRetire r) s = .next t ∧ regionAt t p id = some { q with retired := true }) ∧
  (∀ (p : BitVec 12) (id v : W32) (s : State) (q : Region), slotMoving s (regionSlot p id) = false →
    regionAt s p id = some q → q.retired = false → q.latest ≠ v → versionHeld s p id v = false →
    aGet q.versions v = some [] →
    ∃ t, exec (.versionFree p id v) s = .next t ∧ regionAt t p id = some { q with versions := aErase q.versions v } ∧
      t.pool.exts = s.pool.exts) ∧
  (∀ (p : BitVec 12) (id v : W32) (s : State), versionHeld s p id v = true → exec (.versionFree p id v) s = .next s)

/-- R58 to R60: a created window reserves its layers and stages the first ones; an advance stages the next layer and marks
the one behind; at the last layer without WRAP the window and its handle end; a NEAR block's image is taken; a marked layer's
images go. -/
def Obligations.StreamWindows : Prop :=
  (∀ (r : Req) (s u : State) (x : Handle) (w : Window), Accepts cmdWindowCreate false r s → u = takeRequest 0x40 false r s →
    handleOpen u (actingPen s r) (fieldLe 32 r.payload 0 4) = some x →
    (handleSlots u (actingPen s r) (fieldLe 32 r.payload 0 4)).any (slotMoving u) = false → leAt r.payload 16 4 ≠ 0 →
    1 ≤ leAt r.payload 24 1 → leAt r.payload 24 1 ≤ 64 → leAt r.payload 24 1 ≤ leAt r.payload 20 4 →
    leAt r.payload 25 1 ≤ 1 → leAt r.payload 8 8 % 2 ^ 21 = 0 → leAt r.payload 8 8 < 2 ^ 56 →
    stageReserved u + leAt r.payload 24 1 * leAt r.payload 16 4 * 2 ^ 21 ≤ u.near.stagePool →
    w = { pen := x.pen, handle := fieldLe 32 r.payload 0 4,
          ext := (x.rpen, BitVec.ofNat 35 (leAt r.payload 8 8 / 2 ^ 21)), stride := leAt r.payload 16 4,
          layers := leAt r.payload 20 4, depth := leAt r.payload 24 1, wrap := leAt r.payload 25 1 == 1,
          staged := List.range (leAt r.payload 24 1) } →
    s.pool.windows.length < 2 ^ 32 →
    ∃ t id, aGet s.pool.windows id = none ∧ exec (.windowCreate r) s = .next t ∧ aGet t.pool.windows id = some w ∧
      (∀ i, i ≠ id → aGet t.pool.windows i = aGet s.pool.windows i) ∧ t.pool.images = s.pool.images) ∧
  (∀ (r : Req) (s u : State) (w : Window), Accepts cmdWindowAdvance false r s → u = takeRequest 0x41 false r s →
    aGet s.pool.windows (fieldLe 32 r.payload 0 4) = some w → w.pen = actingPen s r → w.wrap = false →
    (handleSlots u (actingPen s r) w.handle).any (slotMoving u) = false →
    w.front + w.depth < w.layers → 1 ≤ w.depth →
    ∃ t x, exec (.windowAdvance r) s = .next t ∧ aGet t.pool.windows (fieldLe 32 r.payload 0 4) = some x ∧
      x.front = w.front + 1 ∧ w.front + w.depth ∈ x.staged ∧ w.front ∈ x.marked ∧ x.depth = w.depth ∧
      t.pool.images = s.pool.images) ∧
  (∀ (r : Req) (s u : State) (w : Window), Accepts cmdWindowAdvance false r s → u = takeRequest 0x41 false r s →
    aGet s.pool.windows (fieldLe 32 r.payload 0 4) = some w → w.pen = actingPen s r → w.wrap = false →
    (handleSlots u (actingPen s r) w.handle).any (slotMoving u) = false → w.front + 1 = w.layers →
    exec (.windowAdvance r) s =
      .next (post (replyOf s 0x41 r) stOk (toLe 4 (w.front + 1) ++ [1]) (closeHandle w.handle u))) ∧
  (∀ (id : W32) (layer block x : Nat) (s : State) (w : Window) (k : ExtKey) (b : Nat), aGet s.pool.windows id = some w →
    layerBlock w layer block = (k, b) → layer ∈ w.staged → block < w.stride * 512 → stageRoom s id w = true →
    (s.pool.devReqs.any fun r => r.owner == .stage id layer block) = false →
    (s.pool.images.any fun i => i.window == id && i.layer == layer && i.block == block) = false →
    (extAt s k).v = true → (extAt s k).cls = .sealed → (extAt s k).st ≠ .lost →
    (memKey s k.1 (extAt s k).keyId).isSome = true → frmPlace (blockFrm s k b) b = .near x → readSt s x = .fine →
    exec (.stageBlockDone id layer block) s = .next { s with pool := { s.pool with
      images := s.pool.images ++ [{ window := id, layer, block, bytes := nearBlock s x }] } }) ∧
  (∀ (id : W32) (layer : Nat) (s : State) (w : Window), aGet s.pool.windows id = some w → layer ∈ w.marked →
    layerRead s w layer = false →
    ∃ t, exec (.stagedLayerDiscard id layer) s = .next t ∧
      (∀ i ∈ t.pool.images, ¬ (i.window = id ∧ i.layer = layer)) ∧
      (∀ i ∈ s.pool.images, ¬ (i.window = id ∧ i.layer = layer) → i ∈ t.pool.images) ∧
      { t with pool := { t.pool with windows := s.pool.windows, images := s.pool.images } } = s) ∧
  (∀ (id : W32) (layer : Nat) (s : State) (w : Window), aGet s.pool.windows id = some w → layer ∉ w.marked →
    exec (.stagedLayerDiscard id layer) s = .next s)

/-- R123 to R126, R137 to R139: a lease is made at its first event, renewed at its full duration, goes from Active to Grace
to Revoked, and a revoked node's extents drain; a reclaimed extent is not valid; a holder whose home is rebuilt keeps its
timer stopped. -/
def Obligations.Leases : Prop :=
  (∀ (r : Req) (s u : State) (h : Holder), Accepts cmdLeaseSet false r s → u = takeRequest 0x23 false r s → r.flags = 0 →
    durationOk (leAt r.payload 4 4) = true → (callerClass s r.chan = .admin ∨ leAt r.payload 0 1 = 0) →
    setHolder r = some h → slotMoving u (holderSlot h) = false → leaseRevoked u (actingPen s r) h = false →
    leaseRoom u (actingPen s r) h = true →
    exec (.leaseSet r) s = .next (leaseAnswer (replyOf s 0x23 r) (actingPen s r) h
      (createLease (actingPen s r) h (setDuration (actingPen s r) h (leAt r.payload 4 4) u)))) ∧
  (∀ (r : Req) (s u : State) (h : Holder), Accepts cmdLeaseSet false r s → u = takeRequest 0x23 false r s → r.flags = 1 →
    durationOk (leAt r.payload 4 4) = true → leAt r.payload 0 1 = 0 → h = .chan r.chan →
    slotMoving u (holderSlot h) = false → leaseRevoked u (actingPen s r) h = false → leaseRoom u (actingPen s r) h = true →
    ∃ t l, exec (.leaseSetRenew r) s = .next t ∧ leaseAt t (actingPen s r) h = some l ∧ l.st = .active ∧
      l.dur = leaseDur t (actingPen s r) h) ∧
  (∀ (r : Req) (s u : State) (h : Holder) (l : Lease), Accepts cmdLeaseSet false r s → u = takeRequest 0x23 false r s →
    r.flags = 2 → durationOk (leAt r.payload 4 4) = true → callerClass s r.chan = .admin → setHolder r = some h →
    slotMoving u (holderSlot h) = false → leaseAt u (actingPen s r) h = some l → l.st ≠ .revoked →
    exec (.leaseRevoke r) s = .next (leaseAnswer (replyOf s 0x23 r) (actingPen s r) h
      (revokeLease (actingPen s r) h (setDuration (actingPen s r) h (leAt r.payload 4 4) u)))) ∧
  (∀ (p : Rx) (s u : State) (l : Lease), Passes 0x40 p s → u = station9 0x40 p s → p.handle = 0 → p.addr = 0 →
    leaseAt u p.pen (.node p.src) = some l → l.st ≠ .revoked →
    ∃ t, exec (.leaseRenew p) s = .next t ∧ leaseAt t p.pen (.node p.src) = some { l with
      st := .active, dur := leaseDur u p.pen (.node p.src), late := (if l.st = .grace then satInc l.late else l.late) }) ∧
  (∀ (h : Holder) (p : BitVec 12) (s : State) (l : Lease), slotMoving s (holderSlot h) = false → leaseAt s p h = some l →
    l.st = .active → ∃ t, exec (.leaseTimerExpiry h p) s = .next t ∧ leaseAt t p h = some { l with st := .grace } ∧
      (∀ q g, (q, g) ≠ (p, h) → leaseAt t q g = leaseAt s q g) ∧
      { t with share := { t.share with leases := s.share.leases } } = s) ∧
  (∀ (h : Holder) (p : BitVec 12) (s : State), slotMoving s (holderSlot h) = true →
    exec (.leaseTimerExpiry h p) s = .next s ∧ exec (.leaseGraceExpiry h p) s = .next s) ∧
  (∀ (n : Node) (p : BitVec 12) (s : State) (l : Lease) (k : ExtKey) (o : OwnerRec),
    slotMoving s (holderSlot (.node n)) = false → leaseAt s p (.node n) = some l → l.st = .grace → k.1 = p →
    s.pool.exts = [(k, extAt s k)] → (extAt s k).v = true → (extAt s k).cls ≠ .sealed → (extAt s k).owner = some o →
    o.owner = n → s.share.pubs = [] → s.share.invals = [] → s.pairs = [] →
    ∃ t, exec (.leaseGraceExpiry (.node n) p) s = .next t ∧ leaseAt t p (.node n) = some { l with st := .revoked } ∧
      (extAt t k).st = .draining ∧ (extAt t k).reclaim = some (.node n)) ∧
  (∀ (p : BitVec 12) (x : BitVec 35) (s : State), reclaimReady s (p, x) = true → slotMoving s (keySlot (p, x)) = false →
    (extAt s (p, x)).st = .scrubbing → migOf s (p, x) = none → scrubbable s (p, x) (extFrm (extAt s (p, x))) = true →
    s.pool.recalls = [] → s.pool.migCmds = [] →
    ∃ t, exec (.reclaimExtentScrub p x) s = .next t ∧ (extAt t (p, x)).v = false ∧
      (∀ k, k ≠ (p, x) → extAt t k = extAt s k)) ∧
  (∀ (p : BitVec 12) (x : BitVec 35) (s : State), reclaimReady s (p, x) = false →
    exec (.reclaimExtentScrub p x) s = .next s)

/-- R127 to R136: an invalidation without readers is answered at once, one with readers waits for each; a reader's last
answer ends it; a slow one is counted once. An offer makes the owner record's epoch odd and names the target, its accept
makes the target the owner at the next even epoch, and the timer returns it to its owner. -/
def Obligations.InvalidationsAndOwners : Prop :=
  (∀ (n : Node) (seq : W32) (p : Rx) (s u : State), dueHeld s n 0x10 seq = some p → slotMoving s (invalSlot s p) = false →
    u = unhold n 0x10 seq s → (takeReaders p u).1 = [] → u.share.invals = [] →
    ∃ t, exec (.invalidateApply n seq) s = .next t ∧ t.share.invals = []) ∧
  (∀ (n : Node) (seq : W32) (p : Rx) (s u : State) (r : Node) (rs : List Node), dueHeld s n 0x10 seq = some p →
    slotMoving s (invalSlot s p) = false → u = unhold n 0x10 seq s → (takeReaders p u).1 = r :: rs →
    s.share.invals.length < 2 ^ 32 →
    ∃ t id, (∀ v ∈ s.share.invals, v.id ≠ id) ∧ exec (.invalidateApply n seq) s = .next t ∧
      t.share.invals = s.share.invals ++ [{ id, rx := p, waiting := r :: rs }]) ∧
  (∀ (p : Rx) (s u : State) (v : Inval), (letIn 0x11 p s).1 = true → u = received 0x11 p s → u.share.invals = [v] →
    v.id = p.tag.toNat → v.waiting = [p.src] →
    ∃ t, exec (.invalAck p) s = .next t ∧ t.share.invals = [] ∧ t.pool = u.pool) ∧
  (∀ (p : Rx) (s u : State) (v : Inval) (r : Node), (letIn 0x11 p s).1 = true → u = received 0x11 p s →
    u.share.invals = [v] → v.id = p.tag.toNat → v.waiting = [p.src, r] → r ≠ p.src →
    ∃ t, exec (.invalAck p) s = .next t ∧ t.share.invals = [{ v with waiting := [r] }] ∧ t.pool = u.pool) ∧
  (∀ (id : Nat) (s : State) (v : Inval), s.share.invals = [v] → v.id = id → v.slow = false → slotMoving s (invalSlot s v.rx) = false →
    ∃ t, exec (.invalidationSlowThreshold id) s = .next t ∧ t.share.slowCnt = satInc s.share.slowCnt ∧
      t.share.invals = [{ v with slow := true }] ∧ t.pool = s.pool ∧ t.pairs = s.pairs) ∧
  (∀ (n : Node) (seq : W32) (p : Rx) (s u : State) (o : OwnerRec), dueHeld s n 0x58 seq = some p →
    slotMoving s (keySlot (rxKey s p)) = false → u = unhold n 0x58 seq s → (extAt u (rxKey u p)).v = true →
    (extAt u (rxKey u p)).cls ≠ .sealed → (extAt u (rxKey u p)).st = .resident → (extAt u (rxKey u p)).owner = some o →
    o.epoch.toNat < 0xFFFFFFFC → inTransfer o = false → p.src = o.owner → p.step = o.epoch →
    p.group.setWidth 16 ≠ (0 : Node) → p.group.setWidth 16 ≠ (0xFFFF : Node) → p.group.setWidth 16 ≠ p.src →
    ∃ t, exec (.ownerOfferApply n seq) s = .next t ∧ (extAt t (rxKey u p)).owner =
      some { o with epoch := o.epoch + 1, target := p.group.setWidth 16, tag := p.tag, cls := p.cls }) ∧
  (∀ (p : Rx) (s u : State) (o : OwnerRec), Passes 0x59 p s → u = station9 0x59 p s →
    (extAt u (rxKey u p)).owner = some o → inTransfer o = true → p.src = o.target → p.step = o.epoch →
    leaseRoom u p.pen (.node p.src) = true →
    ∃ t, exec (.ownerAccept p) s = .next t ∧
      (extAt t (rxKey u p)).owner = some { o with owner := p.src, target := 0, epoch := o.epoch + 1 }) ∧
  (∀ (p : Rx) (s u : State) (o : OwnerRec) (q : Pkt), Passes 0x5A p s → u = station9 0x5A p s →
    (extAt u (rxKey u p)).owner = some o → p.src = o.owner → muted p = false →
    q = { op := 0x5A, pen := (rxKey u p).1, cls := p.cls, epoch := u.routes.current.epoch, addr := p.addr,
          keyId := (extAt u (rxKey u p)).keyId, step := o.epoch, tag := p.tag } →
    exec (.ownerQuery p) s = .next (finishEpoch p.epoch (send p.src q u))) ∧
  (∀ (p : BitVec 12) (x : BitVec 35) (s : State) (o : OwnerRec), (extAt s (p, x)).owner = some o → inTransfer o = true →
    slotMoving s (keySlot (p, x)) = false →
    ∃ t, exec (.transferTimerExpiry p x) s = .next t ∧
      (extAt t (p, x)).owner = some { o with epoch := o.epoch + 1, target := 0 } ∧
      (∀ k, k ≠ (p, x) → extAt t k = extAt s k)) ∧
  (∀ (p : BitVec 12) (x : BitVec 35) (s : State) (o : OwnerRec), (extAt s (p, x)).owner = some o → inTransfer o = false →
    exec (.transferTimerExpiry p x) s = .next s)

/-! ## Tables, expanders and groups (R160 to R193) -/

/-- R160 to R166: a built table is Bound under the Pen's next tag, which skips 0; a retired one takes no new block and is
deleted once no slot holds it; a raw block needs no table, a coded one is bound to a slot whose table is loaded; a delivered
block leaves the queue. -/
def Obligations.TablesAndExpanders : Prop :=
  (∀ (r : Req) (s u : State) (id : BitVec 3), Accepts (cmdTableBuild r) true r s → u = takeRequest 0x70 true r s →
    r.flags = 0 → leAt r.payload 0 1 ≤ 7 → id = BitVec.ofNat 3 (leAt r.payload 0 1) → tableAt u (actingPen s r) id = none →
    building u (actingPen s r) id = false → 128 ≤ ctlFree u →
    ∃ t, exec (.tableBuild r) s = .next t ∧ tableAt t (actingPen s r) id =
        some { lens := buildLens ((List.range 256).map fun i => leAt (inBuf s r) (4 * i) 4), tag := (pen s (actingPen s r)).tagNext } ∧
      (pen t (actingPen s r)).tagNext =
        (if (pen s (actingPen s r)).tagNext + 1 = 0 then 1 else (pen s (actingPen s r)).tagNext + 1)) ∧
  (∀ (r : Req) (s u : State) (id : BitVec 3) (n : Nat), Accepts (cmdTableBuild r) true r s → u = takeRequest 0x70 true r s →
    r.flags = 1 → leAt r.payload 0 1 ≤ 7 → id = BitVec.ofNat 3 (leAt r.payload 0 1) → n = leAt r.payload 4 4 → 1 ≤ n →
    n ≤ 64 → tableAt u (actingPen s r) id = none → building u (actingPen s r) id = false →
    (∀ k ∈ buildExts (actingPen s r) (inBuf s r) n, (leaf u k).isSome = true) → 128 ≤ ctlFree u →
    exec (.tableBuild r) s = .next (settleBuilds { u with work := { u.work with builds := u.work.builds ++
      [{ reply := replyOf s 0x70 r, pen := actingPen s r, id, todo := buildExts (actingPen s r) (inBuf s r) n,
         counts := List.replicate 256 0 }] } })) ∧
  (∀ (r : Req) (s : State) (id : BitVec 3) (x : Table), Accepts cmdTableRetire false r s → leAt r.payload 0 1 ≤ 7 →
    id = BitVec.ofNat 3 (leAt r.payload 0 1) → tableAt s (actingPen s r) id = some x → x.retiring = false →
    ∃ t, exec (.tableRetire r) s = .next t ∧ boundTable t (actingPen s r) id = none ∧
      tableAt t (actingPen s r) id = some { x with retiring := true, retire := some (replyOf s 0x71 r) }) ∧
  (∀ (p : BitVec 12) (id : BitVec 3) (s : State) (x : Table), tableAt s p id = some x → x.retiring = true →
    tableHeld s p id x.tag = false → ∃ t, exec (.tableRetireDone p id) s = .next t ∧ tableAt t p id = none ∧
      (∀ q i, (q, i) ≠ (p, id) → tableAt t q i = tableAt s q i)) ∧
  (∀ (p : BitVec 12) (id : BitVec 3) (s : State) (x : Table), tableAt s p id = some x → tableHeld s p id x.tag = true →
    exec (.tableRetireDone p id) s = .next s) ∧
  (∀ (e : ExpRef) (p : BitVec 12) (slot : Nat) (desc : W32) (bytes : List Byte) (s : State), descRaw desc = true →
    ∃ t, exec (.expanderEnqueue e p slot desc bytes) s = .next t ∧ (expander t e).queue =
      (expander s e).queue ++ [{ slot, pen := p, desc, bytes }] ∧ (expander t e).slots = (expander s e).slots ∧
      (∀ f, f ≠ e → expander t f = expander s f)) ∧
  (∀ (e : ExpRef) (p : BitVec 12) (slot : Nat) (desc : W32) (bytes : List Byte) (s : State) (x : Table) (i : Fin 8),
    descRaw desc = false → boundTable s p (descTable desc) = some x →
    slotOfTable (expander s e) p (descTable desc) x.tag = none → idleSlot (expander s e) = some i →
    ∃ t, exec (.expanderEnqueue e p slot desc bytes) s = .next t ∧ (expander t e).queue =
      (expander s e).queue ++ [{ slot, pen := p, desc, bytes, bound := some i }] ∧ aGet (expander t e).slots i =
        some { pen := p, id := descTable desc, gen := x.tag, lens := x.lens, count := 1, loading := true }) ∧
  (∀ (y : YardRef) (p : BitVec 12) (slot : Nat) (desc : W32) (bytes : List Byte) (s : State), descRaw desc = false →
    boundTable s p (descTable desc) = none →
    exec (.expanderEnqueue (.yard y) p slot desc bytes) s = .next (taskFault y tkAbsent none s)) ∧
  (∀ (e : ExpRef) (i : Fin 8) (q : ExpSlot) (s : State), aGet (expander s e).slots i = some q →
    ∃ t, exec (.expanderTableLoadDone e i) s = .next t ∧ aGet (expander t e).slots i = some { q with loading := false } ∧
      (∀ j, j ≠ i → aGet (expander t e).slots j = aGet (expander s e).slots j) ∧
      (expander t e).queue = (expander s e).queue) ∧
  (∀ (y : YardRef) (s : State), exec (.expanderBlockDeliver (.yard y)) s = .next (deliverYard y s)) ∧
  (∀ (sh : ShedIx) (u : UnitIx) (s : State), unitReqs s sh .gather u = [] →
    exec (.expanderBlockDeliver (.gather sh u)) s = .next s) ∧
  (∀ (e : ExpRef) (b : ExpBlock) (s : State), (expander s e).queue = [b] → descRaw b.desc = true →
    (deliverBlock e b.slot s).1 = .data b.bytes ∧ (expander (deliverBlock e b.slot s).2 e).queue = [])

/-- R173, R176, R178: a contribution of an expected member is accepted into its chunk's lanes and counted; the last one
completes the chunk, which leaves its slot; a contribution of no member, or a second one, is counted and changes no
chunk. -/
def Obligations.ReduceContributions : Prop :=
  (∀ (p : Rx) (s u : State), Passes 0x20 p s → u = station9 0x20 p s → groupAt u p.group = none →
    exec (.reduceContrib p) s = .next (finishEpoch p.epoch u)) ∧
  (∀ (p : Rx) (s u : State) (x : Group) (m : Member), Passes 0x20 p s → u = station9 0x20 p s →
    groupAt u p.group = some x → x.cnt.length = 8 → x.st = .active → p.keyId = x.keyId → p.pen = x.pen →
    p.addr.toNat < x.chunks → seqLt p.step x.start = false → m ∈ x.members → m.node = p.src → expected m p.step = true →
    (p.step, p.addr.toNat) ∉ x.completed →
    (∀ c, c ∈ x.opened → c.step = p.step → c.index = p.addr.toNat → ∀ a, a ∈ c.arrived → a.1.src ≠ p.src) →
    (∀ (c : Chunk) (k : Member), (chunkFor p.group x p u).1 = some c → k ∈ x.members → expected k p.step = true →
      k.abandon = false → k.node ≠ p.src → (∀ a, a ∈ c.arrived → a.1.src ≠ k.node) →
      ∃ t y c', exec (.reduceContrib p) s = .next t ∧ groupAt t p.group = some y ∧ c' ∈ y.opened ∧ c'.step = p.step ∧
        c'.index = p.addr.toNat ∧ c'.lanes = applyContrib x (chunkLanes x c) p.payload ∧
        c'.arrived.length = c.arrived.length + 1 ∧ y.completed = x.completed ∧
        y.cnt.getD 0 0 = satInc (x.cnt.getD 0 0)) ∧
    (∀ c : Chunk, (chunkFor p.group x p u).1 = some c →
      (∀ k, k ∈ x.members → expected k p.step = true → k.abandon = false → k.node ≠ p.src →
        ∃ a, a ∈ c.arrived ∧ a.1.src = k.node) →
      ∃ t y, exec (.reduceContrib p) s = .next t ∧ groupAt t p.group = some y ∧
        (p.step, p.addr.toNat) ∈ y.completed ∧
        (∀ q, q ∈ y.opened → ¬ (q.step = p.step ∧ q.index = p.addr.toNat)))) ∧
  (∀ (p : Rx) (s u : State) (x : Group), Passes 0x20 p s → u = station9 0x20 p s → groupAt u p.group = some x →
    x.cnt.length = 8 → (∀ m, m ∈ x.members → m.node ≠ p.src) →
    ∃ t y, exec (.reduceContrib p) s = .next t ∧ groupAt t p.group = some y ∧ y.opened = x.opened ∧
      y.cnt.getD 1 0 = satInc (x.cnt.getD 1 0) ∧ y.members = x.members) ∧
  (∀ (p : Rx) (s u : State) (x : Group) (v : W32 × Nat × Node × List Rx), (letIn 0x21 p s).1 = true →
    u = received 0x21 p s → groupAt u p.group = some x → x.upward = [v] → v.1 = p.step → v.2.1 = p.addr.toNat →
    v.2.2.1 = p.src → ∃ t, exec (.reduceResult p) s = .next t ∧ groupAt t p.group = some { x with upward := [] }) ∧
  (∀ (p : Rx) (s : State), (letIn 0x21 p s).1 = true → groupAt (received 0x21 p s) p.group = none →
    exec (.reduceResult p) s = .next (received 0x21 p s))

/-- R168, R179 to R189, R343: a created group holds the slots reserved for it; an eviction and an admission name the step
after the front; a destroyed group has no open chunk and is gone when its results have been sent; a score window's end
scores every member; a group's health is its report. -/
def Obligations.GroupCommands : Prop :=
  (∀ (r : Req) (s u : State) (b : List Byte) (x : Group) (sl : Assoc (ShedIx × UnitIx) Nat),
    Accepts cmdGroupCreate true r s → u = takeRequest 0x50 true r s → b = inBuf s r →
    x = descGroup (actingPen s r) r.chan b → b.length = 64 + 4 * leAt b 20 2 → groupOk u b x = true →
    slotMoving u (groupSlot (fieldLe 32 b 0 4)) = false → groupAt u (fieldLe 32 b 0 4) = none → u.groups.length < 4096 →
    (reserve (slotKib x) x.window (namedSheds u) u).1 = some sl →
    ∃ t, exec (.groupCreate r) s = .next t ∧ groupAt t (fieldLe 32 b 0 4) = some { x with slots := sl } ∧
      (∀ g, g ≠ fieldLe 32 b 0 4 → groupAt t g = groupAt s g)) ∧
  (∀ (r : Req) (s u : State) (g : W32) (n : Node) (x : Group) (m : Member), Accepts cmdGroupEvict false r s →
    u = takeRequest 0x51 false r s → r.flags = 0 → g = fieldLe 32 r.payload 0 4 → n = fieldLe 16 r.payload 4 2 →
    slotMoving u (groupSlot g) = false → groupAt s g = some x → mayManage x r.chan = true →
    x.members.find? (fun q => q.node == n) = some m → evictStatus x (some m) false r.now = stOk →
    x.completed = [] → 0 < x.chunks → (x.front + 1 - x.start).toNat ≠ 0 →
    ∃ t y, exec (.groupEvict r) s = .next t ∧ groupAt t g = some y ∧ y.evicted = x.evicted ++ [r.now] ∧
      y.opened = x.opened ∧ (∀ q, q ∈ y.members → q.node = n → q.st = .evicting ∧ q.leave = some (x.front + 1))) ∧
  (∀ (r : Req) (s u : State) (g : W32) (n : Node) (x : Group), Accepts cmdGroupAdmit false r s →
    u = takeRequest 0x52 false r s → g = fieldLe 32 r.payload 0 4 → n = fieldLe 16 r.payload 4 2 →
    slotMoving u (groupSlot g) = false → groupAt s g = some x → mayManage x r.chan = true → x.st = .active →
    leAt r.payload 6 1 ≤ 1 → (∀ m, m ∈ x.members → m.node ≠ n) → x.members.length < 512 →
    ∃ t, exec (.groupAdmit r) s = .next t ∧ groupAt t g = some { x with members := x.members ++
      [{ node := n, child := leAt r.payload 6 1 == 1, st := .admitting, join := x.front + 1 }] }) ∧
  (∀ (r : Req) (s u : State) (g : W32) (x : Group), Accepts cmdGroupDestroy false r s → u = takeRequest 0x53 false r s →
    g = fieldLe 32 r.payload 0 4 → slotMoving u (groupSlot g) = false → groupAt s g = some x →
    mayManage x r.chan = true → x.st ≠ .destroying →
    ∃ t, exec (.groupDestroy r) s = .next t ∧ groupAt t g =
      some { x with st := .destroying, opened := [], upward := [], waiting := [], reply := some (replyOf s 0x53 r) }) ∧
  (∀ (g : W32) (s : State) (x : Group), groupAt s g = some x → x.st = .destroying → resultQueued s g = false →
    ∃ t, exec (.groupDestroyDone g) s = .next t ∧ groupAt t g = none ∧ (∀ k, k ≠ g → groupAt t k = groupAt s k) ∧
      t.pool = s.pool) ∧
  (∀ (g : W32) (s : State), resultQueued s g = true → exec (.groupDestroyDone g) s = .next s) ∧
  (∀ (g : W32) (s : State) (x : Group), groupAt s g = some x → slotMoving s (groupSlot g) = false →
    ∃ t, exec (.scoreWindowEnd g) s = .next t ∧ groupAt t g =
      some { x with members := x.members.map fun m => (scoreMember x m).1, seen := [] }) ∧
  (∀ (x : Group) (m : Member), m.owed ≠ 0 → (scoreMember x m).1.score = BitVec.ofNat 8 (255 * m.ontime / m.owed) ∧
    (scoreMember x m).1.owed = 0 ∧ (scoreMember x m).1.ontime = 0) ∧
  (∀ (g : W32) (s : State), slotMoving s (groupSlot g) = true → exec (.scoreWindowEnd g) s = .next s) ∧
  (∀ (r : Req) (s u : State) (g : W32) (x : Group) (b : List Byte), Accepts (cmdGetHealth 2) false r s →
    u = takeRequest (cmdGetHealth 2).op false r s → g = fieldLe 32 r.payload 4 4 → slotMoving u (groupSlot g) = false →
    groupAt u g = some x → b = groupReport u r.chan g x r.now → outTooShort r b = false →
    exec (.getHealthGroup r) s = .next (answerOut (replyOf s (cmdGetHealth 2).op r) r b (toLe 4 b.length) u))

/-! ## Gather and Filter Units, the Match Table, sessions (R194 to R227) -/

/-- R194, R195, R203, R204, R361: a request that finds no unit with room waits in the Loft; it is taken once one has room; a
fetched block reaches the request that asked for it, a failed fetch ends it. -/
def Obligations.UnitRequests : Prop :=
  (∀ (p : Rx) (s u : State) (q : UnitReq), Passes 0x28 p s → u = station9 0x28 p s →
    q = { id := 0, src := .cmx 0x28 p, filter := false, pen := p.pen, cls := p.cls, handle := p.handle, step := p.step,
          session := p.group, desc := p.payload.take 64, tail := p.payload.drop 64, shed := 0 } →
    u.work.reqs = [] → pickUnits u (reqShed u p q) .gather = [] →
    ∃ t, exec (.gatherReq p) s = .next t ∧ t.work.reqs =
      [{ q with id := u.work.nextReq, shed := reqShed u p q, front := windowFront u q }] ∧ t.pool = u.pool) ∧
  (∀ (p : Rx) (s u : State) (q : UnitReq), Passes 0x30 p s → u = station9 0x30 p s →
    q = { id := 0, src := .cmx 0x30 p, filter := true, pen := p.pen, cls := p.cls, handle := p.handle, step := p.step,
          session := p.group, desc := p.payload.take 64, tail := p.payload.drop 64, shed := 0 } →
    u.work.reqs = [] → pickUnits u (reqShed u p q) .filter = [] →
    ∃ t, exec (.filterReq p) s = .next t ∧ t.work.reqs =
      [{ q with id := u.work.nextReq, shed := reqShed u p q, front := windowFront u q }] ∧ t.pool = u.pool) ∧
  (∀ (sh : ShedIx) (k : UnitKind) (q : UnitReq) (s : State),
    s.work.reqs.find? (fun q => q.shed == sh && reqKind q == k && q.unit.isNone) = some q →
    exec (.requestToUnit sh k) s = .next (pfcSettle (placeReq q.id s))) ∧
  (∀ (sh : ShedIx) (k : UnitKind) (s : State), (∀ q ∈ s.work.reqs, q.unit ≠ none) →
    exec (.requestToUnit sh k) s = .next s) ∧
  (∀ (id rid : Nat) (j : Job) (q : UnitReq) (bytes : List Byte) (s : State), jobAt s id = some j → j.orig = .fetch rid →
    reqAt s rid = some q → j.result = some (.ok bytes) → q.filter = false →
    exec (.gatherFetchDone id) s = .next (runReq q.id [] (modReq q.id (fun x => { x with
      fetches := x.fetches.map fun f => if f.job = id then { f with data := some (bytes, j.got) } else f
      writes := x.writes.erase id }) (dropJob id s)))) ∧
  (∀ (id rid : Nat) (j : Job) (q : UnitReq) (bytes : List Byte) (corrupt : List (ShedIx × Nat)) (s : State),
    jobAt s id = some j → j.orig = .fetch rid → reqAt s rid = some q → j.result = some (.ok bytes) → q.filter = true →
    exec (.filterFetchDone id corrupt) s = .next (runReq q.id corrupt (modReq q.id (fun x => { x with
      fetches := x.fetches.map fun f => if f.job = id then { f with data := some (bytes, j.got) } else f
      writes := x.writes.erase id }) (dropJob id s)))) ∧
  (∀ (id rid : Nat) (j : Job) (q : UnitReq) (reason : BitVec 8) (d : W32) (op : BitVec 8) (rx : Rx) (s : State),
    jobAt s id = some j → j.orig = .fetch rid → s.work.reqs = [q] → q.id = rid → j.result = some (.err reason d) →
    q.src = .cmx op rx →
    (q.filter = false → ∃ t, exec (.gatherFetchDone id) s = .next t ∧ t.work.reqs = []) ∧
    (q.filter = true → ∃ t, exec (.filterFetchDone id []) s = .next t ∧ t.work.reqs = [])) ∧
  (∀ (id : Nat) (s : State), jobAt s id = none → exec (.gatherFetchDone id) s = .next s ∧
    exec (.filterFetchDone id []) s = .next s)

/-- R211 to R220: a load's operations apply in order up to the first that fails; an exact entry stands in a free row
of its bank; a deleted entry's row is free; the scan goes on row by row; a failed row's entry is owed and goes back; a lost
bank's entries are rewritten. -/
def Obligations.MatchBanks : Prop :=
  (∀ (r : Req) (s u v : State) (k st : Nat), Accepts (cmdMatchLoad r) true r s → u = takeRequest 0x62 true r s →
    1 ≤ leAt r.payload 0 4 → leAt r.payload 0 4 ≤ 1024 →
    (s.jnl.nvLock = true → (loadList u r).any (fun o => leAt o 0 1 == 4) = false) →
    loadOps r (loadList u r) 0 u = (k, st, v) →
    exec (.matchTableLoad r) s = .next (post (replyOf s 0x62 r) st (toLe 4 k ++ toLe 2 st) v)) ∧
  (∀ (r : Req) (o : List Byte) (os : List (List Byte)) (n st : Nat) (s v : State), loadOp r o s = (st, v) →
    (st ≠ stOk → loadOps r (o :: os) n s = (n, st, s)) ∧
    (st = stOk → loadOps r (o :: os) n s = loadOps r os (n + 1) v)) ∧
  (∀ (r : MRow) (s : State), (mpart s r.part).kind = 1 → r.mask = BitVec.allOnes 160 → exactPresent s r = false →
    underQuota (pen s r.pen).qMatch (penRows s r.pen) = true →
    freeRows s (exactBank s r.pen r.part r.key) r.part ≠ [] →
    ∃ v i, i ∈ freeRows s (exactBank s r.pen r.part r.key) r.part ∧ loadInsert r s = (stOk, v) ∧
      aGet (bank v (exactBank s r.pen r.part r.key)).rows (r.part, i) = some (checkedRow r) ∧
      (∀ sh, sh ≠ exactBank s r.pen r.part r.key → bank v sh = bank s sh)) ∧
  (∀ (r q : MRow) (sh : ShedIx) (a : RowAt) (s : State), findRow s (fun q => q.part == r.part && q.pen == r.pen &&
      q.key == r.key && q.mask == r.mask && q.prio == r.prio) = some (sh, a, q) →
    ∃ v, loadDelete r s = (stOk, v) ∧ aGet (bank v sh).rows a = none ∧ (∀ b, b ≠ a → aGet (bank v sh).rows b =
      aGet (bank s sh).rows b)) ∧
  (∀ (sh : ShedIx) (part : Fin 16) (g n hole : Nat) (r : MRow) (s : State), n = effective s 0x20700 → n ≠ 0 →
    hole = n * g + (n - 1) → (mpart s part).kind = 2 → hole < partRows s part →
    (freeRows s sh part).any (fun f => decide (n * g ≤ f ∧ f ≤ hole)) = false →
    nearestFree (freeRows s sh part) hole = [hole + 1] → aGet (bank s sh).rows (part, hole) = some r →
    (bank s sh).dead.contains (part, hole) = false →
    ∃ t, exec (.matchHoleRestore sh part g) s = .next t ∧ aGet (bank t sh).rows (part, hole + 1) = some r ∧
      aGet (bank t sh).rows (part, hole) = none ∧ (∀ a, a ≠ (part, hole) → a ≠ (part, hole + 1) →
        aGet (bank t sh).rows a = aGet (bank s sh).rows a)) ∧
  (∀ (sh : ShedIx) (part : Fin 16) (g : Nat) (s : State), (mpart s part).kind ≠ 2 →
    exec (.matchHoleRestore sh part g) s = .next s) ∧
  (∀ (sh : ShedIx) (s : State), islRunning s (shcOf sh) = true → (bank s sh).mode = false →
    (∀ a r, rowAt s (bank s sh).scan = some a → aGet (bank s sh).rows a = some r → r.check = rowCheck r) →
    ∃ t, exec (.matchParityScan sh true) s = .next t ∧ (bank t sh).scan = ((bank s sh).scan + 1) % 67584 ∧
      (bank t sh).rows = (bank s sh).rows ∧ { t with work := s.work } = s) ∧
  (∀ (sh : ShedIx) (s : State), (bank s sh).mode = true → exec (.matchParityScan sh true) s = .next s ∧
    exec (.matchParityScan sh false) s = .next s) ∧
  (∀ (sh : ShedIx) (a : RowAt) (s : State), islRunning s (shcOf sh) = true → (bank s sh).mode = false →
    rowAt s (bank s sh).scan = some a → exec (.matchParityScan sh false) s =
      .next (rowFails sh a (modBank sh (fun q => { q with scan := (q.scan + 1) % 67584 }) s))) ∧
  (∀ (sh : ShedIx) (row failed : Nat) (a : RowAt) (r : MRow) (s : State), s.kpr.state = .running → rowAt s row = some a →
    aGet (bank s sh).owed a = some r → failsAgain s sh a failed = false →
    ∃ t, exec (.matchRowRewrite sh row failed) s = .next t ∧
      aGet (bank t sh).rows a = some (checkedRow { r with hits := 0 }) ∧ aGet (bank t sh).owed a = none ∧
      aGet (bank t sh).failedAt a = some failed ∧ (bank t sh).spared = (bank s sh).spared ∧
      (∀ k, k ≠ sh → bank t k = bank s k)) ∧
  (∀ (sh : ShedIx) (row failed : Nat) (a : RowAt) (r : MRow) (s : State), s.kpr.state = .running → rowAt s row = some a →
    aGet (bank s sh).owed a = some r → failsAgain s sh a failed = true →
    ∃ t, exec (.matchRowRewrite sh row failed) s = .next t ∧ aGet (bank t sh).owed a = none ∧
      ((bank s sh).spared.length < 2048 → aGet (bank t sh).rows a = some (checkedRow { r with hits := 0 }) ∧
        (bank t sh).spared = (bank s sh).spared ++ [a] ∧ (bank t sh).evt.getLsbD 1 = true) ∧
      (2048 ≤ (bank s sh).spared.length → (bank t sh).dead = (bank s sh).dead ++ [a])) ∧
  (∀ (sh : ShedIx) (row failed : Nat) (s : State), s.kpr.state ≠ .running →
    exec (.matchRowRewrite sh row failed) s = .next s) ∧
  (∀ (sh : ShedIx) (r : MRow) (s v : State), s.kpr.state = .running → s.work.reqs = [] → s.sw.lofted = [] →
    (bank s sh).lost = [r] →
    insertRow { r with hits := 0 } (modBank sh (fun b => { b with lost := [] }) s) = some v →
    exec (.matchBankLossRewrite sh) s = .next v) ∧
  (∀ (sh : ShedIx) (s : State), s.kpr.state ≠ .running → exec (.matchBankLossRewrite sh) s = .next s)

/-- R221 to R225: an inserted session takes the lowest free slot under its next generation; a deleted one is no longer
Active, and its slot is free when the requests that passed its check have ended. -/
def Obligations.Sessions : Prop :=
  (∀ (r : Req) (s u : State) (slot : Nat) (x : Session), Accepts cmdSessionInsert false r s →
    u = takeRequest 0x60 false r s → slotMoving u (freeSessionHome u) = false → freeSession u = some slot →
    x = { gen := nextGen (aGetD s.work.sessGen slot 0), pen := actingPen s r, image := r.payload.take 128 } →
    underQuota (pen u (actingPen s r)).qSessions (penSessions u (actingPen s r)) = true →
    (r.payload.getD 6 0).getLsbD 0 = false →
    ∃ t, exec (.sessionInsert r) s = .next t ∧ sessionAt t slot = some x ∧
      aGetD t.work.sessGen slot 0 = nextGen (aGetD s.work.sessGen slot 0) ∧
      (∀ i, i ≠ slot → sessionAt t i = sessionAt s i) ∧ t.work.banks = s.work.banks) ∧
  (∀ (r : Req) (s u v : State) (slot : Nat) (x : Session) (row : MRow), Accepts cmdSessionInsert false r s →
    u = takeRequest 0x60 false r s → slotMoving u (freeSessionHome u) = false → freeSession u = some slot →
    x = { gen := nextGen (aGetD s.work.sessGen slot 0), pen := actingPen s r, image := r.payload.take 128 } →
    row = { key := sessionKey r.payload, mask := BitVec.allOnes 160, prio := 0, pen := actingPen s r, part := 1,
            result := (sessionId slot x).setWidth 64 } →
    underQuota (pen u (actingPen s r)).qSessions (penSessions u (actingPen s r)) = true →
    (r.payload.getD 6 0).getLsbD 0 = true → exactPresent u row = false → insertRow row u = some v →
    ∃ t, exec (.sessionInsert r) s = .next t ∧ sessionAt t slot = some x ∧ t.work.banks = v.work.banks) ∧
  (∀ (r : Req) (s u : State) (slot : Nat) (x : Session), Accepts cmdSessionDelete false r s →
    u = takeRequest 0x61 false r s → slotMoving u (Fin.ofNat 4 (leAt r.payload 0 4)) = false →
    activeSession u (fieldLe 32 r.payload 0 4) = some slot → sessionAt u slot = some x →
    (isAdmin r.chan = true ∨ x.pen = actingPen s r) →
    ∃ t, exec (.sessionDelete r) s = .next t ∧ sessionAt t slot =
        some { x with deleting := true, reply := some (replyOf s 0x61 r) } ∧
      activeSession t (fieldLe 32 r.payload 0 4) = none ∧ (isKeyed x = false → t.work.banks = s.work.banks)) ∧
  (∀ (id : W32) (slot : Nat) (x : Session) (s : State), slot = id.toNat % 2 ^ 21 → sessionAt s slot = some x →
    x.deleting = true → (pen s x.pen).state ≠ .closing → (pen s x.pen).state ≠ .quarantine →
    slotMoving s (Fin.ofNat 4 slot) = false → sessionId slot x = id → sessionBusy s slot = false →
    ∃ t, exec (.sessionDeleteDone id) s = .next t ∧ sessionAt t slot = none ∧
      (∀ i, i ≠ slot → sessionAt t i = sessionAt s i)) ∧
  (∀ (id : W32) (s : State), sessionBusy s (id.toNat % 2 ^ 21) = true → exec (.sessionDeleteDone id) s = .next s)

/-! ## The Yard (R228 to R266) -/

/-- R258 to R266: a loaded image joins the Pen's programs and a removed one leaves them; a submitted task queues; an Idle
Yard takes the next task with its arguments in s1 to s12, the program's entry as the pc and every other register zero; a time
limit ends the task; a failed Yard is fenced with its cause; a self-test runs on an Idle Yard and keeps its result. R229,
R233, R237: an instruction that computes and retires changes its Yard's registers, counts in YRD_INSN_CNT and moves the pc on
by 16; nothing else of the device changes, and no other Yard; s0 reads as zero and a write to it is discarded; an instruction
with a field that it does not use ends the task ILLEGAL; a Yard without a task takes none. Stated of SADD for the last two. -/
def Obligations.YardTasks : Prop :=
  (∀ (r : Req) (s u : State) (p : BitVec 12), Accepts cmdProgramLoad true r s → u = takeRequest 0x80 true r s →
    r.flags = 0 → p = actingPen s r → imageValid (inBuf s r) = true → (penPrograms s p).length < 64 →
    (inBuf s r).length + 80 ≤ ctlFree u →
    ∃ t id, aGet s.work.programs (p, id) = none ∧ exec (.yardProgramLoad r) s = .next t ∧
      aGet t.work.programs (p, id) = some (inBuf s r) ∧
      (∀ k, k ≠ (p, id) → aGet t.work.programs k = aGet s.work.programs k)) ∧
  (∀ (r : Req) (s : State) (id : W32) (img : List Byte), Accepts cmdProgramRemove false r s → r.flags = 1 →
    id = fieldLe 32 r.payload 0 4 → aGet s.work.programs (actingPen s r, id) = some img →
    (allTasks s).any (fun t => decide (t.pen = actingPen s r ∧ taskProgram t = id)) = false →
    ∃ t, exec (.yardProgramRemove r) s = .next t ∧ aGet t.work.programs (actingPen s r, id) = none) ∧
  (∀ (r : Req) (s u : State) (p : BitVec 12), Accepts cmdTaskSubmit false r s → u = takeRequest 0x81 false r s →
    p = actingPen s r → taskOkFields u r.chan p (r.payload.take 128) = true →
    taskSheds u (r.payload.take 128) ≠ [] → (∀ sh ∈ taskSheds u (r.payload.take 128), queued u sh < 1024) →
    penTasks u p < (pen u p).qTasks.toNat → (allTasks s).length < 2 ^ 32 →
    ∃ t sh id, sh ∈ taskSheds u (r.payload.take 128) ∧ (∀ k ∈ allTasks s, k.id ≠ id) ∧
      exec (.yardTaskSubmit r) s = .next t ∧ (taskQ t sh).queue =
        (taskQ s sh).queue ++ [{ id, chan := r.chan, pen := p, desc := r.payload.take 128 }] ∧
      (taskQ t sh).redo = (taskQ s sh).redo ∧ p ∈ (taskQ t sh).turn ∧
      (∀ k, k ≠ sh → taskQ t k = taskQ s k)) ∧
  (∀ (y : YardRef) (k : Task) (q : TaskQ) (s : State), s.work.stopped = [] → yardIdle s y = true →
    nextTask (taskQ s y.shed) = some (k, q) →
    ∃ t, exec (.taskDispatch y) s = .next t ∧ (yard t y).task = some k ∧ taskQ t y.shed = q ∧
      (yard t y).pc = BitVec.ofNat 64 (leAt (aGetD s.work.programs (k.pen, taskProgram k) []) (12 + 4 * leAt k.desc 4 1) 4) ∧
      (yard t y).step = taskStep k ∧ (yard t y).seed = (pen s k.pen).seed ∧
      (∀ i, i < 12 → getS (yard t y) (BitVec.ofNat 5 (i + 1)) = fieldLe 64 k.desc (32 + 8 * i) 8) ∧
      (∀ i, 13 ≤ i → i < 32 → getS (yard t y) (BitVec.ofNat 5 i) = 0) ∧ (yard t y).v = [] ∧ (yard t y).p = [] ∧
      (yard t y).acc = [] ∧ (yard t y).ports = [] ∧ (yard t y).scratch = (yard s y).scratch ∧
      (∀ z, z ≠ y → yard t z = yard s z)) ∧
  (∀ (y : YardRef) (s : State), s.work.stopped = [] → yardIdle s y = false → exec (.taskDispatch y) s = .next s) ∧
  (∀ (y : YardRef) (k : Task) (s : State), (yard s y).task = some k → leAt k.desc 16 4 ≠ 0 →
    exec (.taskTimeLimit y) s = .next (taskFault y tkTime none s)) ∧
  (∀ (y : YardRef) (k : Task) (s : State), (yard s y).task = some k → leAt k.desc 16 4 = 0 →
    exec (.taskTimeLimit y) s = .next s) ∧
  (∀ (y : YardRef) (c : BitVec 8) (s : State), islRunning s (yrdOf y.shed) = true → y.yard ≠ 16 →
    (unit s y.shed .yard y.yard).st = .active → (unit s y.shed .yard y.yard).drain = none →
    (unit s y.shed .yard 16).st = .spareFree → s.kpr.state = .running → (yard s y).task = none → s.work.stopped = [] →
    ∃ t, exec (.yardFault y c) s = .next t ∧ (unit t y.shed .yard y.yard).st = .fenced ∧
      (unit t y.shed .yard y.yard).cause = spareCause c ∧ (yard t y).faultCause = c ∧
      (unit t y.shed .yard 16).st = .spareEngaged) ∧
  (∀ (y : YardRef) (c : BitVec 8) (s : State), islRunning s (yrdOf y.shed) = false → exec (.yardFault y c) s = .next s) ∧
  (∀ (y : YardRef) (s : State), (yard s y).task = none → exec (.yardPipelineStall y) s = .next s) ∧
  (∀ (y : YardRef) (k : Task) (s : State), (yard s y).task = some k →
    exec (.yardPipelineStall y) s = .next (failYard y 5 s)) ∧
  (∀ (y : YardRef) (s : State), yardWorks s y = true → (yard s y).task = none → (yard s y).testing = false →
    exec (.yardSelftestStart y) s = .next (modYard y (fun d => { d with testing := true }) s)) ∧
  (∀ (y : YardRef) (now : Nat) (s : State), (yard s y).testing = true → (yard s y).testRuns ≠ 0xFFFF →
    ∃ t, exec (.yardSelftestDone y 0 true now) s = .next t ∧ (yard t y).testing = false ∧ (yard t y).testResult = 0 ∧
      (yard t y).testRuns = (yard s y).testRuns + 1 ∧ { t with work := s.work } = s) ∧
  (∀ (y : YardRef) (r : BitVec 8) (ok : Bool) (now : Nat) (s : State), (yard s y).testing = false →
    exec (.yardSelftestDone y r ok now) s = .next s) ∧
  (∀ (y : YardRef) (g : Yard → Yard) (s : State), yard (ran y g s) y =
    { g (yard s y) with pc := (g (yard s y)).pc + 16, begun := false }) ∧
  (∀ (y : YardRef) (pc : W64) (s : State), yard (jumped y pc s) y = { yard s y with pc, begun := false }) ∧
  (∀ (y z : YardRef) (g : Yard → Yard) (pc : W64) (s : State), z ≠ y → yard (ran y g s) z = yard s z ∧
    yard (jumped y pc s) z = yard s z) ∧
  (∀ (y : YardRef) (g : Yard → Yard) (s : State), unit (ran y g s) y.shed .yard y.yard =
    { unit s y.shed .yard y.yard with cnt0 := satInc (unit s y.shed .yard y.yard).cnt0 }) ∧
  (∀ (y : YardRef) (g : Yard → Yard) (s : State),
    { ran y g s with work := { (ran y g s).work with yards := s.work.yards }, units := s.units } = s) ∧
  (∀ (r q : BitVec 5) (v : W64) (d : Yard), getS (setS r v d) q = if q = r ∧ r ≠ 0 then v else getS d q) ∧
  (∀ (d : Yard), getS d 0 = 0) ∧
  (∀ (y : YardRef) (f : YF) (s : State), (yard s y).task = none → exec (.sadd y f) s = .next s) ∧
  (∀ (y : YardRef) (f : YF) (t : Task) (s : State), yardWorks s y = true → (yard s y).task = some t →
    (yard s y).mload = none → (f.rsv ≠ 0 ∨ f.pred ≠ 0 ∨ f.rc ≠ 0 ∨ f.aux ≠ 0 ∨ f.fmt ≠ 0) →
    exec (.sadd y f) s = .next (taskFault y tkIllegal none s))

/-- R238: s[RD] is set to the operation's result of s[RA] and b, which is s[RB] or IMM; SMOV sets it to IMM; SCMP to 1 or 0.
R231, R235, R238: a scalar access of scratch loads the bytes, zero- or sign-extended, or stores the low bytes; one that is
not aligned or lies nowhere ends the task ADDRESS; a load of a cached line of the task's window reads it there. Branches go
by IMM where their condition holds, SCALL keeps the next pc in s31, SJMP jumps. -/
def Obligations.ScalarInstructions : Prop :=
  (∀ (y : YardRef) (f : YF) (t : Task) (s : State) (a b : W64), a = getS (yard s y) f.ra → b = opB (yard s y) f →
  (Issues y f { rd := true, ra := true, b := true } t s →
    exec (.sadd y f) s = .next (ran y (setS f.rd (a + b)) s) ∧
    exec (.ssub y f) s = .next (ran y (setS f.rd (a - b)) s) ∧
    exec (.smul y f) s = .next (ran y (setS f.rd (a * b)) s) ∧
    exec (.smulh y f) s = .next (ran y (setS f.rd (BitVec.ofInt 64 ((a.toInt * b.toInt) / 2 ^ 64))) s) ∧
    exec (.sand y f) s = .next (ran y (setS f.rd (a &&& b)) s) ∧
    exec (.sor y f) s = .next (ran y (setS f.rd (a ||| b)) s) ∧
    exec (.sxor y f) s = .next (ran y (setS f.rd (a ^^^ b)) s) ∧
    exec (.sshl y f) s = .next (ran y (setS f.rd (a <<< (b.toNat % 64))) s) ∧
    exec (.sshr y f) s = .next (ran y (setS f.rd (a >>> (b.toNat % 64))) s) ∧
    exec (.ssra y f) s = .next (ran y (setS f.rd (a.sshiftRight (b.toNat % 64))) s) ∧
    exec (.smin y f) s = .next (ran y (setS f.rd (if a.slt b then a else b)) s) ∧
    exec (.smax y f) s = .next (ran y (setS f.rd (if a.slt b then b else a)) s) ∧
    exec (.sminu y f) s = .next (ran y (setS f.rd (if a.ult b then a else b)) s) ∧
    exec (.smaxu y f) s = .next (ran y (setS f.rd (if a.ult b then b else a)) s)) ∧
  (Issues y f { rd := true, ra := true, b := true, aux := 7 } t s → auxBits f 2 0 ≤ 5 →
    exec (.scmp y f) s = .next (ran y (setS f.rd (if scalarCond (auxBits f 2 0) a b then 1 else 0)) s)) ∧
  (Issues y f { rd := true, ra := true, b := true, aux := 7 } t s → 5 < auxBits f 2 0 →
    exec (.scmp y f) s = .next (taskFault y tkIllegal none s)) ∧
  (Issues y f { rd := true, imm := true } t s → exec (.smov y f) s = .next (ran y (setS f.rd f.imm) s))) ∧
  (∀ (y : YardRef) (f : YF) (t : Task) (s : State) (a : W64), a = getS (yard s y) f.ra + f.imm →
  (∀ k, Issues y f { rd := true, ra := true, imm := true, aux := 7 } t s → scalarTarget t a.toNat (accSize f) = .scratch k →
    exec (.sld y f) s = .next (ran y (setS f.rd (loaded f (scratchRead (yard s y) t.pen k (accSize f)))) s)) ∧
  (Issues y f { rd := true, ra := true, imm := true, aux := 7 } t s → scalarTarget t a.toNat (accSize f) = .bad →
    exec (.sld y f) s = .next (taskFault y tkAddress none s)) ∧
  (∀ line off x u, Issues y f { rd := true, ra := true, imm := true, aux := 7 } t s →
    scalarTarget t a.toNat (accSize f) = .window line off → cohLoad (yardCache y) line s = (some x, u) → x.poison = false →
    isPoisoned u line = false →
    ∃ v w, exec (.sld y f) s = .next (ran y (setS f.rd v) w) ∧
      v = loaded f ((((taggedRead t.pen line x.tag x.data u).1).drop off).take (accSize f)) ∧
      w = (taggedRead t.pen line x.tag x.data u).2) ∧
  (∀ k, Issues y f { ra := true, rb := true, imm := true, aux := 3 } t s → scalarTarget t a.toNat (accSize f) = .scratch k →
    exec (.sst y f) s =
      .next (ran y (scratchWrite t.pen k (toLe (accSize f) (getS (yard s y) f.rb).toNat)) s)) ∧
  (Issues y f { ra := true, rb := true, imm := true, aux := 3 } t s → scalarTarget t a.toNat (accSize f) = .bad →
    exec (.sst y f) s = .next (taskFault y tkAddress none s)) ∧
  (∀ line off u, Issues y f { ra := true, rb := true, imm := true, aux := 3 } t s →
    scalarTarget t a.toNat (accSize f) = .window line off →
    cohStore (yardCache y) t.pen line off (toLe (accSize f) (getS (yard s y) f.rb).toNat) s = (true, u) →
    exec (.sst y f) s = .next (settleInsn y (.done u))) ∧
  (Issues y f { ra := true, imm := true } t s → f.imm.toNat % 16 = 0 →
    (getS (yard s y) f.ra = 0 → exec (.sbrz y f) s = .next (jumped y ((yard s y).pc + f.imm) s) ∧
      exec (.sbrnz y f) s = .next (ran y id s)) ∧
    (getS (yard s y) f.ra ≠ 0 → exec (.sbrz y f) s = .next (ran y id s) ∧
      exec (.sbrnz y f) s = .next (jumped y ((yard s y).pc + f.imm) s)) ∧
    (getS (yard s y) f.ra = 1 → exec (.sloop y f) s = .next (ran y (setS f.ra 0) s)) ∧
    (getS (yard s y) f.ra ≠ 1 → exec (.sloop y f) s =
      .next (jumped y ((yard s y).pc + f.imm) (modYard y (setS f.ra (getS (yard s y) f.ra - 1)) s)))) ∧
  (Issues y f { ra := true, imm := true } t s → f.imm.toNat % 16 ≠ 0 →
    exec (.sbrz y f) s = .next (taskFault y tkIllegal none s)) ∧
  (Issues y f { imm := true } t s → f.imm.toNat % 16 = 0 → exec (.scall y f) s =
    .next (jumped y ((yard s y).pc + f.imm) (modYard y (setS 31 ((yard s y).pc + 16)) s))) ∧
  (Issues y f { ra := true, imm := true } t s → a.toNat % 16 = 0 → exec (.sjmp y f) s = .next (jumped y a s)))

/-- R239 to R242: a lane-wise instruction writes each active lane with its operation's result of v[RA] and v[RB], EBI elements
saturated to ±Qmax with SAT set, the others wrapped, leaves masked lanes and the bytes beyond VL, and copies v[RA]'s scale
lane. -/
def Obligations.VectorLanes : Prop :=
  ∀ (y : YardRef) (f : YF) (t : Task) (s : State) (d : Yard) (w : Nat) (va vb : Nat → Int) (ra rb : Nat → Nat),
  d = yard s y → d.vl.toNat ≤ 2048 → (getV d f.rd.toNat).length = 256 → w = laneBytes f.fmt.toNat →
  va = laneVal (laneFmt f) (getV d f.ra.toNat) → vb = laneVal (laneFmt f) (getV d f.rb.toNat) →
  ra = laneRaw (getV d f.ra.toNat) w → rb = laneRaw (getV d f.rb.toNat) w →
  (Issues y f { pred := true, rd := true, ra := true, rb := true, fmts := laneFmts } t s →
    (∃ u, exec (.vadd y f) s = .next u ∧ LaneWise f (fun i => (laneSat (laneFmt f) (va i + vb i)).1) d (yard u y) ∧
      ((yard u y).flags.getLsbD 0 = (d.flags.getLsbD 0 || (List.range (lanes d w)).any fun i =>
        laneOn d f w i && (laneSat (laneFmt f) (va i + vb i)).2))) ∧
    (∃ u, exec (.vsub y f) s = .next u ∧ LaneWise f (fun i => (laneSat (laneFmt f) (va i - vb i)).1) d (yard u y)) ∧
    (∃ u, exec (.vmul y f) s = .next u ∧ LaneWise f (fun i => (laneSat (laneFmt f) (va i * vb i)).1) d (yard u y)) ∧
    (∃ u, exec (.vmin y f) s = .next u ∧
      LaneWise f (fun i => (laneSat (laneFmt f) (if va i < vb i then va i else vb i)).1) d (yard u y)) ∧
    (∃ u, exec (.vmax y f) s = .next u ∧
      LaneWise f (fun i => (laneSat (laneFmt f) (if va i < vb i then vb i else va i)).1) d (yard u y))) ∧
  (Issues y f { pred := true, rd := true, ra := true, rb := true, fmts := [0, 1, 2, 3, 4] } t s →
    (∃ u, exec (.vand y f) s = .next u ∧ LaneWise f (fun i => Nat.land (ra i) (rb i)) d (yard u y)) ∧
    (∃ u, exec (.vor y f) s = .next u ∧ LaneWise f (fun i => Nat.lor (ra i) (rb i)) d (yard u y)) ∧
    (∃ u, exec (.vxor y f) s = .next u ∧ LaneWise f (fun i => Nat.xor (ra i) (rb i)) d (yard u y))) ∧
  (Issues y f { pred := true, rd := true, ra := true, b := true, fmts := laneFmts } t s →
    ∃ u, exec (.vshr y f) s = .next u ∧ LaneWise f
      (fun i => rawOf (fmtBits (laneFmt f)) (shrRne (va i) (min 128 (opB d f).toNat))) d (yard u y)) ∧
  (Issues y f { pred := true, rd := true, ra := true, rb := true, rc := true, fmts := laneFmts } t s →
    ∃ u, exec (.vsel y f) s = .next u ∧ LaneWise f
      (fun i => if (getP d f.rc.toNat).getLsbD (w * i) then ra i else rb i) d (yard u y))

/-- R229, R239 to R242: vector loads and stores of one register move the bytes within VL, at 32 B aligned addresses of
scratch; the scale lanes of loads and stores move as words; broadcasts, indices, comparisons, predicate logic, reductions
and conversions have the results of their rows; a register count or condition out of range ends the task ILLEGAL. -/
def Obligations.VectorOthers : Prop :=
  ∀ (y : YardRef) (f : YF) (t : Task) (s : State) (d : Yard) (a n w : Nat), d = yard s y → a = (getS d f.ra + f.imm).toNat →
  n = d.vl.toNat / 8 → w = laneBytes f.fmt.toNat →
  (Issues y f { pred := true, rd := true, ra := true, imm := true, aux := 31 } t s → countOk f f.rd.toNat = true →
    vectorAddr a (n * regCount f) = true → exec (.vld y f) s = .next (ran y (fun d => (List.range (regCount f)).foldl
      (fun x i => loadReg f d (f.rd.toNat + i) (scratchRead d t.pen (a + n * i) n) x) d) s)) ∧
  (Issues y f { pred := true, rd := true, ra := true, imm := true, aux := 31 } t s → countOk f f.rd.toNat = true →
    vectorAddr a (n * regCount f) = false → exec (.vld y f) s = .next (taskFault y tkAddress none s)) ∧
  (Issues y f { pred := true, rd := true, ra := true, imm := true, aux := 31 } t s → countOk f f.rd.toNat = false →
    exec (.vld y f) s = .next (taskFault y tkIllegal none s)) ∧
  (Issues y f { rd := true, ra := true, imm := true, aux := 31 } t s → countOk f f.rd.toNat = true →
    vectorAddr a (n * regCount f) = true → exec (.vst y f) s = .next (ran y (scratchWrite t.pen a
      ((List.range (regCount f)).flatMap fun i => (getV d (f.rd.toNat + i)).take n)) s)) ∧
  (Issues y f { pred := true, rd := true, ra := true, imm := true, aux := 31, fmts := [0, 2] } t s →
    regCount f = 1 → vectorAddr a (2 * scaleRun d f) = true → ∃ u, exec (.vlds y f) s = .next u ∧
      getVs (yard u y) f.rd.toNat = putScales d f (fun b => if b < scaleRun d f
        then fieldLe 16 (scratchRead d t.pen a (2 * scaleRun d f)) (2 * b) 2 else (getVs d f.rd.toNat).getD b 0)
        (getVs d f.rd.toNat) ∧ (yard u y).v = d.v) ∧
  (Issues y f { rd := true, ra := true, imm := true, aux := 31, fmts := [0, 2] } t s → countOk f f.rd.toNat = true →
    vectorAddr a (2 * scaleRun d f * regCount f) = true → exec (.vsts y f) s = .next (ran y (scratchWrite t.pen a
      ((List.range (regCount f)).flatMap fun i =>
        ((getVs d (f.rd.toNat + i)).take (scaleRun d f)).flatMap fun x => toLe 2 x.toNat)) s)) ∧
  (Issues y f { pred := true, rd := true, ra := true, imm := true, fmts := laneFmts } t s →
    ∃ u, exec (.vbcast y f) s = .next u ∧
      getV (yard u y) f.rd.toNat = putLanes d f w (fun _ => (getS d f.ra).toNat) (getV d f.rd.toNat) ∧
      getVs (yard u y) f.rd.toNat = putScales d f (fun _ => f.imm.setWidth 16) (getVs d f.rd.toNat)) ∧
  (Issues y f { pred := true, rd := true, ra := true, rb := true, imm := true } t s → f.imm.toNat ≤ n →
    ∃ u, exec (.valign y f) s = .next u ∧ (n = 256 → (getV d f.ra.toNat).length = 256 → (getV d f.rb.toNat).length = 256 →
      getV (yard u y) f.rd.toNat = putLanes d f 1 (fun i => ((((getV d f.ra.toNat) ++ (getV d f.rb.toNat)).drop
        f.imm.toNat).getD i 0).toNat) (getV d f.rd.toNat))) ∧
  (Issues y f { pred := true, rd := true, ra := true, fmts := [3, 4] } t s → ∃ u, exec (.vidx y f) s = .next u ∧
    getV (yard u y) f.rd.toNat = putLanes d f w (fun i => (getS d f.ra).toNat + i) (getV d f.rd.toNat) ∧
    (yard u y).vs = d.vs) ∧
  (Issues y f { rd := true, ra := true, rb := true, aux := 7, fmts := laneFmts } t s → auxBits f 2 0 ≤ 5 →
    ∃ u, exec (.vcmp y f) s = .next u ∧ getP (yard u y) f.rd.toNat = putPred d (fun i => vectorCond (auxBits f 2 0)
      (laneVal (laneFmt f) (getV d f.ra.toNat) (i / w)) (laneVal (laneFmt f) (getV d f.rb.toNat) (i / w)))
      (getP d f.rd.toNat) ∧ (yard u y).v = d.v) ∧
  (Issues y f { rd := true, ra := true, rb := true, aux := 7, fmts := laneFmts } t s → 5 < auxBits f 2 0 →
    exec (.vcmp y f) s = .next (taskFault y tkIllegal none s)) ∧
  (Issues y f { rd := true, ra := true, rb := true, aux := 7 } t s → auxBits f 2 0 ≤ 4 →
    ∃ u, exec (.vplog y f) s = .next u ∧ getP (yard u y) f.rd.toNat = putPred d (fun i => predOp (auxBits f 2 0)
      ((getP d f.ra.toNat).getLsbD i) ((getP d f.rb.toNat).getLsbD i)) (getP d f.rd.toNat)) ∧
  (Issues y f { pred := true, rd := true, ra := true, rb := true, fmts := [0, 2] } t s → f.rd.toNat + wideRegs f ≤ 32 →
    ∃ u, exec (.vwiden y f) s = .next u ∧ (yard u y).s = d.s ∧ (yard u y).p = d.p ∧ (yard u y).pc = d.pc + 16 ∧
      (∀ r, r < 32 → (r < f.rd.toNat ∨ f.rd.toNat + wideRegs f ≤ r) → getV (yard u y) r = getV d r)) ∧
  (Issues y f { pred := true, rd := true, ra := true, rb := true, rc := true, rnd := true, aux := 0x3FFF, fmts := [0, 2] } t s →
    f.ra.toNat + wideRegs f ≤ 32 →
    ∃ u, exec (.vreq y f) s = .next u ∧ (yard u y).s = d.s ∧ (yard u y).pc = d.pc + 16 ∧
      (∀ r, r < 32 → r ≠ f.rd.toNat → getV (yard u y) r = getV d r)) ∧
  (Issues y f { pred := true, rd := true, ra := true, rb := true, aux := 1, fmts := [3] } t s →
    ∃ u, exec (.vtopk y f) s = .next u ∧ (yard u y).pc = d.pc + 16 ∧
      (∀ r, r < 32 → r ≠ f.rd.toNat → getV (yard u y) r = getV d r)) ∧
  (Issues y f { rd := true, ra := true, aux := 3, fmts := [3, 4] } t s → auxBits f 1 0 = 0 →
    exec (.vreds y f) s = .next (ran y (setS f.rd (BitVec.ofInt 64 ((List.range (lanes d w)).map
      fun i => elemAt (laneFmt f) (getV d f.ra.toNat) i).sum)) s)) ∧
  (∀ x xs, Issues y f { rd := true, ra := true, aux := 3, fmts := [3, 4] } t s → (auxBits f 1 0 = 1 ∨ auxBits f 1 0 = 2) →
    (List.range (lanes d w)).map (fun i => elemAt (laneFmt f) (getV d f.ra.toNat) i) = x :: xs →
    exec (.vreds y f) s = .next (ran y (setS f.rd (BitVec.ofInt 64 (xs.foldl
      (fun p q => if auxBits f 1 0 = 1 then min p q else max p q) x))) s))

/-- R243 to R247: a tile and a scale store load from a RAW slot of scratch; MZERO clears an accumulator and sets its exponent;
MMA adds the product of two tiles, MMA.K16 that of two panels, to an accumulator and counts the engine's cycles; MST stores
the requantised blocks and their scale words in scratch; MRD reads a row. -/
def Obligations.MatrixInstructions : Prop :=
  ∀ (y : YardRef) (f : YF) (t : Task) (s : State) (d : Yard) (a : Nat), d = yard s y → a = (getS d f.ra + f.imm).toNat →
  (Issues y f { rd := true, ra := true, imm := true, fmts := [0, 1, 2] } t s → a % 4096 = 0 → inScratch a 4096 = true →
    descRaw (slotDesc d (a / 4096)) = true → exec (.mld y f) s = .next (ran y (fun e =>
      if descScale (slotDesc d (a / 4096)) then
        putTs (Fin.ofNat 4 f.rd.toNat) (scratchRead d t.pen a 4096) (tileScales f.fmt) e
      else { e with t := aSet e.t (Fin.ofNat 4 f.rd.toNat) (scratchRead d t.pen a 4096) }) s)) ∧
  (Issues y f { rd := true, ra := true, imm := true, fmts := [0, 1, 2] } t s → (a % 4096 ≠ 0 ∨ inScratch a 4096 = false) →
    exec (.mld y f) s = .next (taskFault y tkAddress none s)) ∧
  (Issues y f { rd := true, ra := true, imm := true, fmts := [0, 1, 2] } t s → a % 4096 = 0 → inScratch a 4096 = true →
    descRaw (slotDesc d (a / 4096)) = false → (expander s (.yard y)).queue = [] →
    boundTable s (aGetD d.sgrant (a / 4096) t.pen) (descTable (slotDesc d (a / 4096))) = none →
    exec (.mld y f) s = .next (taskFault y tkAbsent none s)) ∧
  (Issues y f { rd := true, ra := true, imm := true, fmts := [0, 1, 2] } t s → a % 2 = 0 →
    inScratch a (2 * tileScales f.fmt) = true → descRaw (slotDesc d (a / 4096)) = true →
    exec (.msld y f) s = .next (ran y (putTs (Fin.ofNat 4 f.rd.toNat) (scratchRead d t.pen a (2 * tileScales f.fmt))
      (tileScales f.fmt)) s)) ∧
  (Issues y f { rd := true, ra := true } t s → -512 ≤ (getS d f.ra).toInt → (getS d f.ra).toInt ≤ 511 →
    exec (.mzero y f) s = .next (ran y (setA f.rd.toNat { f := (getS d f.ra).toInt }) s)) ∧
  (Issues y f { rd := true, ra := true } t s → (getS d f.ra).toInt < -512 ∨ 511 < (getS d f.ra).toInt →
    exec (.mzero y f) s = .next (taskFault y tkIllegal none s)) ∧
  (∀ fm, Issues y f { rd := true, ra := true, rb := true, fmts := [0, 1, 2] } t s → fmtOf f.fmt.toNat = some fm →
    ∃ u x, exec (.mma y f) s = .next u ∧ x = accProduct (getA d f.rd.toNat)
        (tileRows fm (getT d f.ra.toNat) (getTs d f.ra.toNat)) (tileRows fm (getT d f.rb.toNat) (getTs d f.rb.toNat)) ∧
      getA (yard u y) f.rd.toNat = x.1 ∧ (yard u y).flags.getLsbD 0 = (d.flags.getLsbD 0 || x.2) ∧
      (unit u y.shed .yard y.yard).cnt2 =
        satAdd (unit s y.shed .yard y.yard).cnt2 (if f.fmt = 2 then 128 else 64) ∧ (yard u y).t = d.t) ∧
  (Issues y f { rd := true, ra := true, rb := true } t s → 512 ≤ d.vl.toNat → f.ra.toNat + panelRegs d ≤ f.rb.toNat →
    f.rb.toNat + panelRegs d ≤ 32 →
    ∃ u, exec (.mmaK16 y f) s = .next u ∧ getA (yard u y) f.rd.toNat =
        (accProduct (getA d f.rd.toNat) (panelRows d f.ra.toNat) (panelRows d f.rb.toNat)).1 ∧
      (unit u y.shed .yard y.yard).cnt2 = satAdd (unit s y.shed .yard y.yard).cnt2 16 ∧ (yard u y).v = d.v) ∧
  (∀ qs es, Issues y f { rd := true, ra := true, rb := true, rc := true, imm := true, rnd := true, aux := 0x3FFF,
                         fmts := [0, 1, 2] } t s → f.imm.toNat < 1024 → f.imm.getLsbD 8 = true →
    qs = mstBlocks d f ((mstValues d f).map (·.1)) →
    es = (qs.map fun q => packElems ((fmtOf f.fmt.toNat).getD .ebi8) q.q).flatten →
    inScratch (getS d f.rb).toNat (es.length + 256) = true →
    exec (.mst y f) s = .next (ran y (fun d => setSat ((mstValues d f).any (·.2) || qs.any (·.sat))
      (scratchWrite t.pen (getS d f.rb).toNat (es ++ (qs.map fun q => toLe 2 (mkScale q.e q.m).toNat).flatten) d)) s)) ∧
  (Issues y f { pred := true, rd := true, ra := true, imm := true } t s → d.vl.toNat = 2048 → f.pred = 0 →
    f.imm.toNat ≤ 63 → f.rd.toNat ≤ 30 → (getV d f.rd.toNat).length = 256 → (getV d (f.rd.toNat + 1)).length = 256 →
    ∃ u, exec (.mrd y f) s = .next u ∧ (∀ i, i < 64 → laneRaw (getV (yard u y) (f.rd.toNat + i / 32)) 8 (i % 32) =
      rawOf 64 ((((accElems (getA d f.ra.toNat)).drop (64 * f.imm.toNat)).take 64).getD i 0)) ∧
      (yard u y).acc = d.acc)

/-- R233, R248 to R257: a write port opens from its descriptor in scratch; STRM.READ gives the next landed block's address, from
then on shows the block in its slot, and holds the slot; STRM.CLOSE frees a read port; STRM.STAT counts; a port of the wrong kind ends the task PORT_MISUSE; SYNC waits for
writes only where bit 3 asks; STEP, SEED, SGETP, VSETL and SFLAG have their registers; TASKEND ends the task with its code. -/
def Obligations.StreamAndSystem : Prop :=
  ∀ (y : YardRef) (f : YF) (t : Task) (s : State) (d : Yard), d = yard s y →
  (∀ a b, Issues y f { ra := true, imm := true, aux := 31 } t s → portAt d (auxPort f) = none → auxBits f 4 4 = 0 →
    a = (getS d f.ra + f.imm).toNat → inScratch a 64 = true → b = scratchRead d t.pen a 64 → portDescOk s b = true →
    pMode b = 3 → exec (.strmOpen y f) s =
      .next (ran y (fun e => { e with ports := aSet e.ports (auxPort f) { out := true, desc := b } }) s)) ∧
  (∀ x, Issues y f { ra := true, imm := true, aux := 31 } t s → portAt d (auxPort f) = some x → x.closed = false →
    exec (.strmOpen y f) s = .next (taskFault y tkMisuse none s)) ∧
  (∀ x k bs c rest, Issues y f { rd := true, imm := true, aux := 15 } t s → portAt d (auxPort f) = some x → x.out = false →
    x.landed = (k, bs, c) :: rest → x.held = [] → f.imm = 0 → (expander s (.yard y)).queue = [] →
    ∃ u, exec (.strmRead y f) s = .next u ∧ (f.rd ≠ 0 → getS (yard u y) f.rd = BitVec.ofNat 64 (4096 * k)) ∧
      portAt (yard u y) (auxPort f) = some { x with landed := rest, held := [k] } ∧ (yard u y).pc = d.pc + 16 ∧
      (yard u y).scratch = (scratchWrite t.pen (4096 * k) bs d).scratch ∧ slotDesc (yard u y) k = c) ∧
  (∀ x, Issues y f { rd := true, imm := true, aux := 15 } t s → portAt d (auxPort f) = some x → x.out = true →
    exec (.strmRead y f) s = .next (taskFault y tkMisuse none s)) ∧
  (∀ x a, Issues y f { ra := true, imm := true, aux := 15 } t s → portAt d (auxPort f) = some x → x.out = true →
    x.closed = false → x.err = none → s.pool.jobs = [] → x.buf = [] → x.hold = none → pMode x.desc = 4 →
    (pFlags x.desc).testBit 0 = false → a = (getS d f.ra + f.imm).toNat → a % 4096 = 0 → inScratch a 4096 = true →
    descRaw (slotDesc d (a / 4096)) = true → (scratchRead d t.pen a 4096).length = 4096 →
    ∃ u, exec (.strmWrite y f) s = .next u ∧ portAt (yard u y) (auxPort f) =
      some { x with hold := some (scratchRead d t.pen a 4096, rawDesc) } ∧ (yard u y).pc = d.pc + 16) ∧
  (∀ x, Issues y f { aux := 15 } t s → portAt d (auxPort f) = some x → x.out = false → x.closed = false →
    ∃ u, exec (.strmClose y f) s = .next u ∧ portAt (yard u y) (auxPort f) = none) ∧
  (∀ x, Issues y f { aux := 15 } t s → portAt d (auxPort f) = some x → x.closed = true →
    exec (.strmClose y f) s = .next (taskFault y tkMisuse none s)) ∧
  (∀ x, Issues y f { rd := true, aux := 15 } t s → portAt d (auxPort f) = some x → x.closed = false →
    exec (.strmStat y f) s = .next (ran y (setS f.rd (BitVec.ofNat 64 (x.landed.length % 2 ^ 16 +
      x.held.length % 2 ^ 16 * 2 ^ 16 + bitNat x.ended.isSome * 2 ^ 32))) s)) ∧
  (Issues y f { imm := true } t s → f.imm.toNat ≤ 15 → (f.imm.getLsbD 3 = true → yardPending s y = false) →
    exec (.sync y f) s = .next (ran y id s)) ∧
  (Issues y f { imm := true } t s → f.imm.toNat ≤ 15 → f.imm.getLsbD 3 = true → yardPending s y = true →
    exec (.sync y f) s = .next s) ∧
  (Issues y f { rd := true } t s → exec (.stepGet y f) s = .next (ran y (setS f.rd (d.step.setWidth 64)) s) ∧
    exec (.seedGet y f) s = .next (ran y (setS f.rd d.seed) s)) ∧
  (Issues y f { ra := true, aux := 3 } t s → auxBits f 1 0 = 1 →
    exec (.stepSet y f) s = .next (ran y (fun e => { e with step := (getS d f.ra).setWidth 32 }) s)) ∧
  (Issues y f { imm := true, aux := 3 } t s → auxBits f 1 0 = 2 →
    exec (.stepAdd y f) s = .next (ran y (fun e => { e with step := d.step + f.imm.setWidth 32 }) s)) ∧
  (Issues y f { ra := true, aux := 1 } t s → auxBits f 0 0 = 1 →
    exec (.seedSet y f) s = .next (ran y (fun e => { e with seed := getS d f.ra }) s)) ∧
  (∀ v, Issues y f { rd := true, imm := true } t s → parameter y t f.imm.toNat = some v →
    exec (.sgetp y f) s = .next (ran y (setS f.rd v) s)) ∧
  (Issues y f { rd := true, imm := true } t s → parameter y t f.imm.toNat = none →
    exec (.sgetp y f) s = .next (taskFault y tkIllegal none s)) ∧
  (∀ g, Issues y f { rd := true, ra := true } t s → g = granules (getS d f.ra).toNat d.vlmax → 1 ≤ g ∧ g ≤ 8 ∧
    exec (.vsetl y f) s = .next (ran y (fun e => setS f.rd (BitVec.ofNat 64 g) { e with vl := BitVec.ofNat 12 (256 * g) }) s)) ∧
  (Issues y f { rd := true, imm := true } t s → exec (.sflag y f) s = .next (ran y (fun e =>
    { setS f.rd (d.flags.setWidth 64) e with flags := d.flags &&& ~~~ (f.imm.setWidth 8) }) s)) ∧
  (Issues y f { ra := true } t s → d.ports = [] → s.pool.jobs = [] → yardPending s y = false → s.work.reqs = [] →
    ∃ u, exec (.taskend y f) s = .next u ∧ u = retireInsn y (taskOk y ((getS d f.ra).toNat % 65536) s) ∧
      (yard u y).task = none ∧ (yard u y).s = []) ∧
  (∀ (p : Fin 16) x q b rest k, d.task = some k → portAt d p = some x → x.req.bind (reqAt s) = some q →
    q.port = b :: rest → x.landed.length + x.held.length < pSlots x.desc → exec (.streamBlockLanded y p) s =
      .next (runReq q.id [] (landBlock y p (portPen s k x) x b (modReq q.id (fun z => { z with port := rest }) s)))) ∧
  (∀ p, d.task = none → exec (.streamBlockLanded y p) s = .next s)

/-! ## Switching, queuing and traffic control (R268 to R296, R343) -/

/-- R22, R220, R268 to R275: a frame at a port that carries no data, or one for the device itself that its command carries, is
not switched; a bad frame that no port cuts through is dropped at station 1 or 2; frames that are too long, have two tags, or
carry bad CMX headers or a reserved opcode are dropped at station 3; pause frames, CMX packets without a route or at the end
of their hops are dropped, each counted where the spec says; other frames of a port without bridging are dropped; a routed CMX
packet joins the VOQ of its egress port and class with its MAC addresses, hop count and tag rewritten, counted in flight under
the current epoch; a frame whose search meets a lost bank is held; a bridged frame for an unknown address goes, unchanged, to
the members of its VLAN other than its ingress port (stated of one such member). The clauses are for ports whose receive
sampler is off. -/
def Obligations.FramesReceived : Prop :=
  (∀ (fr : Frame) (now : Nat) (s : State), portUsable s fr.port = false ∨
    (isLocalFrame s fr = true ∧ (frameBad s fr = true ∨ fr.cmx.any (fun x => !listedOp x) = false)) →
    exec (.frameReceive fr now) s = .next s) ∧
  (∀ (fr : Frame) (now : Nat) (s : State), portUsable s fr.port = true → islRunning s (shcOf (portShed fr.port)) = true →
    isLocalFrame s fr = true → frameBad s fr = false → fr.cmx.any (fun x => !listedOp x) = true →
    exec (.frameReceive fr now) s = .next (modPort fr.port (fun q => { q with dropHeader := satInc q.dropHeader }) s)) ∧
  (∀ (fr : Frame) (now : Nat) (s : State), portUsable s fr.port = true → islRunning s (shcOf (portShed fr.port)) = true →
    isLocalFrame s fr = false → (portQ s fr.port).rx.n = 0 → frameBad s fr = true →
    (onePort fr s).all (fun p => !cutThrough s fr p (frameClass s fr)) = true →
    ∃ n, exec (.frameReceive fr now) s = .next { (if fr.fcsOk = true
      then modPort fr.port (fun q => { q with dropMacsec := satInc q.dropMacsec }) s else s) with fresh := n }) ∧
  (∀ (fr : Frame) (now : Nat) (s : State), portUsable s fr.port = true → islRunning s (shcOf (portShed fr.port)) = true →
    isLocalFrame s fr = false → frameWaits s fr = true →
    exec (.frameReceive fr now) s = .next (pfcSettle { s with sw := { s.sw with lofted := s.sw.lofted ++ [(fr, now)] } })) ∧
  (∀ (fr : Frame) (now : Nat) (s : State), portUsable s fr.port = true → islRunning s (shcOf (portShed fr.port)) = true →
    isLocalFrame s fr = false → (portQ s fr.port).rx.n = 0 → frameBad s fr = false →
    ((portQ s fr.port).maxFrame.toNat < fr.len ∨ 1 < fr.tags ∨ fr.cmx.any (fun x => !x.headerOk || !listedOp x) = true →
      exec (.frameReceive fr now) s = .next (modPort fr.port (fun q => { q with dropHeader := satInc q.dropHeader }) s)) ∧
    (fr.len ≤ (portQ s fr.port).maxFrame.toNat → fr.tags ≤ 1 → fr.cmx.all (fun x => x.headerOk && listedOp x) = true →
      (fr.pause = true → exec (.frameReceive fr now) s =
        .next { s with routes := { s.routes with pauseDrop := satInc s.routes.pauseDrop } }) ∧
      (fr.pause = false → fr.cmx = none → (portQ s fr.port).bridge = false →
        ∃ t, exec (.frameReceive fr now) s = .next t ∧
          (voq t (portShed fr.port) (voqNo fr.port (frameClass s fr))).drop =
            satInc (voq s (portShed fr.port) (voqNo fr.port (frameClass s fr))).drop ∧
          { t with sw := { t.sw with voqs := s.sw.voqs } } = s) ∧
      (∀ x ip, fr.pause = false → fr.cmx = some x → fr.ipDst = some ip → x.epoch = s.routes.current.epoch →
        (ipEntry s.routes.current ip = none → exec (.frameReceive fr now) s =
          .next { s with routes := { s.routes with noRoute := satInc s.routes.noRoute } }) ∧
        (∀ e, ipEntry s.routes.current ip = some e → fr.ttl.toNat ≤ 1 → exec (.frameReceive fr now) s =
          .next { s with routes := { s.routes with ttlDrop := satInc s.routes.ttlDrop } }) ∧
        (∀ e, ipEntry s.routes.current ip = some e → 1 < fr.ttl.toNat → pickPort s e fr.sport.toNat = none →
          exec (.frameReceive fr now) s = .next { s with routes := { s.routes with linkDown := satInc s.routes.linkDown } }) ∧
        (∀ e p, ipEntry s.routes.current ip = some e → 1 < fr.ttl.toNat → pickPort s e fr.sport.toNat = some p →
          findMeter s fr.port (frameClass s fr) (some x.pen) = none →
          admits s (portShed fr.port) (voqNo p (frameClass s fr)) (cellsOf (portQ s fr.port).maxFrame.toNat) false = true →
          ∃ t, exec (.frameReceive fr now) s = .next t ∧
            (voq t (portShed fr.port) (voqNo p (frameClass s fr))).frames =
              (voq s (portShed fr.port) (voqNo p (frameClass s fr))).frames ++
                [{ body := .forward { fr with dst := e.mac, src := Config.portMac p.val, ttl := fr.ttl - 1, tags := bitNat e.tagged,
                                              vid := if e.tagged then e.vid else 0,
                                              pcp := if fr.tags = 1 then fr.pcp else BitVec.ofNat 3 (frameClass s fr).val,
                                              head := (rewriteFrame fr (frameClass s fr) e p).head },
                   len := fr.len, ingress := some fr.port, ect := fr.ect, fin := some s.routes.current.epoch, time := some now }] ∧
            t.routes = { s.routes with inflight := s.routes.inflight + 1 } ∧
            (∀ sh v, (sh, v) ≠ (portShed fr.port, voqNo p (frameClass s fr)) → voq t sh v = voq s sh v) ∧
            { t with routes := s.routes, out := s.out, sw := { t.sw with voqs := s.sw.voqs, ports := s.sw.ports } } = s)) ∧
      (∀ u p, fr.pause = false → fr.cmx = none → (portQ s fr.port).bridge = true → frameWaits s fr = false →
        learnFrom fr (if fr.tags = 1 then fr.vid else 0) now s = u → isGroupMac fr.dst = true →
        floodPorts u fr (if fr.tags = 1 then fr.vid else 0) = [p] → portUsable u p = true →
        findMeter u fr.port (frameClass s fr) none = none → (portQ u fr.port).rx.n = 0 →
        admits u (portShed fr.port) (voqNo p (frameClass s fr)) (cellsOf (portQ u fr.port).maxFrame.toNat) false = true →
        ∃ t, exec (.frameReceive fr now) s = .next t ∧
          (voq t (portShed fr.port) (voqNo p (frameClass s fr))).frames =
            (voq u (portShed fr.port) (voqNo p (frameClass s fr))).frames ++
              [{ body := .forward fr, len := fr.len, ingress := some fr.port, ect := fr.ect, time := some now }] ∧
          (∀ sh v, (sh, v) ≠ (portShed fr.port, voqNo p (frameClass s fr)) → voq t sh v = voq u sh v))))

/-- R277, R280 to R282, R290: a grant opportunity serves the highest strict class that may be served, before any other; the
frame at the head of the VOQ of the Shed whose turn it is leaves, and the turn passes on; with no strict class the deficit
round serves a class whose deficit and quantum cover its head frame, and keeps the rest. Stated of a port without shapers,
tripped watchdogs and a transmit sampler, and a forwarded frame in good order. -/
def Obligations.GrantOpportunities : Prop :=
  (∀ (p : PortIx) (now : Nat) (s : State), portUsable s p = false → exec (.grantOpportunity p now) s = .next s) ∧
  (∀ (p : PortIx) (now : Nat) (c : Fin 8) (sh : ShedIx) (f : QFrame) (fr : Frame) (rest : List QFrame) (s : State),
    portUsable s p = true → islRunning s (shcOf (portShed p)) = true → (portQ s p).wdTrip = 0 →
    (∀ k, (shaper s p k).en = false) → (portQ s p).tx.n = 0 → eligible s p now c = true → nextShed s p c = some sh →
    (voq s sh (voqNo p c)).frames = f :: rest → f.body = .forward fr → f.bad = false → f.fin = none →
    ((portQ s p).strict.getLsbD c.val = true →
      (∀ k, c < k → (portQ s p).strict.getLsbD k.val = true → eligible s p now k = false) →
      ∃ t os, exec (.grantOpportunity p now) s = .next t ∧ (voq t sh (voqNo p c)).frames = rest ∧
        t.out = s.out ++ .frame p (.forward (if f.dei = true ∧ fr.tags = 1 then { fr with dei := true } else fr))
          (marksCe s sh (voqNo p c) c f) :: os ∧
        aGet (portQ t p).rr c = some sh ∧ (∃ b, now ≤ b ∧ (c, b, b + lineTime s p f.len) ∈ (portQ t p).sending) ∧
        (∀ x v, (x, v) ≠ (sh, voqNo p c) → voq t x v = voq s x v)) ∧
    ((∀ k, (portQ s p).strict.getLsbD k.val = true → eligible s p now k = false) → (portQ s p).round = c →
      (portQ s p).served = false →
      headLen s p c ≤ aGetD (portQ s p).deficit c 0 + (aGetD (portQ s p).quant c 9216).toNat →
      ∃ t, exec (.grantOpportunity p now) s = .next t ∧ (voq t sh (voqNo p c)).frames = rest ∧
        (portQ t p).round = c ∧ (portQ t p).served = true ∧
        (rest ≠ [] → aGetD (portQ t p).deficit c 0 =
          aGetD (portQ s p).deficit c 0 + (aGetD (portQ s p).quant c 9216).toNat - headLen s p c)))

/-- R282, R285 to R289, R291: a shaper's credit of a class that waits rises with its idle slope between gate boundaries; a
boundary takes the next entry of the active list, wraps at its end, or changes the bank where a pending list is due; PFC frames pause
and release their class, while its watchdog has not tripped; the expiry releases it; XOFF is repeated while it holds; a
watchdog's trip and its recovery's end discard the class's frames; a sample takes the maxima of a Shed's VOQs. -/
def Obligations.GatesPfcAndSamples : Prop :=
  (∀ (p : PortIx) (now : Nat) (c : Fin 8) (s : State), (∀ k, k ≠ c → (shaper s p k).en = false) → (shaper s p c).en = true →
    (shaper s p c).waiting = true → requesters s p c ≠ [] → (portQ s p).sending = [] → (shaper s p c).written = false →
    (gate s p).running = false →
    (gate s p).pending = false → ∃ t, exec (.gateIntervalBoundary p now) s = .next t ∧
      (shaper t p c).credit = clampCredit s p ((shaper s p c).credit + (now - (shaper s p c).time : Nat) * (shaper s p c).idle.toNat) ∧
      (shaper t p c).time = now ∧ { t with sw := { t.sw with shapers := s.sw.shapers } } = s) ∧
  (∀ (p : PortIx) (now : Nat) (s : State), (∀ k, (shaper s p k).en = false) → (gate s p).running = true →
    ∃ t, exec (.gateIntervalBoundary p now) s = .next t ∧ { t with sw := { t.sw with gates := s.sw.gates } } = s ∧
      (∀ q, q ≠ p → gate t q = gate s q) ∧ (gate t p).start = (gate s p).start + (gateNow (gate s p)).2.toNat ∧
      (gate t p).guard = (portQ s p).maxFrame ∧
      ((gate s p).idx + 1 < gateLen (gate s p) (gate s p).active → (gate t p).idx = (gate s p).idx + 1 ∧
        (gate t p).active = (gate s p).active ∧ (gate t p).pending = (gate s p).pending) ∧
      (gateLen (gate s p) (gate s p).active ≤ (gate s p).idx + 1 → (gate t p).idx = 0 ∧
        (if (gate s p).pending = true ∧ (gate s p).base.toNat ≤ portTime (gate s p) now
         then (gate t p).active = !(gate s p).active ∧ (gate t p).pending = false
         else (gate t p).active = (gate s p).active ∧ (gate t p).pending = (gate s p).pending))) ∧
  (∀ (p : PortIx) (c : Fin 8) (quanta : BitVec 16) (s : State), portUsable s p = true →
    (portQ s p).wdTrip.getLsbD c.val = false → ∃ t, exec (.pfcFrameReceive p c quanta) s = .next t ∧
      (∀ k : Fin 8, (portQ t p).paused.getLsbD k.val =
        (if k = c then decide (quanta ≠ 0) else (portQ s p).paused.getLsbD k.val)) ∧
      (∀ q, q ≠ p → portQ t q = portQ s q) ∧ { t with sw := { t.sw with ports := s.sw.ports } } = s) ∧
  (∀ (p : PortIx) (c : Fin 8) (quanta : BitVec 16) (s : State), (portQ s p).wdTrip.getLsbD c.val = true →
    exec (.pfcFrameReceive p c quanta) s = .next s) ∧
  (∀ (p : PortIx) (c : Fin 8) (s : State), ∃ t, exec (.pfcPauseExpiry p c) s = .next t ∧
    (∀ k : Fin 8, (portQ t p).paused.getLsbD k.val = (decide (k ≠ c) && (portQ s p).paused.getLsbD k.val)) ∧
    (∀ q, q ≠ p → portQ t q = portQ s q) ∧ { t with sw := { t.sw with ports := s.sw.ports } } = s) ∧
  (∀ (p : PortIx) (c : Fin 8) (u s : State), pfcSettle s = u →
    exec (.pfcXoffRefresh p c) s =
      .next (if (portQ u p).xoff.getLsbD c.val then { u with out := u.out ++ [.pfc p c 0xFFFF] } else u)) ∧
  (∀ (p : PortIx) (c : Fin 8) (s : State), (portQ s p).paused.getLsbD c.val = true → (sched s (portShed p)).watchdog ≠ 0 →
    ∃ t, exec (.pfcWatchdogTrip p c) s = .next t ∧ (portQ t p).paused.getLsbD c.val = false ∧
      (portQ t p).wdTrip.getLsbD c.val = true ∧ (sched t (portShed p)).evt.getLsbD 2 = true ∧
      (∀ sh, (voq t sh (voqNo p c)).frames = [] ∧ (voq t sh (voqNo p c)).drop =
        satAdd (voq s sh (voqNo p c)).drop (voq s sh (voqNo p c)).frames.length) ∧
      (∀ sh v, v ≠ voqNo p c → voq t sh v = voq s sh v)) ∧
  (∀ (p : PortIx) (c : Fin 8) (s : State), (portQ s p).paused.getLsbD c.val = false →
    exec (.pfcWatchdogTrip p c) s = .next s) ∧
  (∀ (p : PortIx) (c : Fin 8) (s : State), (portQ s p).wdTrip.getLsbD c.val = true →
    ∃ t, exec (.pfcWatchdogRecoveryEnd p c) s = .next t ∧ (portQ t p).wdTrip.getLsbD c.val = false ∧
      ∀ sh, (voq t sh (voqNo p c)).frames = []) ∧
  (∀ (sh : ShedIx) (now : Nat) (s : State), islRunning s (shcOf sh) = true →
    ∃ t, exec (.voqSample sh now) s = .next t ∧ (∀ x v, (voq t x v).frames = (voq s x v).frames) ∧
      (∀ x v, x ≠ sh → voq t x v = voq s x v) ∧
      ∀ v f rest t0, (voq s sh v).frames = f :: rest → f.time = some t0 →
        (voq t sh v).depthMax = BitVec.ofNat 32 (max (voq s sh v).depthMax.toNat (voqDepth (voq s sh v))) ∧
        (voq t sh v).delayMax = BitVec.ofNat 32 (max (voq s sh v).delayMax.toNat (min (now - t0) (2 ^ 32 - 1))))

/-- R272, R284, R287, R295, R343: what SHAPER_CONFIG, METER_CONFIG, GATE_LIST_LOAD, PORT_CONFIG and the learning of MAC
addresses do when they are accepted. -/
def Obligations.SwitchConfiguration : Prop :=
  (∀ (r : Req) (p : PortIx) (c : Fin 8) (s : State), Accepts cmdShaperConfig false r s → leAt r.payload 0 2 = p.val →
    leAt r.payload 2 1 = c.val → bitsOf (leAt r.payload 4 4) 30 21 = 0 →
    ∃ u, exec (.shaperConfig r) s = .next (post (replyOf s 0xB1 r) stOk [] u) ∧
      (shaper u p c).idle = BitVec.ofNat 21 (leAt r.payload 4 4) ∧ (shaper u p c).en = (leAt r.payload 4 4).testBit 31 ∧
      (shaper u p c).credit = 0 ∧ (∀ q k, (q, k) ≠ (p, c) → shaper u q k = shaper s q k) ∧
      { u with sw := { u.sw with shapers := s.sw.shapers } } = takeRequest 0xB1 false r s) ∧
  (∀ (r : Req) (ix : ShedIx × Fin 16384) (m : Meter) (s : State), Accepts cmdMeterConfig false r s →
    bitsOf (leAt r.payload 4 4) 31 26 = 0 → leAt r.payload 8 4 < 2 ^ 21 → leAt r.payload 12 4 < 2 ^ 24 →
    leAt r.payload 16 4 < 2 ^ 21 → leAt r.payload 20 4 < 2 ^ 24 → leAt r.payload 8 4 ≤ leAt r.payload 16 4 →
    ix = (shedOf (leAt r.payload 0 2 / 16384), Fin.ofNat 16384 (leAt r.payload 0 2)) →
    newMeter r.payload (aGetD s.sw.meters ix {}) r.now = m →
    (∀ x ∈ s.sw.meters, x.1.1 = ix.1 → x.1.2 ≠ ix.2 → sameBinding x.2 m = false) →
    ∃ u, exec (.meterConfig r) s = .next (post (replyOf s 0xB2 r) stOk [] u) ∧ aGet u.sw.meters ix = some m ∧
      (∀ k, k ≠ ix → aGet u.sw.meters k = aGet s.sw.meters k) ∧
      { u with sw := { u.sw with meters := s.sw.meters } } = takeRequest 0xB2 false r s) ∧
  (∀ (r : Req) (p : PortIx) (s : State), Accepts (cmdGateLoad r) true r s → leAt r.payload 0 2 = p.val →
    1 ≤ leAt r.payload 2 1 → leAt r.payload 2 1 ≤ 64 → gateListOk (inBuf s r) (leAt r.payload 2 1) = true →
    (gate s p).pending = false →
    ∃ u, exec (.gateListLoad r) s = .next (post (replyOf s 0xB3 r) stOk [] u) ∧
      gate u p = (if (gate s p).active then
          { gate s p with bank0 := gateEntries (inBuf s r) (leAt r.payload 2 1), len0 := BitVec.ofNat 7 (leAt r.payload 2 1),
                          base := fieldLe 64 r.payload 8 8, pending := true }
        else { gate s p with bank1 := gateEntries (inBuf s r) (leAt r.payload 2 1), len1 := BitVec.ofNat 7 (leAt r.payload 2 1),
                             base := fieldLe 64 r.payload 8 8, pending := true }) ∧
      (∀ q, q ≠ p → gate u q = gate s q) ∧ { u with sw := { u.sw with gates := s.sw.gates } } = takeRequest 0xB3 true r s) ∧
  (∀ (r : Req) (s : State), Accepts cmdVlanSet false r s → leAt r.payload 0 2 ≤ 511 → leAt r.payload 2 1 = 1 →
    leAt r.payload 8 2 ≤ 4095 →
    ∃ u, exec (.vlanMemberSet r) s = .next (post (replyOf s 0xB0 r) stOk [] u) ∧
      aGet u.sw.vlans (BitVec.ofNat 12 (leAt r.payload 8 2)) = some (fieldLe 512 r.payload 16 64) ∧
      (∀ k, k ≠ BitVec.ofNat 12 (leAt r.payload 8 2) → aGet u.sw.vlans k = aGet s.sw.vlans k) ∧
      { u with sw := { u.sw with vlans := s.sw.vlans } } = takeRequest 0xB0 false r s) ∧
  (∀ (r : Req) (p : PortIx) (s : State), Accepts (cmdPortRegs r) false r s → leAt r.payload 0 2 = p.val →
    leAt r.payload 2 1 = 0 → leAt r.payload 4 4 = 1 → leAt r.payload 8 4 = 0x420004 + p.val % 128 * 0x20 →
    1522 ≤ leAt r.payload 12 4 → leAt r.payload 12 4 ≤ 9216 →
    exec (.portRegisterWrite r) s = .next (post (replyOf s 0xB0 r) stOk []
      (modPortQ p (fun q => { q with maxFrame := BitVec.ofNat 14 (leAt r.payload 12 4) }) (takeRequest 0xB0 false r s)))) ∧
  (∀ (r : Req) (b : ShedIx) (a : RowAt) (row : MRow) (w u s : State), Accepts (cmdStaticMac r) true r s →
    u = takeRequest 0xB0 true r s → leAt r.payload 0 2 ≤ 511 → leAt r.payload 2 1 = 2 → leAt r.payload 4 4 = 1 →
    leAt (inBuf s r) 6 2 ≤ 4095 → leAt (inBuf s r) 8 2 ≤ 511 → leAt (inBuf s r) 10 1 ≤ 1 → leAt (inBuf s r) 12 4 = 0 →
    16 ≤ (inBuf s r).length →
    (leAt (inBuf s r) 11 1 = 1 → macKnown u (BitVec.ofNat 48 (beAt (inBuf s r) 0 6)) (fieldLe 12 (inBuf s r) 6 2) = none →
      insertRow (macRow (BitVec.ofNat 48 (beAt (inBuf s r) 0 6)) (fieldLe 12 (inBuf s r) 6 2)
        (BitVec.ofNat 64 (leAt (inBuf s r) 8 2 + 2 ^ 16 + leAt (inBuf s r) 10 1 * 2 ^ 17))) u = some w →
      exec (.staticMacLoad r) s = .next (post (replyOf s 0xB0 r) stOk [] w)) ∧
    (leAt (inBuf s r) 11 1 = 2 →
      macEntry u (BitVec.ofNat 48 (beAt (inBuf s r) 0 6)) (fieldLe 12 (inBuf s r) 6 2) = some (b, a, row) →
      exec (.staticMacLoad r) s = .next (post (replyOf s 0xB0 r) stOk [] (dropRow b a u))) ∧
    (leAt (inBuf s r) 11 1 = 2 → macKnown u (BitVec.ofNat 48 (beAt (inBuf s r) 0 6)) (fieldLe 12 (inBuf s r) 6 2) = none →
      exec (.staticMacLoad r) s = .next (post (replyOf s 0xB0 r) stNotFound [] u))) ∧
  (∀ (sh b : ShedIx) (a : RowAt) (row : MRow) (l : Learn) (rest : List Learn) (w u s : State), aGetD s.sw.learns sh [] = l :: rest →
    s.kpr.state = .running → u = { s with sw := { s.sw with learns := aSet s.sw.learns sh rest } } →
    (macKnown u l.mac l.vid = none → insertRow (macRow l.mac l.vid (BitVec.ofNat 64 l.port.val)) u = some w →
      exec (.macLearn sh) s = .next w) ∧
    (macEntry u l.mac l.vid = some (b, a, row) → macStatic row = true → exec (.macLearn sh) s = .next u) ∧
    (macEntry u l.mac l.vid = some (b, a, row) → macStatic row = false → row.mask = BitVec.allOnes 160 →
      (mpart u 0).kind = 1 → freeRows u b 0 ≠ [] → ∃ i n, i ∈ freeRows u b 0 ∧ exec (.macLearn sh) s =
        .next (dropRow b a (putRow b (0, i) (macRow l.mac l.vid (BitVec.ofNat 64 l.port.val)) { u with fresh := n }))) ∧
    (macKnown u l.mac l.vid = none → insertRow (macRow l.mac l.vid (BitVec.ofNat 64 l.port.val)) u = none →
      exec (.macLearn sh) s = .next { u with sw := { u.sw with learnDrop := satInc u.sw.learnDrop } })) ∧
  (∀ (mac : BitVec 48) (vid : BitVec 12) (b : ShedIx) (a : RowAt) (row : MRow) (s : State),
    macEntry s mac vid = some (b, a, row) → s.kpr.state = .running →
    exec (.macAgeingExpiry mac vid) s = .next (if macStatic row then s else dropRow b a s))

/-! ## Coherence and DMA (R297 to R320, R352, R353) -/

/-- R297 to R303, R353: what requests for a line do whose home answers at once. A load miss gives E where no cache holds the
line, S where none owns it; a store miss gives M where none holds it, else the holders are snooped first; an upgrade of the
only copy gives M; a write-back brings the line's bytes and tag to the store, an eviction changes no store; a DMA read of a
Pen gets the line where its tag is the Pen's, else zeros, counted; DMA writes reach the store with the channel's tag, a whole
line clears its poison. -/
def Obligations.LineRequests : Prop :=
  (∀ (c : CacheIx) (line : BitVec 32) (s : State), QuietLine line s → cline s c line = none → (setLines s c line).length < 16 →
    (owners s line = [] → ∃ t, exec (.rdS c line) s = .next t ∧
      cline t c line = some { st := if holders s line = [] then .e else .s, data := homeData s line, tag := homeTag s line,
                              poison := isPoisoned s line } ∧
      (home t (cohHome s line)).reqCnt = satInc (home s (cohHome s line)).reqCnt ∧
      (∀ k l, (k, l) ≠ (c, line) → cline t k l = cline s k l) ∧ t.coh.mem = s.coh.mem ∧ t.coh.tags = s.coh.tags ∧
      { t with coh := s.coh, dmk := s.dmk } = s ∧ (c.val ≠ 68 ∨ isPoisoned s line = false → t.dmk = s.dmk)) ∧
    (holders s line = [] → ∃ t, exec (.rdU c line) s = .next t ∧
      cline t c line = some { st := .m, data := homeData s line, tag := homeTag s line, poison := isPoisoned s line } ∧
      (∀ k l, (k, l) ≠ (c, line) → cline t k l = cline s k l) ∧ t.coh.mem = s.coh.mem ∧ { t with coh := s.coh } = s) ∧
    (holders s line ≠ [] → (∀ k ∈ holders s line, islRunning s (cacheIsland k) = true) → ∃ t, exec (.rdU c line) s = .next t ∧
      aGet t.coh.busy line = some { req := .rdU c, waiting := holders s line } ∧
      (home t (cohHome s line)).snoopCnt = satAdd (home s (cohHome s line)).snoopCnt (holders s line).length ∧
      t.coh.caches = s.coh.caches ∧ t.coh.mem = s.coh.mem ∧ { t with coh := s.coh } = s)) ∧
  (∀ (c : CacheIx) (line : BitVec 32) (x : CLine) (s : State), QuietLine line s → cline s c line = some x →
    (x.st = .s → holders s line = [c] → ∃ t, exec (.upg c line) s = .next t ∧ cline t c line = some { x with st := .m } ∧
      (∀ k l, (k, l) ≠ (c, line) → cline t k l = cline s k l) ∧ t.coh.mem = s.coh.mem ∧ { t with coh := s.coh } = s) ∧
    (x.st = .m → x.data.length = 128 → ∃ t, exec (.wb c line) s = .next t ∧ cline t c line = none ∧ homeData t line = x.data ∧
      homeTag t line = x.tag ∧ (∀ k l, (k, l) ≠ (c, line) → cline t k l = cline s k l) ∧
      (∀ l, l ≠ line → homeData t l = homeData s l ∧ homeTag t l = homeTag s l) ∧ { t with coh := s.coh } = s) ∧
    (x.st ≠ .m → ∃ t, exec (.evc c line) s = .next t ∧ cline t c line = none ∧
      (∀ k l, (k, l) ≠ (c, line) → cline t k l = cline s k l) ∧ t.coh.mem = s.coh.mem ∧ t.coh.tags = s.coh.tags ∧
      { t with coh := s.coh } = s)) ∧
  (∀ (ch : DmaIx) (line : BitVec 32) (s : State), QuietLine line s → owners s line = [] → keeperDma ch = false →
    (((dch s ch).xfer.bind (·.acc)).map (·.place)) = some (.line line) →
    (homeTag s line = some (dch s ch).pen → ∃ t, exec (.rdOnce ch line) s = .next t ∧
      (dch t ch).got = some (homeData s line, isPoisoned s line) ∧ t.coh.caches = s.coh.caches ∧ t.coh.mem = s.coh.mem ∧
      { t with coh := s.coh, dma := s.dma } = s) ∧
    (homeTag s line ≠ some (dch s ch).pen → ∃ t, exec (.rdOnce ch line) s = .next t ∧
      (dch t ch).got = some (List.replicate 128 0, isPoisoned s line) ∧
      (home t (cohHome s line)).tagCnt = satInc (home s (cohHome s line)).tagCnt ∧ t.coh.mem = s.coh.mem)) ∧
  (∀ (ch : DmaIx) (line : BitVec 32) (data : List Byte) (s : State), QuietLine line s → holders s line = [] → data.length = 128 →
    ∃ t, exec (.wrFull ch line data) s = .next t ∧ homeData t line = data ∧
      homeTag t line = (if keeperDma ch then none else some (dch s ch).pen) ∧ isPoisoned t line = false ∧
      (∀ l, l ≠ line → homeData t l = homeData s l ∧ homeTag t l = homeTag s l ∧ isPoisoned t l = isPoisoned s l) ∧
      t.coh.caches = s.coh.caches ∧ { t with coh := s.coh, dma := s.dma } = s) ∧
  (∀ (ch : DmaIx) (addr : BitVec 39) (line : BitVec 32) (data : List Byte) (s : State), line = BitVec.ofNat 32 (addr.toNat / 128) →
    QuietLine line s → holders s line = [] → data ≠ [] → addr.toNat % 128 + data.length ≤ 128 → keeperDma ch = false →
    homeTag s line = some (dch s ch).pen →
    ∃ t, exec (.wrPart ch addr data) s = .next t ∧ homeTag t line = some (dch s ch).pen ∧
      homeData t line = (homeData s line).take (addr.toNat % 128) ++ data ++ (homeData s line).drop (addr.toNat % 128 + data.length) ∧
      (∀ l, l ≠ line → homeData t l = homeData s l) ∧ t.coh.poisoned = s.coh.poisoned ∧ t.coh.caches = s.coh.caches)

/-- R302, R305, R307, R308: the snooped owner's answer to a store miss brings its line to the requester alone, ends its own
copy and counts a forward; to a load miss it also brings the dirty bytes to the home; a flush that the home timeout overtakes
poisons its line; a snoop that expires drops a shared copy, and poisons an owned line before the request completes; a rebuilt slot
poisons the lines of the lost windows that no cache holds. -/
def Obligations.SnoopsAndLoss : Prop :=
  (∀ (c d : CacheIx) (line : BitVec 32) (x : CLine) (s : State), aGet s.coh.busy line = some { req := .rdU c, waiting := [d] } →
    c ≠ d → cline s c line = none → cline s d line = some x → s.coh.queue = [] → (setLines s c line).length < 16 →
    (x.st = .m → ∃ t, exec (.snoopResponse d line) s = .next t ∧ cline t d line = none ∧
      cline t c line = some x ∧ t.coh.mem = s.coh.mem ∧ aGet t.coh.busy line = none ∧ (home t (cohHome s line)).fwdCnt = satInc (home s (cohHome s line)).fwdCnt ∧
      (∀ k l, (k, l) ≠ (c, line) → (k, l) ≠ (d, line) → cline t k l = cline s k l) ∧ { t with coh := s.coh } = s) ∧
    (x.st = .s → ∃ t, exec (.homeTimeout line) s = .next t ∧ cline t d line = none ∧
      cline t c line = some { st := .m, data := homeData s line, tag := homeTag s line, poison := isPoisoned s line } ∧
      (home t (cohHome s line)).timeoutCnt = satInc (home s (cohHome s line)).timeoutCnt ∧
      (home t (cohHome s line)).evt.getLsbD 0 = true ∧ t.coh.poisoned = s.coh.poisoned) ∧
    (x.st ≠ .s → ∃ t, exec (.homeTimeout line) s = .next t ∧ cline t d line = none ∧ isPoisoned t line = true ∧
      (∃ y, cline t c line = some y ∧ y.st = .m ∧ y.poison = true) ∧
      (home t (cohHome s line)).poisonAddr = BitVec.ofNat 64 (line.toNat * 128) ∧
      (home t (cohHome s line)).evt.getLsbD 1 = true)) ∧
  (∀ (c d : CacheIx) (line : BitVec 32) (x : CLine) (s : State), aGet s.coh.busy line = some { req := .rdS c, waiting := [d] } →
    c ≠ d → cline s c line = none → cline s d line = some x → x.st = .m → x.data.length = 128 → c.val < 68 → s.coh.queue = [] →
    memWf s.coh.mem = true → (setLines s c line).length < 16 →
    ∃ t, exec (.snoopResponse d line) s = .next t ∧ cline t c line = some { x with st := .s } ∧
      cline t d line = some { x with st := .s } ∧ homeData t line = x.data ∧ homeTag t line = x.tag ∧
      (∀ l, l ≠ line → homeData t l = homeData s l) ∧ { t with coh := s.coh } = s) ∧
  (∀ (c : CacheIx) (line : BitVec 32) (s : State), aGet s.coh.busy line = none →
    exec (.snoopResponse c line) s = .next s ∧
    ((∀ q ∈ s.coh.queue, q.1 = line → ∀ k, reqCache q.2 = some k → flushing s k = false) → exec (.homeTimeout line) s = .next s)) ∧
  (∀ (c : CacheIx) (line : BitVec 32) (x : CLine) (s : State), aGet s.coh.busy line = none → s.coh.queue = [(line, .wb c)] →
    flushing s c = true → cline s c line = some x → x.st = .m →
    ∃ t, exec (.homeTimeout line) s = .next t ∧ cline t c line = none ∧ isPoisoned t line = true ∧ t.coh.queue = [] ∧
      t.coh.mem = s.coh.mem ∧ (∀ k l, (k, l) ≠ (c, line) → cline t k l = cline s k l)) ∧
  (∀ (slot : Fin 4) (ws : List (Nat × Nat)) (s : State), aGet s.coh.rebuild slot = some ws → s.coh.queue = [] →
    ∃ t, exec (.homeFilterRebuild slot) s = .next t ∧ aGet t.coh.rebuild slot = none ∧ t.coh.caches = s.coh.caches ∧
      (∀ l ∈ windowLines slot ws, holders s l = [] → isPoisoned t l = true) ∧
      (∀ l, holders s l ≠ [] ∨ l ∉ windowLines slot ws → isPoisoned t l = isPoisoned s l) ∧
      (home t (homeMap s slot)).evt.getLsbD 2 = true ∧ t.coh.mem = s.coh.mem)

/-- R309, R310, R317 to R319: DMA programs are loaded under a new identifier and removed; DMA_START binds an Idle channel of the
chosen Shed to the program; RESUME lets a Stopped channel run again; DMA_ABORT of a channel with no instruction in progress
leaves it Idle with status ABORTED. -/
def Obligations.DmaCommands : Prop :=
  (∀ (r : Req) (u s : State), Accepts cmdDmaLoad true r s → takeRequest 0x90 true r s = u → (inBuf u r).length % 32 = 0 →
    inBuf u r ≠ [] → (inBuf u r).length ≤ 8192 → penDmaPrograms u (actingPen u r) < 64 → (inBuf u r).length ≤ ctlFree u →
    ∃ v id, aGet s.dma.programs (actingPen u r, id) = none ∧
      exec (.dmaProgramLoad r) s = .next (post (replyOf s 0x90 r) stOk (toLe 4 (id : W32).toNat) v) ∧
      aGet v.dma.programs (actingPen u r, id) = some (inBuf u r) ∧ v.dma.chs = s.dma.chs ∧
      (∀ k, k ≠ (actingPen u r, id) → aGet v.dma.programs k = aGet s.dma.programs k)) ∧
  (∀ (r : Req) (u s : State), Accepts cmdDmaRemove false r s → r.flags = 1 → takeRequest 0x90 false r s = u →
    (aGet s.dma.programs (actingPen u r, fieldLe 32 r.payload 0 4)).isSome = true →
    (∀ c ∈ s.dma.chs, runsProgram c.2 (actingPen u r) (fieldLe 32 r.payload 0 4) = false) →
    ∃ v, exec (.dmaProgramRemove r) s = .next (post (replyOf s 0x90 r) stOk (toLe 4 (fieldLe 32 r.payload 0 4 : W32).toNat) v) ∧
      aGet v.dma.programs (actingPen u r, fieldLe 32 r.payload 0 4) = none ∧ v.dma.chs = s.dma.chs) ∧
  (∀ (r : Req) (img : List Byte) (u s : State), Accepts cmdDmaStart false r s → takeRequest 0x91 false r s = u →
    aGet s.dma.programs (actingPen u r, fieldLe 32 r.payload 0 4) = some img → leAt r.payload 4 1 ≤ 3 →
    (leAt r.payload 5 1 ≤ 3 ∨ leAt r.payload 5 1 = 0xFF) → programOk u r.chan (actingPen u r) img = true →
    startChans u (leAt r.payload 5 1) ≠ [] → penDma u (actingPen u r) < (pen u (actingPen u r)).qDma.toNat →
    (∀ d ∈ s.dma.chs, d.2.st = .idle ∨ d.2.pen = actingPen u r ∨ d.2.mask &&& fieldLe 64 r.payload 8 8 = 0) →
    ∃ v c, c ∈ startChans u (leAt r.payload 5 1) ∧ exec (.dmaStart r) s = .next (post (replyOf s 0x91 r) stOk (toLe 2 c.val) v) ∧ (dch v c).st = .running ∧
      (dch v c).pc = 0 ∧ (dch v c).pen = actingPen u r ∧ (dch v c).prog = fieldLe 32 r.payload 0 4 ∧ (dch v c).chan = r.chan ∧
      (dch v c).prio.toNat = leAt r.payload 4 1 ∧ (dch v c).mask = fieldLe 64 r.payload 8 8 ∧ (dch v c).xfer = none ∧
      (∀ k, k ≠ c → dch v k = dch s k) ∧ { v with dma := { v.dma with chs := s.dma.chs }, fresh := u.fresh } = u) ∧
  (∀ (r : Req) (c : DmaIx) (u s : State), Accepts cmdDmaResume false r s → r.flags = 1 → takeRequest 0x91 false r s = u →
    leAt r.payload 6 2 = c.val → mayTouch u r c = true → (dch s c).st = .stopped → (eng s (dmaShed c)).st = 0 →
    ∃ v, exec (.dmaResume r) s = .next (post (replyOf s 0x91 r) stOk (toLe 2 c.val) v) ∧
      dch v c = { dch s c with st := .running } ∧ (∀ k, k ≠ c → dch v k = dch s k) ∧
      { v with dma := { v.dma with chs := s.dma.chs } } = u) ∧
  (∀ (r : Req) (c : DmaIx) (u s : State), Accepts cmdDmaAbort false r s → takeRequest 0x92 false r s = u →
    leAt r.payload 0 2 = c.val → mayTouch u r c = true → (dch s c).st = .running → (dch s c).xfer = none →
    (eng s (dmaShed c)).st = 0 →
    ∃ v, exec (.dmaAbort r) s = .next (post (replyOf s 0x92 r) stOk [] v) ∧ (dch v c).st = .idle ∧ (dch v c).pen = 0 ∧
      (dch v c).endStatus = 7 ∧ (eng v (dmaShed c)).evt.getLsbD 2 = true ∧ (∀ k, k ≠ c → dch v k = dch s k))

/-- R311 to R316: MOVE, FILL and COMPARE begin with their operands once length and ranges are right; LOOP jumps while its count
is above zero and falls through after that; WAIT ends on a set flag, which CLEAR takes, else the channel is Waiting, until its
timeout ends the program with TIMEOUT; SIGNAL sets the flag; END ends the program with OK. A beat serves the first channel that
can move; a fill of host memory of at most 256 B is done in one beat. A bus error stops the engine with its channels, and the
Keeper's recovery makes it Ready with the cause recorded. -/
def Obligations.DmaInstructions : Prop :=
  (∀ (c : DmaIx) (f : DF) (s : State), (aGet (dch s c).src (dch s c).pc).isNone → (aGet (dch s c).dst (dch s c).pc).isNone →
    (DmaIssues c 1 f { sspace := true, dspace := true, key := f.sspace == 1 || f.dspace == 1, length := true, src := allOnes64,
                       dst := true, strides := true } s →
      lengthOk f f.pattern = true → dmaRangeOk s (dch s c) f.sspace f.src f.length.toNat = true →
      dmaRangeOk s (dch s c) f.dspace f.dst f.length.toNat = true → ∃ t, exec (.dmaMove c f) s = .next t ∧
        dch t c = { dch s c with doneBytes := 0, xfer := some { op := 1, f, src := f.src, dst := f.dst } } ∧
        (∀ k, k ≠ c → dch t k = dch s k) ∧ { t with dma := { t.dma with chs := s.dma.chs } } = s) ∧
    (DmaIssues c 2 f { dspace := true, key := f.dspace == 1, length := true, src := allOnes64, dst := true, strides := true } s →
      lengthOk f true = true → dmaRangeOk s (dch s c) f.dspace f.dst f.length.toNat = true →
      ∃ t, exec (.dmaFill c f) s = .next t ∧
        dch t c = { dch s c with doneBytes := 0, xfer := some { op := 2, f, src := f.src, dst := f.dst } } ∧
        (∀ k, k ≠ c → dch t k = dch s k) ∧ { t with dma := { t.dma with chs := s.dma.chs } } = s) ∧
    (DmaIssues c 3 f { sspace := !f.pattern, dspace := true, key := f.sspace == 1 || f.dspace == 1, length := true,
                       src := allOnes64, dst := true, strides := true, stop := true, pattern := true } s →
      lengthOk f f.pattern = true → (f.pattern = true ∨ dmaRangeOk s (dch s c) f.sspace f.src f.length.toNat = true) →
      dmaRangeOk s (dch s c) f.dspace f.dst f.length.toNat = true → ∃ t, exec (.dmaCompare c f) s = .next t ∧
        dch t c = { dch s c with doneBytes := 0, xfer := some { op := 3, f, src := f.src, dst := f.dst } } ∧
        (∀ k, k ≠ c → dch t k = dch s k) ∧ { t with dma := { t.dma with chs := s.dma.chs } } = s)) ∧
  (∀ (c : DmaIx) (f : DF) (s : State), DmaIssues c 4 f { length := true, src := 0xFFFF } s → 1 ≤ f.length.toNat →
    f.length.toNat ≤ 65535 → f.src.toNat < (dch s c).pc →
    (((dch s c).loops.find? fun l => l.1 = (dch s c).pc) = none → (dch s c).loops.length < 4 →
      ∃ t, exec (.dmaLoop c f) s = .next t ∧ (dch t c).pc = f.src.toNat ∧
        (((dch s c).pc, f.length.toNat - 1) ∈ (dch t c).loops) ∧ { t with dma := { t.dma with chs := s.dma.chs } } = s) ∧
    (((dch s c).loops.find? fun l => l.1 = (dch s c).pc) = some ((dch s c).pc, 0) →
      ∃ t, exec (.dmaLoop c f) s = .next t ∧ (dch t c).pc = (dch s c).pc + 1 ∧
        (dch t c).loops = ((dch s c).loops.filter fun l => ¬ l.1 = (dch s c).pc) ∧
        { t with dma := { t.dma with chs := s.dma.chs } } = s)) ∧
  (∀ (c : DmaIx) (f : DF) (s : State), DmaIssues c 5 f { src := 0xFFFFFFFF000000FF, clear := true } s → flagOf f ≤ 63 →
    (dch s c).mask.getLsbD (flagOf f) = true →
    ((eng s (dmaShed c)).flags.getLsbD (flagOf f) = true → ∃ t, exec (.dmaWait c f) s = .next t ∧ (dch t c).pc = (dch s c).pc + 1 ∧
      (dch t c).st = .running ∧ (eng t (dmaShed c)).flags.getLsbD (flagOf f) = !f.clear ∧
      { t with dma := { t.dma with chs := s.dma.chs, engs := s.dma.engs } } = s) ∧
    ((eng s (dmaShed c)).flags.getLsbD (flagOf f) = false → ∃ t, exec (.dmaWait c f) s = .next t ∧ (dch t c).pc = (dch s c).pc ∧
      (dch t c).st = .waiting ∧ { t with dma := { t.dma with chs := s.dma.chs } } = s)) ∧
  (∀ (c : DmaIx) (x : DXfer) (s : State), (dch s c).xfer = some x → (dch s c).st = .waiting → x.op = 5 →
    x.f.src.toNat / 2 ^ 32 ≠ 0 → ∃ t, exec (.dmaWaitTimeout c) s = .next t ∧ (dch t c).st = .idle ∧ (dch t c).endStatus = 6 ∧
      (∀ k, k ≠ c → dch t k = dch s k)) ∧
  (∀ (c : DmaIx) (f : DF) (sh : ShedIx) (s : State), DmaIssues c 6 f { src := 0xFFFF, notify := true } s → flagOf f ≤ 63 →
    bitsOf f.src.toNat 15 8 = sh.val → (dch s c).mask.getLsbD (flagOf f) = true →
    (∀ k ∈ engChans sh, (dch s k).st ≠ .waiting) →
    ∃ t, exec (.dmaSignal c f) s = .next t ∧ (dch t c).pc = (dch s c).pc + 1 ∧
      (eng t sh).flags = (eng s sh).flags ||| BitVec.twoPow 64 (flagOf f) ∧ (∀ k, k ≠ c → dch t k = dch s k)) ∧
  (∀ (c : DmaIx) (f : DF) (s : State), DmaIssues c 7 f {} s → ∃ t, exec (.dmaEnd c f) s = .next t ∧ (dch t c).st = .idle ∧
    (dch t c).endStatus = 0 ∧ (dch t c).pen = 0 ∧ (∀ k, k ≠ c → dch t k = dch s k)) ∧
  (∀ (sh : ShedIx) (c : DmaIx) (t s : State), (eng s sh).st = 0 → islRunning s (shcOf sh) = true →
    (∀ k ∈ engChans sh, (dch s k).st ≠ .aborting) → findBeat s (beatOrder s sh) = some (c, t) →
    exec (.dmaBeat sh) s = .next (modEng sh (countBeat c (dch s c).prio (effective s 0x20A02)) t)) ∧
  (∀ (c : DmaIx) (x : DXfer) (s : State), (dch s c).st = .running → (dch s c).xfer = some x → x.op = 2 → x.acc = none → x.wr = none →
    x.f.dspace = 2 → x.written = 0 → x.staging2 = [] → 1 ≤ x.f.length.toNat → x.f.length.toNat ≤ 256 →
    ∃ t, serveChan c s = some t ∧ (dch t c).pc = (dch s c).pc + 1 ∧ (dch t c).xfer = none ∧
      (dch t c).byteCnt = satAdd (dch s c).byteCnt x.f.length.toNat ∧
      t.host = (hostWrite (dch s c).chan x.dst.toNat (patternBytes x.src 0 x.f.length.toNat) s).host) ∧
  (∀ (sh : ShedIx) (cause : BitVec 4) (space : BitVec 2) (addr : W64) (s : State), (eng s sh).st = 0 →
    islRunning s (shcOf sh) = true → (∀ k ∈ engChans sh, (dch s k).st ≠ .aborting ∧ writing (dch s k) = false) →
    ∃ t, exec (.dmaBusError sh cause space addr) s = .next t ∧ (eng t sh).st = 2 ∧ (eng t sh).busErr = true ∧
      (eng t sh).pend = some (cause, space, addr) ∧ (eng t sh).evt.getLsbD 0 = true ∧
      (∀ k ∈ engChans sh, (dch t k).st = (if (dch s k).st = .running ∨ (dch s k).st = .waiting then .stopped else (dch s k).st)) ∧
      (∀ k, k ∉ engChans sh → dch t k = dch s k)) ∧
  (∀ (sh : ShedIx) (cause : BitVec 4) (space : BitVec 2) (addr : W64) (s : State), (eng s sh).st = 2 →
    (∀ k ∈ engChans sh, (dch s k).st ≠ .aborting) → (eng s sh).pend = some (cause, space, addr) → s.kpr.state = .running →
    exec (.dmaEngineRecover sh) s =
      .next (modEng sh (fun e => { e with st := 0, pend := none, cause, space, addr }) s))

/-! ## Registers, the pool aperture, Pens' teardown, Daymark records (R6 to R9, R352 to R378, R397 to R402, R424 to R427,
R459 to R469) -/

/-- R460 to R464, R468: a PCIe read of an RC counter returns it and clears it, the Keeper's does not clear it; a register that
the function does not see reads as zero; a 4 B read of an _LO register captures the _HI half, which the next 4 B read of the
_HI register returns once; a Fenced island's registers answer with an error; W1C fields take ones, and a cause that still
holds stays; writes of board management, unaligned writes and writes that the function does not see are discarded. -/
def Obligations.RegisterAccess : Prop :=
  (∀ (f : FnIx) (s : State), f.val % 64 = 0 → islFenced s 0 = false → aGet (fnSt s f).hi 0x10014 = none →
    exec (.registerRcRead (.fn f) 0x10014 4) s = .next { s with
      power := { s.power with brnCnt := 0 }, fresh := s.fresh + 1,
      out := s.out ++ [.completion f 0 (toLe 4 s.power.brnCnt.toNat)] }) ∧
  (∀ s : State, islFenced s 0 = false → exec (.registerRcRead .keeper 0x10014 4) s = .next { s with
      fresh := s.fresh + 1, out := s.out ++ [.regRead (s.power.brnCnt.setWidth 64)] }) ∧
  (∀ (f : FnIx) (off : BitVec 26) (s : State), off.toNat % 4 = 0 → sees (.fn f) off.toNat = false →
    aGet (fnSt s f).hi off.toNat = none → isLo off.toNat = false →
    exec (.registerRcRead (.fn f) off 4) s = .next { s with
      fresh := s.fresh + 1, out := s.out ++ [.completion f 0 [0, 0, 0, 0]] }) ∧
  (∀ (f : FnIx) (off : BitVec 26) (u s : State), off.toNat % 4 = 0 → isLo off.toNat = true → sees (.fn f) off.toNat = true →
    crossing s (.fn f) off.toNat = .reached → u = { s with fresh := s.fresh + 1 } →
    ∃ t, exec (.loRegisterRead (.fn f) off 4) s = .next t ∧
      t.out = s.out ++ [.completion f 0 (toLe 4 (readWord u (.fn f) (Config.free 32 s.fresh).toNat off.toNat))] ∧
      aGet (fnSt t f).hi (off.toNat + 4) =
        some (BitVec.ofNat 32 (readWord u (.fn f) (Config.free 32 s.fresh).toNat (off.toNat + 4)))) ∧
  (∀ (f : FnIx) (off : BitVec 26) (h : W32) (s : State), off.toNat % 4 = 0 → isLo off.toNat = false →
    readFails s (.fn f) off.toNat = false → aGet (fnSt s f).hi off.toNat = some h →
    ∃ t, exec (.loRegisterRead (.fn f) off 4) s = .next t ∧ t.out = s.out ++ [.completion f 0 (toLe 4 h.toNat)] ∧
      aGet (fnSt t f).hi off.toNat = none) ∧
  (∀ (f : FnIx) (off : BitVec 26) (size : Nat) (s : State), readFails s (.fn f) off.toNat = true →
    exec (.registerRcRead (.fn f) off size) s = .next { s with out := s.out ++ [.completion f 4 []] }) ∧
  (∀ (f : FnIx) (v : W64) (s : State), f.val % 64 = 0 → islFenced s 0 = false →
    exec (.registerWrite (.fn f) 0x10018 4 v) s =
      .next { s with power := { s.power with brnEvt := s.power.brnEvt &&& ~~~ (v.setWidth 2) } }) ∧
  (∀ (f : FnIx) (v : W64) (s : State), f.val % 64 = 0 → islFenced s 0 = false → s.glb.boot ≠ .held →
    (s.kpr.state ≠ .halted → exec (.registerWrite (.fn f) 0x8 4 v) s =
      .next { s with glb := { s.glb with cause := w1c s.glb.cause (v.setWidth 32) } }) ∧
    (s.kpr.state = .halted → v.getLsbD 1 = true → ∃ t, exec (.registerWrite (.fn f) 0x8 4 v) s = .next t ∧
      t.glb.cause = orBit (w1c s.glb.cause (v.setWidth 32)) 1)) ∧
  (∀ (c : Caller) (off : BitVec 26) (size : Nat) (v : W64) (s : State), c = .board ∨ ¬ (size = 4 ∨ size = 8) ∨ off.toNat % size ≠ 0 ∨
    (size = 4 ∧ sees c off.toNat = false) ∨ (size = 4 ∧ crossing s c off.toNat ≠ .reached) →
    exec (.registerWrite c off size v) s = .next s)

/-- R424 to R427: APR_HI_WRITE puts the entry that APR_LO's stored fields and the written value name, both halves at once, for
a VF with its bound Pen; a write of an APR_LO half changes no entry; a function-level reset clears the function's table; an aperture read within a 4 KiB block without an entry answers Unsupported Request, a write without an entry that
accepts writes is discarded and counted; an access that stations 5 to 8 pass is the access of the pool that its entry
names, made by the device's node. -/
def Obligations.PoolAperture : Prop :=
  (∀ (f : FnIx) (w : Fin 8192) (v : W32) (s : State), f.val % 64 = 0 →
    ∃ t, exec (.aprHiWrite (.fn f) w v) s = .next t ∧
      aGet (fnSt t f).apr w = some {
        v := (aGetD (fnSt s f).aprLo w 0).getLsbD 0, write := (aGetD (fnSt s f).aprLo w 0).getLsbD 1,
        keyId := (aGetD (fnSt s f).aprLo w 0).extractLsb' 8 8, pen := (aGetD (fnSt s f).aprLo w 0).extractLsb' 16 12,
        ext := (aGetD (fnSt s f).aprLo w 0).extractLsb' 28 3 ++ v } ∧
      (∀ x, x ≠ w → aGet (fnSt t f).apr x = aGet (fnSt s f).apr x) ∧ (∀ g, g ≠ f → fnSt t g = fnSt s g) ∧
      { t with fns := s.fns } = s) ∧
  (∀ (f : FnIx) (w : Fin 8192) (v : W32) (s : State), f.val % 64 ≠ 0 → (chan s (Fin.ofNat 160 f.val)).bound = true →
    ∃ t, exec (.aprHiWrite (.fn f) w v) s = .next t ∧
      aGet (fnSt t f).apr w = some {
        v := (aGetD (fnSt s f).aprLo w 0).getLsbD 0, write := (aGetD (fnSt s f).aprLo w 0).getLsbD 1,
        keyId := (aGetD (fnSt s f).aprLo w 0).extractLsb' 8 8, pen := (chan s (Fin.ofNat 160 f.val)).pen,
        ext := (aGetD (fnSt s f).aprLo w 0).extractLsb' 28 3 ++ v } ∧
      (∀ x, x ≠ w → aGet (fnSt t f).apr x = aGet (fnSt s f).apr x) ∧ (∀ g, g ≠ f → fnSt t g = fnSt s g) ∧
      { t with fns := s.fns } = s) ∧
  (∀ (f : FnIx) (off : BitVec 26) (v : W64) (s : State), 0x3800000 ≤ off.toNat → off.toNat < 0x3810000 → off.toNat % 8 = 0 →
    ∃ t, exec (.registerWrite (.fn f) off 4 v) s = .next t ∧ (∀ g, (fnSt t g).apr = (fnSt s g).apr) ∧ { t with fns := s.fns } = s) ∧
  (∀ (f : FnIx) (s : State), ∃ t, exec (.functionLevelReset f) s = .next t ∧ (fnSt t f).apr = [] ∧ (fnSt t f).aprLo = []) ∧
  (∀ (w : Fin 8192) (v : W32) (s : State), exec (.aprHiWrite .board w v) s = .next s ∧ exec (.aprHiWrite .keeper w v) s = .next s) ∧
  (∀ (f : FnIx) (off : BitVec 34) (len : Nat) (s : State), off.toNat % 4096 + len ≤ 4096 → aprEntry s f off.toNat = none →
    exec (.apertureRead f off len) s = .next { s with out := s.out ++ [.completion f 1 []] }) ∧
  (∀ (f : FnIx) (off : BitVec 34) (data : List Byte) (s : State), off.toNat % 4096 + data.length ≤ 4096 →
    (aprEntry s f off.toNat = none ∨ ∃ e, aprEntry s f off.toNat = some e ∧ e.write = false) →
    ∃ t, exec (.apertureWrite f off data) s = .next t ∧ (fnSt t f).errCnt = satInc (fnSt s f).errCnt ∧ (fnSt t f).aprEvt = true ∧
      { t with fns := s.fns, dmk := s.dmk } = s) ∧
  (∀ (f : FnIx) (off : BitVec 34) (len : Nat) (e : AprEntry) (s u : State), off.toNat % 4096 + len ≤ 4096 →
    aprEntry s f off.toNat = some e → e.pen ≠ 0 → aprQueued s f = none → u = { s with fresh := s.fresh + 1 } →
    (∀ sh walk, gates 0x01 (aprRx u sh e.pen e.keyId (aprAddr e off.toNat) len) walk u = .pass) →
    ∃ sh, exec (.apertureRead f off len) s = .next
      (startJob { id := 0, orig := .apr f, pen := e.pen, key := rxKey u (aprRx u sh e.pen e.keyId (aprAddr e off.toNat) len),
                  off := addrOff (aprAddr e off.toNat), len, store := false, data := [] }
        (touchEtc sh (rxKey u (aprRx u sh e.pen e.keyId (aprAddr e off.toNat) len)) u))) ∧
  (∀ (f : FnIx) (off : BitVec 34) (data : List Byte) (e : AprEntry) (s u : State), off.toNat % 4096 + data.length ≤ 4096 →
    aprEntry s f off.toNat = some e → e.write = true → e.pen ≠ 0 → aprQueued s f = none → u = { s with fresh := s.fresh + 1 } →
    (∀ sh walk, gates 0x03 (aprRx u sh e.pen e.keyId (aprAddr e off.toNat) data.length) walk u = .pass) →
    ∃ sh, exec (.apertureWrite f off data) s = .next
      (startJob { id := 0, orig := .apr f, pen := e.pen, key := rxKey u (aprRx u sh e.pen e.keyId (aprAddr e off.toNat) data.length),
                  off := addrOff (aprAddr e off.toNat), len := data.length, store := true, data }
        (touchEtc sh (rxKey u (aprRx u sh e.pen e.keyId (aprAddr e off.toNat) data.length)) u)))

/-- R355, R357, R360, R361, R375 to R378, R354: PEN_SET_QUOTA sets a Pen's limits and grant; a key that nothing uses is
removed; PEN_DESTROY of an Active Pen closes it and removes its keys; with nothing in flight, or at the timeout, it enters
Quarantine and its channels are unbound; the tag sweep leaves no line with its tag; the release frees the Pen. -/
def Obligations.PenTeardown : Prop :=
  (∀ (r : Req) (p : BitVec 12) (u s : State), Accepts cmdPenSetQuota false r s → takeRequest 0x12 false r s = u →
    leAt r.payload 0 2 = p.toNat → p ≠ 0 → grantOk s (leAt r.payload 32 4) (leAt r.payload 36 4) = true →
    ((pen s p).dsFirst.toNat = leAt r.payload 32 4 ∧ (pen s p).dsPages.toNat = leAt r.payload 36 4 ∨
      penTasks u p = 0 ∧ penDma u p = 0) →
    ∃ v, exec (.penSetQuota r) s = .next (post (replyOf s 0x12 r) stOk [] v) ∧
      pen v p = { pen s p with
        qNear := fieldLe 32 r.payload 4 4, qLent := fieldLe 32 r.payload 8 4, qTray := fieldLe 32 r.payload 12 4,
        qFlash := fieldLe 32 r.payload 16 4, qMatch := fieldLe 32 r.payload 20 4, qSessions := fieldLe 32 r.payload 24 4,
        qTasks := fieldLe 16 r.payload 28 2, qDma := fieldLe 8 r.payload 30 1, dsFirst := fieldLe 32 r.payload 32 4,
        dsPages := fieldLe 32 r.payload 36 4 } ∧
      (∀ q, q ≠ p → pen v q = pen s q) ∧ { v with pens := s.pens } = u) ∧
  (∀ (r : Req) (p : BitVec 12) (k : BitVec 8) (u s : State), r.blen = 0 →
    Accepts { cmdPenKeyInstall with blen := fun n => n == 0 } false r s → takeRequest 0x13 false r s = u →
    leAt r.payload 0 2 = p.toNat → leAt r.payload 2 1 = k.toNat → leAt r.payload 3 1 = 1 → keyInstalled s p k = true →
    keyUsers u p k = 0 →
    ∃ v, exec (.penKeyRemove r) s = .next (post (replyOf s 0x13 r) stOk [] v) ∧ keyInstalled v p k = false ∧
      (∀ x, x ≠ (p, k) → aGet v.sec.keys x = aGet s.sec.keys x)) ∧
  (∀ (r : Req) (p : BitVec 12) (s : State), Accepts cmdPenDestroy false r s → leAt r.payload 0 2 = p.toNat → p ≠ 0 →
    ((pen s p).state = .active → ∃ t, exec (.penDestroy r) s = .next t ∧ (pen t p).state = .closing ∧
      (pen t p).destroy = some (replyOf s 0x11 r) ∧ (∀ k, keyInstalled t p k = false) ∧
      (∀ q k, q ≠ p → keyInstalled t q k = keyInstalled s q k) ∧ (∀ q, q ≠ p → (pen t q).state = (pen s q).state)) ∧
    ((pen s p).state = .free → exec (.penDestroy r) s =
      .next (post (replyOf s 0x11 r) stNotFound [] (takeRequest 0x11 false r s))) ∧
    ((pen s p).state = .closing ∨ (pen s p).state = .quarantine → exec (.penDestroy r) s =
      .next (post (replyOf s 0x11 r) stPenClosed [] (takeRequest 0x11 false r s)))) ∧
  (∀ (p : BitVec 12) (s : State), (pen s p).state = .closing →
    (inFlight s p = 0 → ∃ t, exec (.teardownDrainDone p) s = .next t ∧ (pen t p).state = .quarantine ∧ (pen t p).swept = false ∧
      (pen t p).channels = [] ∧ (∀ c ∈ (pen s p).channels, (chan t c).bound = false) ∧
      (∀ q, q ≠ p → (pen t q).state = (pen s q).state)) ∧
    (inFlight s p ≠ 0 → exec (.teardownDrainDone p) s = .next s) ∧
    (∃ t, exec (.teardownStep4Timeout p) s = .next t ∧ (pen t p).state = .quarantine ∧ (pen t p).channels = [] ∧
      t.sec.evt.getLsbD 2 = true)) ∧
  (∀ (p : BitVec 12) (s : State), (pen s p).state = .quarantine → (pen s p).swept = false → (∀ i, islFenced s i = false) →
    ∃ t, exec (.tagSweepDone p) s = .next t ∧ (pen t p).swept = true ∧ (∀ x ∈ t.coh.caches, x.2.tag ≠ some p) ∧
      (∀ x ∈ t.coh.tags, x.2 ≠ p) ∧ (∀ y ∈ t.work.yards, ∀ x ∈ y.2.tags, x.2 ≠ p) ∧ t.coh.mem = s.coh.mem ∧
      (∀ q ∈ t.work.reqs, ∀ f ∈ q.fetches, f.cell ≠ some p) ∧ (∀ g ∈ t.groups, ∀ c ∈ g.2.opened, c.cell ≠ some p) ∧
      (∀ l q, q ≠ p → aGet s.coh.tags l = some q → aGet t.coh.tags l = some q) ∧
      { t with pens := s.pens, coh := s.coh, work := s.work, groups := s.groups } = s) ∧
  (∀ (p : BitVec 12) (s : State), tornDown s p = true → ∃ t, exec (.penRelease p) s = .next t ∧ pen t p = {} ∧
    (∀ x ∈ t.work.sessions, x.2.pen ≠ p) ∧ t.sec.evt.getLsbD 1 = true ∧ (∀ q, q ≠ p → pen t q = pen s q)) ∧
  (∀ (p : BitVec 12) (s : State), tornDown s p = false → exec (.penRelease p) s = .next s)

/-- R393, R397, R399 to R402: the oldest queued event is passed over when BARE is 0 and no trigger matches; else its record is
written at DMK_WRITE_PTR with the next SEQ, a fired trigger is marked and may freeze the Daymark; without room it is
Full and counts. FEED injects a start marker that agrees and ends the session at one that differs. -/
def Obligations.DaymarkRecordsAndFeed : Prop :=
  (∀ (e : DmkEvent) (rest : List DmkEvent) (s : State), s.dmk.queue = e :: rest → s.dmk.full = false → s.dmk.frozen = false →
    islFenced s 1 = false →
    (s.dmk.bare = false → (∀ t ∈ s.dmk.triggers, trigMatches e t.2 = false) →
      exec .daymarkRecordWrite s = .next { s with dmk := { s.dmk with queue := rest } }) ∧
    (s.dmk.bare = true → s.dmk.triggers = [] → memWf s.dmk.buf = true → s.dmk.writePtr + 64 ≤ 4194304 →
      ∃ t, exec .daymarkRecordWrite s = .next t ∧ t.dmk.queue = rest ∧ t.dmk.writeSeq = s.dmk.writeSeq + 1 ∧
        t.dmk.writePtr = s.dmk.writePtr + 64 ∧
        readBytes t.dmk.buf s.dmk.writePtr 16 = toLe 4 (s.dmk.writeSeq + 1).toNat ++ toLe 4 e.source.toNat ++ toLe 2 e.code.toNat ++
          [0, 0xFF, e.island, 0, 0, 0] ∧
        (∀ a, a < s.dmk.writePtr ∨ s.dmk.writePtr + 64 ≤ a → readByte t.dmk.buf a = readByte s.dmk.buf a) ∧
        { t with dmk := s.dmk, fresh := s.fresh } = s) ∧
    (s.dmk.bare = true → s.dmk.triggers = [] → 4194304 < s.dmk.writePtr + 64 →
      exec .daymarkRecordWrite s = .next { s with dmk := { s.dmk with
        full := true, queue := [], lost := satAdd s.dmk.lost (rest.length + 1) } }) ∧
    (∀ k tr, s.dmk.triggers = [(k, tr)] → trigFires e tr = true → memWf s.dmk.buf = true →
      s.dmk.writePtr + recordLen tr.offsets.length ≤ 4194304 →
      ∃ t, exec .daymarkRecordWrite s = .next t ∧ t.dmk.fired.getLsbD k.val = true ∧ t.dmk.frozen = tr.freeze ∧
        t.dmk.queue = (if tr.freeze then [] else rest) ∧ t.dmk.writePtr = s.dmk.writePtr + recordLen tr.offsets.length ∧
        readBytes t.dmk.buf (s.dmk.writePtr + 10) 2 = [BitVec.ofNat 8 tr.offsets.length, BitVec.ofNat 8 k.val] ∧
        { t with dmk := s.dmk, fresh := s.fresh } = s)) ∧
  (∀ s : State, s.dmk.queue = [] ∨ s.dmk.full = true ∨ s.dmk.frozen = true → exec .daymarkRecordWrite s = .next s) ∧
  (∀ (r : Req) (q : IjnRec) (u s : State), Accepts (cmdReplay 4) true r s → takeRequest 0xC2 true r s = u →
    u.ijn.state = .replaying → u.ijn.fed = [] → takeRec (inBuf u r) = some (q, (inBuf u r).length) → q.kind = 6 →
    (inBuf u r).length < u.ijn.total →
    exec (.inputReplayFeed r) s = .next (if q.body = startMarker u
      then post (replyOf s 0xC2 r) stOk [] { u with ijn := { u.ijn with
        total := u.ijn.total - (inBuf u r).length, replayed := u.ijn.replayed + 1 } }
      else post (replyOf s 0xC2 r) stBadParam [] { u with ijn := { u.ijn with
        state := .idle, total := u.ijn.total - (inBuf u r).length, replayed := u.ijn.replayed + 1 } })) ∧
  (∀ (r : Req) (s : State), Accepts (cmdReplay 4) true r s → s.ijn.state = .idle → exec (.inputReplayFeed r) s =
    .next (post (replyOf s 0xC2 r) stNotFound [] (takeRequest 0xC2 true r s)))

/-! ## The machine as a whole -/

/-- The block takes its commands first in, first out: a step takes the command at the front of the queue and has its effect
on everything but the queue's rest; with an empty queue it idles (the model's own choice: assumption 1). -/
def Obligations.StepRunsFrontCommand : Prop :=
  (∀ (c : Instr) (rest : List Instr) (s : State), s.pending = c :: rest → step s = exec c { s with pending := rest }) ∧
  (∀ s : State, s.pending = [] → step s = .next s)

/-- No command stops the machine: whatever the state, each has an effect, or none. -/
def Obligations.EveryCommandCompletes : Prop := ∀ s : State, Completes s ∧ ∀ i : Instr, ∃ t, exec i s = .next t

/-- What the machine is right after reset, where the spec gives the value: R467 (GLB_STAT, GLB_CAUSE, GLB_HOME_MAP), R18
(islands held in reset), R335 (KPR_BEAT), R274, R275, R281, R288 (scheduler and ports), R287 (gates), R44, R46 (near tier), R305
(coherence), R397 (Daymark), R406 (slice map), R411 (port width), R351 (Pens); and every memory is in its canonical form. -/
def Obligations.ResetState : Prop :=
  State.reset.pending = [] ∧ State.reset.glb.svc = 7 ∧ State.reset.glb.cause = 0 ∧
  (∀ n : Fin 4, homeMap State.reset n = n) ∧ (∀ i, (island State.reset i).state = .off) ∧
  State.reset.kpr.state = .bootRom ∧ State.reset.kpr.count = 0 ∧
  (∀ p, (portQ State.reset p).maxFrame = 9216 ∧ (portQ State.reset p).ctMask = 0xFF ∧ (portQ State.reset p).pfcMask = 0 ∧
    (portQ State.reset p).bridge = true ∧ (port State.reset p).width = 0 ∧ (port State.reset p).auth = 1 ∧
    gate State.reset p = {} ∧ ∀ i, gateEntry (gate State.reset p) false i = (0xFF, 0)) ∧
  (∀ sh, (sched State.reset sh).voqMib = 48 ∧ (sched State.reset sh).alpha = 1 ∧ (sched State.reset sh).voqMax = 64 ∧
    (sched State.reset sh).ecnThr = 128 ∧ (sched State.reset sh).xoff = 256 ∧ (sched State.reset sh).xon = 192 ∧
    (sched State.reset sh).headroom = 128 ∧ (sched State.reset sh).watchdog = 100 ∧ (home State.reset sh).timeoutUs = 10) ∧
  (∀ k, (stk State.reset k).retireEn = true ∧ (stk State.reset k).patrolEn = true ∧ (stk State.reset k).ceThr = 4) ∧
  (∀ sh k u, (unit State.reset sh k u).en = true) ∧ (∀ p, (pen State.reset p).state = .free) ∧
  State.reset.dmk.en = true ∧ State.reset.dmk.bare = true ∧ State.reset.dmk.writeSeq = 0 ∧ State.reset.dmk.writePtr = 0 ∧
  (∀ l a, laneSlice (lantern State.reset l) a = a.castLE (by decide)) ∧ MemsWf State.reset

/-- Every step keeps every memory in its canonical form, so that equal memories are equal data: over all states that are in
it, reached or not, and all commands. -/
def Obligations.MemoriesStayCanonical : Prop := ∀ s t : State, MemsWf s → step s = .next t → MemsWf t

/-- R13, R14: the home slot of a pool extent is the exclusive or of the 18 two-bit digits of its extent number, bits 55 to 21 of
the Pool Address, and of the Pen number's two low bits; that of a line of the coherent device space is the exclusive or of the
digits of the line number, the address shifted right by 7; home_map gives the slot's Shed. -/
def Obligations.HomeSlots : Prop :=
  (∀ (s : State) (p : BitVec 12) (pa : BitVec 56),
    (keySlot (p, addrExt pa)).val.testBit 0 = (List.range 18).foldl (fun b i => xor b (pa.getLsbD (2 * i + 21))) (p.getLsbD 0) ∧
    (keySlot (p, addrExt pa)).val.testBit 1 = (List.range 18).foldl (fun b i => xor b (pa.getLsbD (2 * i + 22))) (p.getLsbD 1) ∧
    (keyHome s (p, addrExt pa)).val = s.glb.homeMap.toNat / 4 ^ (keySlot (p, addrExt pa)).val % 4) ∧
  (∀ (s : State) (a : BitVec 39), let line : BitVec 32 := a.extractLsb' 7 32
    (lineSlot line).val.testBit 0 = (List.range 18).foldl (fun b i => xor b (a.getLsbD (2 * i + 7))) false ∧
    (lineSlot line).val.testBit 1 = (List.range 18).foldl (fun b i => xor b (a.getLsbD (2 * i + 8))) false ∧
    (cohHome s line).val = s.glb.homeMap.toNat / 4 ^ (lineSlot line).val % 4)

/-- Host memory (R325, R337): what the device writes through a channel is what it reads there afterwards, no other byte of
any host's memory changes, and nothing else of the machine does. -/
def Obligations.HostMemory : Prop := ∀ (c : ChanIx) (a : Nat) (bs : List Byte) (s : State),
  hostRead (hostWrite c a bs s) c a bs.length = bs ∧
  (∀ k x, (k ≠ chanMem s c ∨ x < a ∨ a + bs.length ≤ x) →
    readByte (hostMem (hostWrite c a bs s) k) x = readByte (hostMem s k) x) ∧
  { hostWrite c a bs s with host := s.host } = s ∧
  ((∀ h ∈ s.host, memWf h.2 = true) → ∀ h ∈ (hostWrite c a bs s).host, memWf h.2 = true)

/-- R236, R237: every Yard instruction, with every value of every field, is what its 16 B word decodes to; a word that decodes
to an instruction is that instruction's word, so that no bit of it is lost; a reserved GRP decodes to nothing. -/
def Obligations.YardWords : Prop :=
  (∀ (i : Instr) (y : YardRef) (g : BitVec 4) (o : BitVec 8) (f : YF), yardRow i = some (y, g, o, f) →
    ∃ w, yardEncode i = some w ∧ yardDecode y w = some i) ∧
  (∀ (y : YardRef) (w : BitVec 128) (i : Instr), yardDecode y w = some i → yardEncode i = some w ∧ ∃ r, yardRow i = some r ∧ r.1 = y) ∧
  (∀ (y : YardRef) (w : BitVec 128), 5 ≤ (yardGrp w).toNat → yardDecode y w = none)

/-- R311: every DMA instruction, with every value of every field, is what its 32 B word decodes to; a word that decodes to an
instruction is that instruction's word; an OP that R311 does not list decodes to nothing. -/
def Obligations.DmaWords : Prop :=
  (∀ (i : Instr) (c : DmaIx) (o : BitVec 8) (f : DF), dmaRow i = some (c, o, f) →
    ∃ w, dmaEncode i = some w ∧ dmaDecode c w = some i) ∧
  (∀ (c : DmaIx) (w : BitVec 256) (i : Instr), dmaDecode c w = some i → dmaEncode i = some w ∧ ∃ r, dmaRow i = some r ∧ r.1 = c) ∧
  (∀ (c : DmaIx) (w : BitVec 256), (w.extractLsb' 0 8).toNat = 0 ∨ 8 ≤ (w.extractLsb' 0 8).toNat → dmaDecode c w = none)
end

