-- ==== Sys2Proof/Laws/Choices.lean ====
section
/-! SUPPORT. The free choices of the machine: what `takeOne` and `freshId` can do, and no more. -/

namespace Sys2Proof.Machine

@[simp] theorem takeOne_nil {α : Type} (s : State) : takeOne ([] : List α) s = (none, s) := rfl
@[simp] theorem takeOne_single {α : Type} (a : α) (s : State) : takeOne [a] s = (some a, s) := rfl

/-- A choice from a list that is not empty gives one of its elements. -/
theorem takeOne_mem {α : Type} {l : List α} (s : State) (h : l ≠ []) : ∃ a, a ∈ l ∧ (takeOne l s).1 = some a := by
  match l, h with
  | [a], _ => exact ⟨a, List.mem_singleton.mpr rfl, rfl⟩
  | a :: b :: r, _ =>
    have hlt : Config.pick s.fresh % (a :: b :: r).length < (a :: b :: r).length := Nat.mod_lt _ (Nat.succ_pos _)
    refine ⟨_, List.getElem_mem hlt, ?_⟩
    simp only [takeOne, List.head?_drop]
    exact List.getElem?_eq_getElem hlt

/-- What a choice gives is in the list, and it gives nothing from the empty list only. -/
theorem takeOne_cases {α : Type} (l : List α) (s : State) :
    (l = [] ∧ (takeOne l s).1 = none) ∨ ∃ a, a ∈ l ∧ (takeOne l s).1 = some a := by
  by_cases h : l = []
  · exact .inl ⟨h, by rw [h]; rfl⟩
  · exact .inr (takeOne_mem s h)

/-- A choice changes the model's counter at most. -/
theorem takeOne_state {α : Type} (l : List α) (s : State) : ∃ n, (takeOne l s).2 = { s with fresh := n } := by
  match l with
  | [] => exact ⟨s.fresh, rfl⟩
  | [_] => exact ⟨s.fresh, rfl⟩
  | _ :: _ :: _ => exact ⟨s.fresh + 1, rfl⟩

/-- Among as many numbers as a list has elements, and one more, there is one that the list does not hold. -/
theorem exists_unused (used : List W32) (h : used.length < 2 ^ 32) :
    ∃ i, i < used.length + 1 ∧ BitVec.ofNat 32 i ∉ used := by
  by_contra hc
  have hall : ∀ i, i < used.length + 1 → BitVec.ofNat 32 i ∈ used := fun i hi => by
    by_contra hn; exact hc ⟨i, hi, hn⟩
  have hnd : ((List.range (used.length + 1)).map (BitVec.ofNat 32)).Nodup := by
    refine List.Nodup.map_on ?_ List.nodup_range
    intro a ha b hb hab
    have := congrArg BitVec.toNat hab
    simp only [BitVec.toNat_ofNat] at this
    rw [List.mem_range] at ha hb
    omega
  have := (hnd.subperm (fun x hx => by
    obtain ⟨i, hi, rfl⟩ := List.mem_map.mp hx
    exact hall i (List.mem_range.mp hi))).length_le
  simp at this

/-- A new number is not in use. -/
theorem freshId_unused (used : List W32) (s : State) (h : used.length < 2 ^ 32) : (freshId used s).1 ∉ used := by
  unfold freshId takeFree
  simp only
  split
  · obtain ⟨i, hi, hn⟩ := exists_unused used h
    cases hf : ((List.range (used.length + 1)).map fun i => BitVec.ofNat 32 i).find? fun c => !used.contains c with
    | none =>
      have := List.find?_eq_none.mp hf (BitVec.ofNat 32 i) (List.mem_map.mpr ⟨i, List.mem_range.mpr hi, rfl⟩)
      simp [hn] at this
    | some c =>
      have := List.find?_some hf
      simpa [hf] using this
  · rename_i hc
    simpa using hc

/-- A new number changes the model's counter only. -/
theorem freshId_state (used : List W32) (s : State) : (freshId used s).2 = { s with fresh := s.fresh + 1 } := by
  unfold freshId takeFree
  simp only
  split <;> rfl

/-- An exact entry whose bank has a free row is inserted there. -/
theorem insertRow_exact {r : MRow} {s : State} (hk : (mpart s r.part).kind = 1)
    (hf : freeRows s (exactBank s r.pen r.part r.key) r.part ≠ []) :
    ∃ i t, i ∈ freeRows s (exactBank s r.pen r.part r.key) r.part ∧
      insertRow r s = some (putRow (exactBank s r.pen r.part r.key) (r.part, i) r { s with fresh := t }) := by
  obtain ⟨i, hi, he⟩ := takeOne_mem s hf
  obtain ⟨t, ht⟩ := takeOne_state (freeRows s (exactBank s r.pen r.part r.key) r.part) s
  refine ⟨i, t, hi, ?_⟩
  have : takeOne (freeRows s (exactBank s r.pen r.part r.key) r.part) s = (some i, { s with fresh := t }) :=
    Prod.ext he ht
  simp only [insertRow, hk, if_true, this]

theorem insertRow_exact_isSome {r : MRow} {s : State} (hk : (mpart s r.part).kind = 1)
    (hf : (freeRows s (exactBank s r.pen r.part r.key) r.part).isEmpty = false) : (insertRow r s).isSome = true := by
  obtain ⟨_, _, _, h⟩ := insertRow_exact hk (fun h => by rw [h] at hf; cases hf)
  rw [h]; rfl

end Sys2Proof.Machine
end

