-- ==== Sys2Proof/Laws/State.lean ====
section
/-! SUPPORT. The small lemmas of the state: what a map or an array reads after a write, and every field of the state after
each of the named updates, so that no proof unfolds a record update. -/

namespace Sys2Proof.Machine

/-! ## Maps -/

variable {κ α : Type} [DecidableEq κ]

theorem aGet_aSet (m : Assoc κ α) (k k' : κ) (v : α) :
    aGet (aSet m k v) k' = if k = k' then some v else aGet m k' := by
  induction m with
  | nil => simp [aSet, aGet]
  | cons x m ih =>
    obtain ⟨a, b⟩ := x
    by_cases h : a = k
    · subst h
      simp only [aSet, aGet, if_true]
      split <;> rfl
    · simp only [aSet, h, if_false, aGet]
      split
      · rename_i h2
        subst h2
        simp [Ne.symm h]
      · exact ih

@[simp] theorem aGetD_aSet (m : Assoc κ α) (k k' : κ) (v d : α) :
    aGetD (aSet m k v) k' d = if k = k' then v else aGetD m k' d := by
  unfold aGetD
  rw [aGet_aSet]
  split <;> rfl

theorem aGet_aErase (m : Assoc κ α) (k k' : κ) :
    aGet (aErase m k) k' = if k = k' then none else aGet m k' := by
  induction m with
  | nil => simp [aErase, aGet]
  | cons x m ih =>
    obtain ⟨a, b⟩ := x
    unfold aErase at ih ⊢
    by_cases h : a = k
    · subst h
      rw [List.filter_cons_of_neg (by simp), ih]
      simp only [aGet]
      split <;> rfl
    · rw [List.filter_cons_of_pos (by simpa using h)]
      simp only [aGet, ih]
      split
      · rename_i h2
        subst h2
        simp [Ne.symm h]
      · rfl

theorem aGet_aAdjust (m : Assoc κ α) (k k' : κ) (f : α → α) :
    aGet (aAdjust m k f) k' = if k = k' then (aGet m k').map f else aGet m k' := by
  induction m with
  | nil => simp [aAdjust, aGet]
  | cons x m ih =>
    obtain ⟨a, b⟩ := x
    unfold aAdjust at ih ⊢
    by_cases h : a = k'
    · subst h
      by_cases h2 : a = k
      · subst h2
        simp [aGet]
      · simp [aGet, h2, Ne.symm h2]
    · by_cases h2 : a = k
      · subst h2
        simp only [List.map, if_true, aGet, h, if_false] at ih ⊢
        exact ih
      · simp only [List.map, h2, if_false, aGet, h] at ih ⊢
        exact ih

/-! ## Arrays -/

@[simp] theorem island_modIsland (i j : IslandIx) (f : Island → Island) (s : State) :
    island (modIsland i f s) j = if i = j then f (island s i) else island s j := by
  simp [island, modIsland, aMod]
@[simp] theorem input_modInput (i j : Fin 38) (f : Input → Input) (s : State) :
    input (modInput i f s) j = if i = j then f (input s i) else input s j := by
  simp [input, modInput, aMod]
@[simp] theorem chan_modChan (c j : ChanIx) (f : Channel → Channel) (s : State) :
    chan (modChan c f s) j = if c = j then f (chan s c) else chan s j := by
  simp [chan, modChan, aMod]
@[simp] theorem pen_modPen (p j : BitVec 12) (f : Pen → Pen) (s : State) :
    pen (modPen p f s) j = if p = j then f (pen s p) else pen s j := by
  simp [pen, modPen, aMod]
@[simp] theorem lantern_modLantern (l j : StackIx) (f : Lantern → Lantern) (s : State) :
    lantern (modLantern l f s) j = if l = j then f (lantern s l) else lantern s j := by
  simp [lantern, modLantern, aMod]
@[simp] theorem port_modPort (p j : PortIx) (f : Port → Port) (s : State) :
    port (modPort p f s) j = if p = j then f (port s p) else port s j := by
  simp [port, modPort, aMod]
@[simp] theorem shd_modShd (sh j : ShedIx) (f : ShedCtl → ShedCtl) (s : State) :
    shd (modShd sh f s) j = if sh = j then f (shd s sh) else shd s j := by
  simp [shd, modShd, aMod]
@[simp] theorem fnSt_modFn (f j : FnIx) (g : Fn → Fn) (s : State) :
    fnSt (modFn f g s) j = if f = j then g (fnSt s f) else fnSt s j := by
  simp [fnSt, modFn, aMod]
@[simp] theorem sched_modSched (sh j : ShedIx) (f : Sched → Sched) (s : State) :
    sched (modSched sh f s) j = if sh = j then f (sched s sh) else sched s j := by
  simp [sched, modSched, aMod]
@[simp] theorem portQ_modPortQ (p j : PortIx) (f : PortQ → PortQ) (s : State) :
    portQ (modPortQ p f s) j = if p = j then f (portQ s p) else portQ s j := by
  simp [portQ, modPortQ, aMod]
@[simp] theorem hostMem_modHost (k j : HostKey) (f : Mem → Mem) (s : State) :
    hostMem (modHost k f s) j = if k = j then f (hostMem s k) else hostMem s j := by
  simp [hostMem, modHost, aMod]

/-! ## Fields after updates -/

@[simp] theorem modIsland_pending (i : IslandIx) (g : Island → Island) (s : State) : (modIsland i g s).pending = s.pending := rfl
@[simp] theorem modIsland_fresh (i : IslandIx) (g : Island → Island) (s : State) : (modIsland i g s).fresh = s.fresh := rfl
@[simp] theorem modIsland_out (i : IslandIx) (g : Island → Island) (s : State) : (modIsland i g s).out = s.out := rfl
@[simp] theorem modIsland_kw (i : IslandIx) (g : Island → Island) (s : State) : (modIsland i g s).kw = s.kw := rfl
@[simp] theorem modIsland_glb (i : IslandIx) (g : Island → Island) (s : State) : (modIsland i g s).glb = s.glb := rfl
@[simp] theorem modIsland_power (i : IslandIx) (g : Island → Island) (s : State) : (modIsland i g s).power = s.power := rfl
@[simp] theorem modIsland_shd (i : IslandIx) (g : Island → Island) (s : State) : (modIsland i g s).shd = s.shd := rfl
@[simp] theorem modIsland_inputs (i : IslandIx) (g : Island → Island) (s : State) : (modIsland i g s).inputs = s.inputs := rfl
@[simp] theorem modIsland_nor (i : IslandIx) (g : Island → Island) (s : State) : (modIsland i g s).nor = s.nor := rfl
@[simp] theorem modIsland_jnl (i : IslandIx) (g : Island → Island) (s : State) : (modIsland i g s).jnl = s.jnl := rfl
@[simp] theorem modIsland_infEvt (i : IslandIx) (g : Island → Island) (s : State) : (modIsland i g s).infEvt = s.infEvt := rfl
@[simp] theorem modIsland_fuses (i : IslandIx) (g : Island → Island) (s : State) : (modIsland i g s).fuses = s.fuses := rfl
@[simp] theorem modIsland_kpr (i : IslandIx) (g : Island → Island) (s : State) : (modIsland i g s).kpr = s.kpr := rfl
@[simp] theorem modIsland_chans (i : IslandIx) (g : Island → Island) (s : State) : (modIsland i g s).chans = s.chans := rfl
@[simp] theorem modIsland_pens (i : IslandIx) (g : Island → Island) (s : State) : (modIsland i g s).pens = s.pens := rfl
@[simp] theorem modIsland_sec (i : IslandIx) (g : Island → Island) (s : State) : (modIsland i g s).sec = s.sec := rfl
@[simp] theorem modIsland_dmk (i : IslandIx) (g : Island → Island) (s : State) : (modIsland i g s).dmk = s.dmk := rfl
@[simp] theorem modIsland_ijn (i : IslandIx) (g : Island → Island) (s : State) : (modIsland i g s).ijn = s.ijn := rfl
@[simp] theorem modIsland_units (i : IslandIx) (g : Island → Island) (s : State) : (modIsland i g s).units = s.units := rfl
@[simp] theorem modIsland_loftErr (i : IslandIx) (g : Island → Island) (s : State) : (modIsland i g s).loftErr = s.loftErr := rfl
@[simp] theorem modIsland_loftMapped (i : IslandIx) (g : Island → Island) (s : State) : (modIsland i g s).loftMapped = s.loftMapped := rfl
@[simp] theorem modIsland_marginFails (i : IslandIx) (g : Island → Island) (s : State) : (modIsland i g s).marginFails = s.marginFails := rfl
@[simp] theorem modIsland_lanterns (i : IslandIx) (g : Island → Island) (s : State) : (modIsland i g s).lanterns = s.lanterns := rfl
@[simp] theorem modIsland_calib (i : IslandIx) (g : Island → Island) (s : State) : (modIsland i g s).calib = s.calib := rfl
@[simp] theorem modIsland_ports (i : IslandIx) (g : Island → Island) (s : State) : (modIsland i g s).ports = s.ports := rfl
@[simp] theorem modIsland_partners (i : IslandIx) (g : Island → Island) (s : State) : (modIsland i g s).partners = s.partners := rfl
@[simp] theorem modIsland_fns (i : IslandIx) (g : Island → Island) (s : State) : (modIsland i g s).fns = s.fns := rfl
@[simp] theorem modIsland_pcieA (i : IslandIx) (g : Island → Island) (s : State) : (modIsland i g s).pcieA = s.pcieA := rfl
@[simp] theorem modIsland_pcieB (i : IslandIx) (g : Island → Island) (s : State) : (modIsland i g s).pcieB = s.pcieB := rfl
@[simp] theorem modIsland_vfSize (i : IslandIx) (g : Island → Island) (s : State) : (modIsland i g s).vfSize = s.vfSize := rfl
@[simp] theorem modIsland_host (i : IslandIx) (g : Island → Island) (s : State) : (modIsland i g s).host = s.host := rfl
@[simp] theorem modIsland_pairs (i : IslandIx) (g : Island → Island) (s : State) : (modIsland i g s).pairs = s.pairs := rfl
@[simp] theorem modIsland_strangers (i : IslandIx) (g : Island → Island) (s : State) : (modIsland i g s).strangers = s.strangers := rfl
@[simp] theorem modIsland_routes (i : IslandIx) (g : Island → Island) (s : State) : (modIsland i g s).routes = s.routes := rfl
@[simp] theorem modIsland_sw (i : IslandIx) (g : Island → Island) (s : State) : (modIsland i g s).sw = s.sw := rfl
@[simp] theorem modIsland_udpPort (i : IslandIx) (g : Island → Island) (s : State) : (modIsland i g s).udpPort = s.udpPort := rfl
@[simp] theorem modIsland_near (i : IslandIx) (g : Island → Island) (s : State) : (modIsland i g s).near = s.near := rfl
@[simp] theorem modIsland_pool (i : IslandIx) (g : Island → Island) (s : State) : (modIsland i g s).pool = s.pool := rfl
@[simp] theorem modIsland_share (i : IslandIx) (g : Island → Island) (s : State) : (modIsland i g s).share = s.share := rfl
@[simp] theorem modIsland_work (i : IslandIx) (g : Island → Island) (s : State) : (modIsland i g s).work = s.work := rfl
@[simp] theorem modIsland_coh (i : IslandIx) (g : Island → Island) (s : State) : (modIsland i g s).coh = s.coh := rfl
@[simp] theorem modIsland_dma (i : IslandIx) (g : Island → Island) (s : State) : (modIsland i g s).dma = s.dma := rfl
@[simp] theorem modIsland_groups (i : IslandIx) (g : Island → Island) (s : State) : (modIsland i g s).groups = s.groups := rfl

@[simp] theorem modInput_pending (i : Fin 38) (g : Input → Input) (s : State) : (modInput i g s).pending = s.pending := rfl
@[simp] theorem modInput_fresh (i : Fin 38) (g : Input → Input) (s : State) : (modInput i g s).fresh = s.fresh := rfl
@[simp] theorem modInput_out (i : Fin 38) (g : Input → Input) (s : State) : (modInput i g s).out = s.out := rfl
@[simp] theorem modInput_kw (i : Fin 38) (g : Input → Input) (s : State) : (modInput i g s).kw = s.kw := rfl
@[simp] theorem modInput_glb (i : Fin 38) (g : Input → Input) (s : State) : (modInput i g s).glb = s.glb := rfl
@[simp] theorem modInput_isl (i : Fin 38) (g : Input → Input) (s : State) : (modInput i g s).isl = s.isl := rfl
@[simp] theorem modInput_power (i : Fin 38) (g : Input → Input) (s : State) : (modInput i g s).power = s.power := rfl
@[simp] theorem modInput_shd (i : Fin 38) (g : Input → Input) (s : State) : (modInput i g s).shd = s.shd := rfl
@[simp] theorem modInput_nor (i : Fin 38) (g : Input → Input) (s : State) : (modInput i g s).nor = s.nor := rfl
@[simp] theorem modInput_jnl (i : Fin 38) (g : Input → Input) (s : State) : (modInput i g s).jnl = s.jnl := rfl
@[simp] theorem modInput_infEvt (i : Fin 38) (g : Input → Input) (s : State) : (modInput i g s).infEvt = s.infEvt := rfl
@[simp] theorem modInput_fuses (i : Fin 38) (g : Input → Input) (s : State) : (modInput i g s).fuses = s.fuses := rfl
@[simp] theorem modInput_kpr (i : Fin 38) (g : Input → Input) (s : State) : (modInput i g s).kpr = s.kpr := rfl
@[simp] theorem modInput_chans (i : Fin 38) (g : Input → Input) (s : State) : (modInput i g s).chans = s.chans := rfl
@[simp] theorem modInput_pens (i : Fin 38) (g : Input → Input) (s : State) : (modInput i g s).pens = s.pens := rfl
@[simp] theorem modInput_sec (i : Fin 38) (g : Input → Input) (s : State) : (modInput i g s).sec = s.sec := rfl
@[simp] theorem modInput_dmk (i : Fin 38) (g : Input → Input) (s : State) : (modInput i g s).dmk = s.dmk := rfl
@[simp] theorem modInput_ijn (i : Fin 38) (g : Input → Input) (s : State) : (modInput i g s).ijn = s.ijn := rfl
@[simp] theorem modInput_units (i : Fin 38) (g : Input → Input) (s : State) : (modInput i g s).units = s.units := rfl
@[simp] theorem modInput_loftErr (i : Fin 38) (g : Input → Input) (s : State) : (modInput i g s).loftErr = s.loftErr := rfl
@[simp] theorem modInput_loftMapped (i : Fin 38) (g : Input → Input) (s : State) : (modInput i g s).loftMapped = s.loftMapped := rfl
@[simp] theorem modInput_marginFails (i : Fin 38) (g : Input → Input) (s : State) : (modInput i g s).marginFails = s.marginFails := rfl
@[simp] theorem modInput_lanterns (i : Fin 38) (g : Input → Input) (s : State) : (modInput i g s).lanterns = s.lanterns := rfl
@[simp] theorem modInput_calib (i : Fin 38) (g : Input → Input) (s : State) : (modInput i g s).calib = s.calib := rfl
@[simp] theorem modInput_ports (i : Fin 38) (g : Input → Input) (s : State) : (modInput i g s).ports = s.ports := rfl
@[simp] theorem modInput_partners (i : Fin 38) (g : Input → Input) (s : State) : (modInput i g s).partners = s.partners := rfl
@[simp] theorem modInput_fns (i : Fin 38) (g : Input → Input) (s : State) : (modInput i g s).fns = s.fns := rfl
@[simp] theorem modInput_pcieA (i : Fin 38) (g : Input → Input) (s : State) : (modInput i g s).pcieA = s.pcieA := rfl
@[simp] theorem modInput_pcieB (i : Fin 38) (g : Input → Input) (s : State) : (modInput i g s).pcieB = s.pcieB := rfl
@[simp] theorem modInput_vfSize (i : Fin 38) (g : Input → Input) (s : State) : (modInput i g s).vfSize = s.vfSize := rfl
@[simp] theorem modInput_host (i : Fin 38) (g : Input → Input) (s : State) : (modInput i g s).host = s.host := rfl
@[simp] theorem modInput_pairs (i : Fin 38) (g : Input → Input) (s : State) : (modInput i g s).pairs = s.pairs := rfl
@[simp] theorem modInput_strangers (i : Fin 38) (g : Input → Input) (s : State) : (modInput i g s).strangers = s.strangers := rfl
@[simp] theorem modInput_routes (i : Fin 38) (g : Input → Input) (s : State) : (modInput i g s).routes = s.routes := rfl
@[simp] theorem modInput_sw (i : Fin 38) (g : Input → Input) (s : State) : (modInput i g s).sw = s.sw := rfl
@[simp] theorem modInput_udpPort (i : Fin 38) (g : Input → Input) (s : State) : (modInput i g s).udpPort = s.udpPort := rfl
@[simp] theorem modInput_near (i : Fin 38) (g : Input → Input) (s : State) : (modInput i g s).near = s.near := rfl
@[simp] theorem modInput_pool (i : Fin 38) (g : Input → Input) (s : State) : (modInput i g s).pool = s.pool := rfl
@[simp] theorem modInput_share (i : Fin 38) (g : Input → Input) (s : State) : (modInput i g s).share = s.share := rfl
@[simp] theorem modInput_work (i : Fin 38) (g : Input → Input) (s : State) : (modInput i g s).work = s.work := rfl
@[simp] theorem modInput_coh (i : Fin 38) (g : Input → Input) (s : State) : (modInput i g s).coh = s.coh := rfl
@[simp] theorem modInput_dma (i : Fin 38) (g : Input → Input) (s : State) : (modInput i g s).dma = s.dma := rfl
@[simp] theorem modInput_groups (i : Fin 38) (g : Input → Input) (s : State) : (modInput i g s).groups = s.groups := rfl

@[simp] theorem modChan_pending (c : ChanIx) (g : Channel → Channel) (s : State) : (modChan c g s).pending = s.pending := rfl
@[simp] theorem modChan_fresh (c : ChanIx) (g : Channel → Channel) (s : State) : (modChan c g s).fresh = s.fresh := rfl
@[simp] theorem modChan_out (c : ChanIx) (g : Channel → Channel) (s : State) : (modChan c g s).out = s.out := rfl
@[simp] theorem modChan_kw (c : ChanIx) (g : Channel → Channel) (s : State) : (modChan c g s).kw = s.kw := rfl
@[simp] theorem modChan_glb (c : ChanIx) (g : Channel → Channel) (s : State) : (modChan c g s).glb = s.glb := rfl
@[simp] theorem modChan_isl (c : ChanIx) (g : Channel → Channel) (s : State) : (modChan c g s).isl = s.isl := rfl
@[simp] theorem modChan_power (c : ChanIx) (g : Channel → Channel) (s : State) : (modChan c g s).power = s.power := rfl
@[simp] theorem modChan_shd (c : ChanIx) (g : Channel → Channel) (s : State) : (modChan c g s).shd = s.shd := rfl
@[simp] theorem modChan_inputs (c : ChanIx) (g : Channel → Channel) (s : State) : (modChan c g s).inputs = s.inputs := rfl
@[simp] theorem modChan_nor (c : ChanIx) (g : Channel → Channel) (s : State) : (modChan c g s).nor = s.nor := rfl
@[simp] theorem modChan_jnl (c : ChanIx) (g : Channel → Channel) (s : State) : (modChan c g s).jnl = s.jnl := rfl
@[simp] theorem modChan_infEvt (c : ChanIx) (g : Channel → Channel) (s : State) : (modChan c g s).infEvt = s.infEvt := rfl
@[simp] theorem modChan_fuses (c : ChanIx) (g : Channel → Channel) (s : State) : (modChan c g s).fuses = s.fuses := rfl
@[simp] theorem modChan_kpr (c : ChanIx) (g : Channel → Channel) (s : State) : (modChan c g s).kpr = s.kpr := rfl
@[simp] theorem modChan_pens (c : ChanIx) (g : Channel → Channel) (s : State) : (modChan c g s).pens = s.pens := rfl
@[simp] theorem modChan_sec (c : ChanIx) (g : Channel → Channel) (s : State) : (modChan c g s).sec = s.sec := rfl
@[simp] theorem modChan_dmk (c : ChanIx) (g : Channel → Channel) (s : State) : (modChan c g s).dmk = s.dmk := rfl
@[simp] theorem modChan_ijn (c : ChanIx) (g : Channel → Channel) (s : State) : (modChan c g s).ijn = s.ijn := rfl
@[simp] theorem modChan_units (c : ChanIx) (g : Channel → Channel) (s : State) : (modChan c g s).units = s.units := rfl
@[simp] theorem modChan_loftErr (c : ChanIx) (g : Channel → Channel) (s : State) : (modChan c g s).loftErr = s.loftErr := rfl
@[simp] theorem modChan_loftMapped (c : ChanIx) (g : Channel → Channel) (s : State) : (modChan c g s).loftMapped = s.loftMapped := rfl
@[simp] theorem modChan_marginFails (c : ChanIx) (g : Channel → Channel) (s : State) : (modChan c g s).marginFails = s.marginFails := rfl
@[simp] theorem modChan_lanterns (c : ChanIx) (g : Channel → Channel) (s : State) : (modChan c g s).lanterns = s.lanterns := rfl
@[simp] theorem modChan_calib (c : ChanIx) (g : Channel → Channel) (s : State) : (modChan c g s).calib = s.calib := rfl
@[simp] theorem modChan_ports (c : ChanIx) (g : Channel → Channel) (s : State) : (modChan c g s).ports = s.ports := rfl
@[simp] theorem modChan_partners (c : ChanIx) (g : Channel → Channel) (s : State) : (modChan c g s).partners = s.partners := rfl
@[simp] theorem modChan_fns (c : ChanIx) (g : Channel → Channel) (s : State) : (modChan c g s).fns = s.fns := rfl
@[simp] theorem modChan_pcieA (c : ChanIx) (g : Channel → Channel) (s : State) : (modChan c g s).pcieA = s.pcieA := rfl
@[simp] theorem modChan_pcieB (c : ChanIx) (g : Channel → Channel) (s : State) : (modChan c g s).pcieB = s.pcieB := rfl
@[simp] theorem modChan_vfSize (c : ChanIx) (g : Channel → Channel) (s : State) : (modChan c g s).vfSize = s.vfSize := rfl
@[simp] theorem modChan_host (c : ChanIx) (g : Channel → Channel) (s : State) : (modChan c g s).host = s.host := rfl
@[simp] theorem modChan_pairs (c : ChanIx) (g : Channel → Channel) (s : State) : (modChan c g s).pairs = s.pairs := rfl
@[simp] theorem modChan_strangers (c : ChanIx) (g : Channel → Channel) (s : State) : (modChan c g s).strangers = s.strangers := rfl
@[simp] theorem modChan_routes (c : ChanIx) (g : Channel → Channel) (s : State) : (modChan c g s).routes = s.routes := rfl
@[simp] theorem modChan_sw (c : ChanIx) (g : Channel → Channel) (s : State) : (modChan c g s).sw = s.sw := rfl
@[simp] theorem modChan_udpPort (c : ChanIx) (g : Channel → Channel) (s : State) : (modChan c g s).udpPort = s.udpPort := rfl
@[simp] theorem modChan_near (c : ChanIx) (g : Channel → Channel) (s : State) : (modChan c g s).near = s.near := rfl
@[simp] theorem modChan_pool (c : ChanIx) (g : Channel → Channel) (s : State) : (modChan c g s).pool = s.pool := rfl
@[simp] theorem modChan_share (c : ChanIx) (g : Channel → Channel) (s : State) : (modChan c g s).share = s.share := rfl
@[simp] theorem modChan_work (c : ChanIx) (g : Channel → Channel) (s : State) : (modChan c g s).work = s.work := rfl
@[simp] theorem modChan_coh (c : ChanIx) (g : Channel → Channel) (s : State) : (modChan c g s).coh = s.coh := rfl
@[simp] theorem modChan_dma (c : ChanIx) (g : Channel → Channel) (s : State) : (modChan c g s).dma = s.dma := rfl
@[simp] theorem modChan_groups (c : ChanIx) (g : Channel → Channel) (s : State) : (modChan c g s).groups = s.groups := rfl

@[simp] theorem modPen_pending (p : BitVec 12) (g : Pen → Pen) (s : State) : (modPen p g s).pending = s.pending := rfl
@[simp] theorem modPen_fresh (p : BitVec 12) (g : Pen → Pen) (s : State) : (modPen p g s).fresh = s.fresh := rfl
@[simp] theorem modPen_out (p : BitVec 12) (g : Pen → Pen) (s : State) : (modPen p g s).out = s.out := rfl
@[simp] theorem modPen_kw (p : BitVec 12) (g : Pen → Pen) (s : State) : (modPen p g s).kw = s.kw := rfl
@[simp] theorem modPen_glb (p : BitVec 12) (g : Pen → Pen) (s : State) : (modPen p g s).glb = s.glb := rfl
@[simp] theorem modPen_isl (p : BitVec 12) (g : Pen → Pen) (s : State) : (modPen p g s).isl = s.isl := rfl
@[simp] theorem modPen_power (p : BitVec 12) (g : Pen → Pen) (s : State) : (modPen p g s).power = s.power := rfl
@[simp] theorem modPen_shd (p : BitVec 12) (g : Pen → Pen) (s : State) : (modPen p g s).shd = s.shd := rfl
@[simp] theorem modPen_inputs (p : BitVec 12) (g : Pen → Pen) (s : State) : (modPen p g s).inputs = s.inputs := rfl
@[simp] theorem modPen_nor (p : BitVec 12) (g : Pen → Pen) (s : State) : (modPen p g s).nor = s.nor := rfl
@[simp] theorem modPen_jnl (p : BitVec 12) (g : Pen → Pen) (s : State) : (modPen p g s).jnl = s.jnl := rfl
@[simp] theorem modPen_infEvt (p : BitVec 12) (g : Pen → Pen) (s : State) : (modPen p g s).infEvt = s.infEvt := rfl
@[simp] theorem modPen_fuses (p : BitVec 12) (g : Pen → Pen) (s : State) : (modPen p g s).fuses = s.fuses := rfl
@[simp] theorem modPen_kpr (p : BitVec 12) (g : Pen → Pen) (s : State) : (modPen p g s).kpr = s.kpr := rfl
@[simp] theorem modPen_chans (p : BitVec 12) (g : Pen → Pen) (s : State) : (modPen p g s).chans = s.chans := rfl
@[simp] theorem modPen_sec (p : BitVec 12) (g : Pen → Pen) (s : State) : (modPen p g s).sec = s.sec := rfl
@[simp] theorem modPen_dmk (p : BitVec 12) (g : Pen → Pen) (s : State) : (modPen p g s).dmk = s.dmk := rfl
@[simp] theorem modPen_ijn (p : BitVec 12) (g : Pen → Pen) (s : State) : (modPen p g s).ijn = s.ijn := rfl
@[simp] theorem modPen_units (p : BitVec 12) (g : Pen → Pen) (s : State) : (modPen p g s).units = s.units := rfl
@[simp] theorem modPen_loftErr (p : BitVec 12) (g : Pen → Pen) (s : State) : (modPen p g s).loftErr = s.loftErr := rfl
@[simp] theorem modPen_loftMapped (p : BitVec 12) (g : Pen → Pen) (s : State) : (modPen p g s).loftMapped = s.loftMapped := rfl
@[simp] theorem modPen_marginFails (p : BitVec 12) (g : Pen → Pen) (s : State) : (modPen p g s).marginFails = s.marginFails := rfl
@[simp] theorem modPen_lanterns (p : BitVec 12) (g : Pen → Pen) (s : State) : (modPen p g s).lanterns = s.lanterns := rfl
@[simp] theorem modPen_calib (p : BitVec 12) (g : Pen → Pen) (s : State) : (modPen p g s).calib = s.calib := rfl
@[simp] theorem modPen_ports (p : BitVec 12) (g : Pen → Pen) (s : State) : (modPen p g s).ports = s.ports := rfl
@[simp] theorem modPen_partners (p : BitVec 12) (g : Pen → Pen) (s : State) : (modPen p g s).partners = s.partners := rfl
@[simp] theorem modPen_fns (p : BitVec 12) (g : Pen → Pen) (s : State) : (modPen p g s).fns = s.fns := rfl
@[simp] theorem modPen_pcieA (p : BitVec 12) (g : Pen → Pen) (s : State) : (modPen p g s).pcieA = s.pcieA := rfl
@[simp] theorem modPen_pcieB (p : BitVec 12) (g : Pen → Pen) (s : State) : (modPen p g s).pcieB = s.pcieB := rfl
@[simp] theorem modPen_vfSize (p : BitVec 12) (g : Pen → Pen) (s : State) : (modPen p g s).vfSize = s.vfSize := rfl
@[simp] theorem modPen_host (p : BitVec 12) (g : Pen → Pen) (s : State) : (modPen p g s).host = s.host := rfl
@[simp] theorem modPen_pairs (p : BitVec 12) (g : Pen → Pen) (s : State) : (modPen p g s).pairs = s.pairs := rfl
@[simp] theorem modPen_strangers (p : BitVec 12) (g : Pen → Pen) (s : State) : (modPen p g s).strangers = s.strangers := rfl
@[simp] theorem modPen_routes (p : BitVec 12) (g : Pen → Pen) (s : State) : (modPen p g s).routes = s.routes := rfl
@[simp] theorem modPen_sw (p : BitVec 12) (g : Pen → Pen) (s : State) : (modPen p g s).sw = s.sw := rfl
@[simp] theorem modPen_udpPort (p : BitVec 12) (g : Pen → Pen) (s : State) : (modPen p g s).udpPort = s.udpPort := rfl
@[simp] theorem modPen_near (p : BitVec 12) (g : Pen → Pen) (s : State) : (modPen p g s).near = s.near := rfl
@[simp] theorem modPen_pool (p : BitVec 12) (g : Pen → Pen) (s : State) : (modPen p g s).pool = s.pool := rfl
@[simp] theorem modPen_share (p : BitVec 12) (g : Pen → Pen) (s : State) : (modPen p g s).share = s.share := rfl
@[simp] theorem modPen_work (p : BitVec 12) (g : Pen → Pen) (s : State) : (modPen p g s).work = s.work := rfl
@[simp] theorem modPen_coh (p : BitVec 12) (g : Pen → Pen) (s : State) : (modPen p g s).coh = s.coh := rfl
@[simp] theorem modPen_dma (p : BitVec 12) (g : Pen → Pen) (s : State) : (modPen p g s).dma = s.dma := rfl
@[simp] theorem modPen_groups (p : BitVec 12) (g : Pen → Pen) (s : State) : (modPen p g s).groups = s.groups := rfl

@[simp] theorem modLantern_pending (l : StackIx) (g : Lantern → Lantern) (s : State) : (modLantern l g s).pending = s.pending := rfl
@[simp] theorem modLantern_fresh (l : StackIx) (g : Lantern → Lantern) (s : State) : (modLantern l g s).fresh = s.fresh := rfl
@[simp] theorem modLantern_out (l : StackIx) (g : Lantern → Lantern) (s : State) : (modLantern l g s).out = s.out := rfl
@[simp] theorem modLantern_kw (l : StackIx) (g : Lantern → Lantern) (s : State) : (modLantern l g s).kw = s.kw := rfl
@[simp] theorem modLantern_glb (l : StackIx) (g : Lantern → Lantern) (s : State) : (modLantern l g s).glb = s.glb := rfl
@[simp] theorem modLantern_isl (l : StackIx) (g : Lantern → Lantern) (s : State) : (modLantern l g s).isl = s.isl := rfl
@[simp] theorem modLantern_power (l : StackIx) (g : Lantern → Lantern) (s : State) : (modLantern l g s).power = s.power := rfl
@[simp] theorem modLantern_shd (l : StackIx) (g : Lantern → Lantern) (s : State) : (modLantern l g s).shd = s.shd := rfl
@[simp] theorem modLantern_inputs (l : StackIx) (g : Lantern → Lantern) (s : State) : (modLantern l g s).inputs = s.inputs := rfl
@[simp] theorem modLantern_nor (l : StackIx) (g : Lantern → Lantern) (s : State) : (modLantern l g s).nor = s.nor := rfl
@[simp] theorem modLantern_jnl (l : StackIx) (g : Lantern → Lantern) (s : State) : (modLantern l g s).jnl = s.jnl := rfl
@[simp] theorem modLantern_infEvt (l : StackIx) (g : Lantern → Lantern) (s : State) : (modLantern l g s).infEvt = s.infEvt := rfl
@[simp] theorem modLantern_fuses (l : StackIx) (g : Lantern → Lantern) (s : State) : (modLantern l g s).fuses = s.fuses := rfl
@[simp] theorem modLantern_kpr (l : StackIx) (g : Lantern → Lantern) (s : State) : (modLantern l g s).kpr = s.kpr := rfl
@[simp] theorem modLantern_chans (l : StackIx) (g : Lantern → Lantern) (s : State) : (modLantern l g s).chans = s.chans := rfl
@[simp] theorem modLantern_pens (l : StackIx) (g : Lantern → Lantern) (s : State) : (modLantern l g s).pens = s.pens := rfl
@[simp] theorem modLantern_sec (l : StackIx) (g : Lantern → Lantern) (s : State) : (modLantern l g s).sec = s.sec := rfl
@[simp] theorem modLantern_dmk (l : StackIx) (g : Lantern → Lantern) (s : State) : (modLantern l g s).dmk = s.dmk := rfl
@[simp] theorem modLantern_ijn (l : StackIx) (g : Lantern → Lantern) (s : State) : (modLantern l g s).ijn = s.ijn := rfl
@[simp] theorem modLantern_units (l : StackIx) (g : Lantern → Lantern) (s : State) : (modLantern l g s).units = s.units := rfl
@[simp] theorem modLantern_loftErr (l : StackIx) (g : Lantern → Lantern) (s : State) : (modLantern l g s).loftErr = s.loftErr := rfl
@[simp] theorem modLantern_loftMapped (l : StackIx) (g : Lantern → Lantern) (s : State) : (modLantern l g s).loftMapped = s.loftMapped := rfl
@[simp] theorem modLantern_marginFails (l : StackIx) (g : Lantern → Lantern) (s : State) : (modLantern l g s).marginFails = s.marginFails := rfl
@[simp] theorem modLantern_calib (l : StackIx) (g : Lantern → Lantern) (s : State) : (modLantern l g s).calib = s.calib := rfl
@[simp] theorem modLantern_ports (l : StackIx) (g : Lantern → Lantern) (s : State) : (modLantern l g s).ports = s.ports := rfl
@[simp] theorem modLantern_partners (l : StackIx) (g : Lantern → Lantern) (s : State) : (modLantern l g s).partners = s.partners := rfl
@[simp] theorem modLantern_fns (l : StackIx) (g : Lantern → Lantern) (s : State) : (modLantern l g s).fns = s.fns := rfl
@[simp] theorem modLantern_pcieA (l : StackIx) (g : Lantern → Lantern) (s : State) : (modLantern l g s).pcieA = s.pcieA := rfl
@[simp] theorem modLantern_pcieB (l : StackIx) (g : Lantern → Lantern) (s : State) : (modLantern l g s).pcieB = s.pcieB := rfl
@[simp] theorem modLantern_vfSize (l : StackIx) (g : Lantern → Lantern) (s : State) : (modLantern l g s).vfSize = s.vfSize := rfl
@[simp] theorem modLantern_host (l : StackIx) (g : Lantern → Lantern) (s : State) : (modLantern l g s).host = s.host := rfl
@[simp] theorem modLantern_pairs (l : StackIx) (g : Lantern → Lantern) (s : State) : (modLantern l g s).pairs = s.pairs := rfl
@[simp] theorem modLantern_strangers (l : StackIx) (g : Lantern → Lantern) (s : State) : (modLantern l g s).strangers = s.strangers := rfl
@[simp] theorem modLantern_routes (l : StackIx) (g : Lantern → Lantern) (s : State) : (modLantern l g s).routes = s.routes := rfl
@[simp] theorem modLantern_sw (l : StackIx) (g : Lantern → Lantern) (s : State) : (modLantern l g s).sw = s.sw := rfl
@[simp] theorem modLantern_udpPort (l : StackIx) (g : Lantern → Lantern) (s : State) : (modLantern l g s).udpPort = s.udpPort := rfl
@[simp] theorem modLantern_near (l : StackIx) (g : Lantern → Lantern) (s : State) : (modLantern l g s).near = s.near := rfl
@[simp] theorem modLantern_pool (l : StackIx) (g : Lantern → Lantern) (s : State) : (modLantern l g s).pool = s.pool := rfl
@[simp] theorem modLantern_share (l : StackIx) (g : Lantern → Lantern) (s : State) : (modLantern l g s).share = s.share := rfl
@[simp] theorem modLantern_work (l : StackIx) (g : Lantern → Lantern) (s : State) : (modLantern l g s).work = s.work := rfl
@[simp] theorem modLantern_coh (l : StackIx) (g : Lantern → Lantern) (s : State) : (modLantern l g s).coh = s.coh := rfl
@[simp] theorem modLantern_dma (l : StackIx) (g : Lantern → Lantern) (s : State) : (modLantern l g s).dma = s.dma := rfl
@[simp] theorem modLantern_groups (l : StackIx) (g : Lantern → Lantern) (s : State) : (modLantern l g s).groups = s.groups := rfl

@[simp] theorem modPort_pending (p : PortIx) (g : Port → Port) (s : State) : (modPort p g s).pending = s.pending := rfl
@[simp] theorem modPort_fresh (p : PortIx) (g : Port → Port) (s : State) : (modPort p g s).fresh = s.fresh := rfl
@[simp] theorem modPort_out (p : PortIx) (g : Port → Port) (s : State) : (modPort p g s).out = s.out := rfl
@[simp] theorem modPort_kw (p : PortIx) (g : Port → Port) (s : State) : (modPort p g s).kw = s.kw := rfl
@[simp] theorem modPort_glb (p : PortIx) (g : Port → Port) (s : State) : (modPort p g s).glb = s.glb := rfl
@[simp] theorem modPort_isl (p : PortIx) (g : Port → Port) (s : State) : (modPort p g s).isl = s.isl := rfl
@[simp] theorem modPort_power (p : PortIx) (g : Port → Port) (s : State) : (modPort p g s).power = s.power := rfl
@[simp] theorem modPort_shd (p : PortIx) (g : Port → Port) (s : State) : (modPort p g s).shd = s.shd := rfl
@[simp] theorem modPort_inputs (p : PortIx) (g : Port → Port) (s : State) : (modPort p g s).inputs = s.inputs := rfl
@[simp] theorem modPort_nor (p : PortIx) (g : Port → Port) (s : State) : (modPort p g s).nor = s.nor := rfl
@[simp] theorem modPort_jnl (p : PortIx) (g : Port → Port) (s : State) : (modPort p g s).jnl = s.jnl := rfl
@[simp] theorem modPort_infEvt (p : PortIx) (g : Port → Port) (s : State) : (modPort p g s).infEvt = s.infEvt := rfl
@[simp] theorem modPort_fuses (p : PortIx) (g : Port → Port) (s : State) : (modPort p g s).fuses = s.fuses := rfl
@[simp] theorem modPort_kpr (p : PortIx) (g : Port → Port) (s : State) : (modPort p g s).kpr = s.kpr := rfl
@[simp] theorem modPort_chans (p : PortIx) (g : Port → Port) (s : State) : (modPort p g s).chans = s.chans := rfl
@[simp] theorem modPort_pens (p : PortIx) (g : Port → Port) (s : State) : (modPort p g s).pens = s.pens := rfl
@[simp] theorem modPort_sec (p : PortIx) (g : Port → Port) (s : State) : (modPort p g s).sec = s.sec := rfl
@[simp] theorem modPort_dmk (p : PortIx) (g : Port → Port) (s : State) : (modPort p g s).dmk = s.dmk := rfl
@[simp] theorem modPort_ijn (p : PortIx) (g : Port → Port) (s : State) : (modPort p g s).ijn = s.ijn := rfl
@[simp] theorem modPort_units (p : PortIx) (g : Port → Port) (s : State) : (modPort p g s).units = s.units := rfl
@[simp] theorem modPort_loftErr (p : PortIx) (g : Port → Port) (s : State) : (modPort p g s).loftErr = s.loftErr := rfl
@[simp] theorem modPort_loftMapped (p : PortIx) (g : Port → Port) (s : State) : (modPort p g s).loftMapped = s.loftMapped := rfl
@[simp] theorem modPort_marginFails (p : PortIx) (g : Port → Port) (s : State) : (modPort p g s).marginFails = s.marginFails := rfl
@[simp] theorem modPort_lanterns (p : PortIx) (g : Port → Port) (s : State) : (modPort p g s).lanterns = s.lanterns := rfl
@[simp] theorem modPort_calib (p : PortIx) (g : Port → Port) (s : State) : (modPort p g s).calib = s.calib := rfl
@[simp] theorem modPort_partners (p : PortIx) (g : Port → Port) (s : State) : (modPort p g s).partners = s.partners := rfl
@[simp] theorem modPort_fns (p : PortIx) (g : Port → Port) (s : State) : (modPort p g s).fns = s.fns := rfl
@[simp] theorem modPort_pcieA (p : PortIx) (g : Port → Port) (s : State) : (modPort p g s).pcieA = s.pcieA := rfl
@[simp] theorem modPort_pcieB (p : PortIx) (g : Port → Port) (s : State) : (modPort p g s).pcieB = s.pcieB := rfl
@[simp] theorem modPort_vfSize (p : PortIx) (g : Port → Port) (s : State) : (modPort p g s).vfSize = s.vfSize := rfl
@[simp] theorem modPort_host (p : PortIx) (g : Port → Port) (s : State) : (modPort p g s).host = s.host := rfl
@[simp] theorem modPort_pairs (p : PortIx) (g : Port → Port) (s : State) : (modPort p g s).pairs = s.pairs := rfl
@[simp] theorem modPort_strangers (p : PortIx) (g : Port → Port) (s : State) : (modPort p g s).strangers = s.strangers := rfl
@[simp] theorem modPort_routes (p : PortIx) (g : Port → Port) (s : State) : (modPort p g s).routes = s.routes := rfl
@[simp] theorem modPort_sw (p : PortIx) (g : Port → Port) (s : State) : (modPort p g s).sw = s.sw := rfl
@[simp] theorem modPort_udpPort (p : PortIx) (g : Port → Port) (s : State) : (modPort p g s).udpPort = s.udpPort := rfl
@[simp] theorem modPort_near (p : PortIx) (g : Port → Port) (s : State) : (modPort p g s).near = s.near := rfl
@[simp] theorem modPort_pool (p : PortIx) (g : Port → Port) (s : State) : (modPort p g s).pool = s.pool := rfl
@[simp] theorem modPort_share (p : PortIx) (g : Port → Port) (s : State) : (modPort p g s).share = s.share := rfl
@[simp] theorem modPort_work (p : PortIx) (g : Port → Port) (s : State) : (modPort p g s).work = s.work := rfl
@[simp] theorem modPort_coh (p : PortIx) (g : Port → Port) (s : State) : (modPort p g s).coh = s.coh := rfl
@[simp] theorem modPort_dma (p : PortIx) (g : Port → Port) (s : State) : (modPort p g s).dma = s.dma := rfl
@[simp] theorem modPort_groups (p : PortIx) (g : Port → Port) (s : State) : (modPort p g s).groups = s.groups := rfl

@[simp] theorem modShd_pending (sh : ShedIx) (g : ShedCtl → ShedCtl) (s : State) : (modShd sh g s).pending = s.pending := rfl
@[simp] theorem modShd_fresh (sh : ShedIx) (g : ShedCtl → ShedCtl) (s : State) : (modShd sh g s).fresh = s.fresh := rfl
@[simp] theorem modShd_out (sh : ShedIx) (g : ShedCtl → ShedCtl) (s : State) : (modShd sh g s).out = s.out := rfl
@[simp] theorem modShd_kw (sh : ShedIx) (g : ShedCtl → ShedCtl) (s : State) : (modShd sh g s).kw = s.kw := rfl
@[simp] theorem modShd_glb (sh : ShedIx) (g : ShedCtl → ShedCtl) (s : State) : (modShd sh g s).glb = s.glb := rfl
@[simp] theorem modShd_isl (sh : ShedIx) (g : ShedCtl → ShedCtl) (s : State) : (modShd sh g s).isl = s.isl := rfl
@[simp] theorem modShd_power (sh : ShedIx) (g : ShedCtl → ShedCtl) (s : State) : (modShd sh g s).power = s.power := rfl
@[simp] theorem modShd_inputs (sh : ShedIx) (g : ShedCtl → ShedCtl) (s : State) : (modShd sh g s).inputs = s.inputs := rfl
@[simp] theorem modShd_nor (sh : ShedIx) (g : ShedCtl → ShedCtl) (s : State) : (modShd sh g s).nor = s.nor := rfl
@[simp] theorem modShd_jnl (sh : ShedIx) (g : ShedCtl → ShedCtl) (s : State) : (modShd sh g s).jnl = s.jnl := rfl
@[simp] theorem modShd_infEvt (sh : ShedIx) (g : ShedCtl → ShedCtl) (s : State) : (modShd sh g s).infEvt = s.infEvt := rfl
@[simp] theorem modShd_fuses (sh : ShedIx) (g : ShedCtl → ShedCtl) (s : State) : (modShd sh g s).fuses = s.fuses := rfl
@[simp] theorem modShd_kpr (sh : ShedIx) (g : ShedCtl → ShedCtl) (s : State) : (modShd sh g s).kpr = s.kpr := rfl
@[simp] theorem modShd_chans (sh : ShedIx) (g : ShedCtl → ShedCtl) (s : State) : (modShd sh g s).chans = s.chans := rfl
@[simp] theorem modShd_pens (sh : ShedIx) (g : ShedCtl → ShedCtl) (s : State) : (modShd sh g s).pens = s.pens := rfl
@[simp] theorem modShd_sec (sh : ShedIx) (g : ShedCtl → ShedCtl) (s : State) : (modShd sh g s).sec = s.sec := rfl
@[simp] theorem modShd_dmk (sh : ShedIx) (g : ShedCtl → ShedCtl) (s : State) : (modShd sh g s).dmk = s.dmk := rfl
@[simp] theorem modShd_ijn (sh : ShedIx) (g : ShedCtl → ShedCtl) (s : State) : (modShd sh g s).ijn = s.ijn := rfl
@[simp] theorem modShd_units (sh : ShedIx) (g : ShedCtl → ShedCtl) (s : State) : (modShd sh g s).units = s.units := rfl
@[simp] theorem modShd_loftErr (sh : ShedIx) (g : ShedCtl → ShedCtl) (s : State) : (modShd sh g s).loftErr = s.loftErr := rfl
@[simp] theorem modShd_loftMapped (sh : ShedIx) (g : ShedCtl → ShedCtl) (s : State) : (modShd sh g s).loftMapped = s.loftMapped := rfl
@[simp] theorem modShd_marginFails (sh : ShedIx) (g : ShedCtl → ShedCtl) (s : State) : (modShd sh g s).marginFails = s.marginFails := rfl
@[simp] theorem modShd_lanterns (sh : ShedIx) (g : ShedCtl → ShedCtl) (s : State) : (modShd sh g s).lanterns = s.lanterns := rfl
@[simp] theorem modShd_calib (sh : ShedIx) (g : ShedCtl → ShedCtl) (s : State) : (modShd sh g s).calib = s.calib := rfl
@[simp] theorem modShd_ports (sh : ShedIx) (g : ShedCtl → ShedCtl) (s : State) : (modShd sh g s).ports = s.ports := rfl
@[simp] theorem modShd_partners (sh : ShedIx) (g : ShedCtl → ShedCtl) (s : State) : (modShd sh g s).partners = s.partners := rfl
@[simp] theorem modShd_fns (sh : ShedIx) (g : ShedCtl → ShedCtl) (s : State) : (modShd sh g s).fns = s.fns := rfl
@[simp] theorem modShd_pcieA (sh : ShedIx) (g : ShedCtl → ShedCtl) (s : State) : (modShd sh g s).pcieA = s.pcieA := rfl
@[simp] theorem modShd_pcieB (sh : ShedIx) (g : ShedCtl → ShedCtl) (s : State) : (modShd sh g s).pcieB = s.pcieB := rfl
@[simp] theorem modShd_vfSize (sh : ShedIx) (g : ShedCtl → ShedCtl) (s : State) : (modShd sh g s).vfSize = s.vfSize := rfl
@[simp] theorem modShd_host (sh : ShedIx) (g : ShedCtl → ShedCtl) (s : State) : (modShd sh g s).host = s.host := rfl
@[simp] theorem modShd_pairs (sh : ShedIx) (g : ShedCtl → ShedCtl) (s : State) : (modShd sh g s).pairs = s.pairs := rfl
@[simp] theorem modShd_strangers (sh : ShedIx) (g : ShedCtl → ShedCtl) (s : State) : (modShd sh g s).strangers = s.strangers := rfl
@[simp] theorem modShd_routes (sh : ShedIx) (g : ShedCtl → ShedCtl) (s : State) : (modShd sh g s).routes = s.routes := rfl
@[simp] theorem modShd_sw (sh : ShedIx) (g : ShedCtl → ShedCtl) (s : State) : (modShd sh g s).sw = s.sw := rfl
@[simp] theorem modShd_udpPort (sh : ShedIx) (g : ShedCtl → ShedCtl) (s : State) : (modShd sh g s).udpPort = s.udpPort := rfl
@[simp] theorem modShd_near (sh : ShedIx) (g : ShedCtl → ShedCtl) (s : State) : (modShd sh g s).near = s.near := rfl
@[simp] theorem modShd_pool (sh : ShedIx) (g : ShedCtl → ShedCtl) (s : State) : (modShd sh g s).pool = s.pool := rfl
@[simp] theorem modShd_share (sh : ShedIx) (g : ShedCtl → ShedCtl) (s : State) : (modShd sh g s).share = s.share := rfl
@[simp] theorem modShd_work (sh : ShedIx) (g : ShedCtl → ShedCtl) (s : State) : (modShd sh g s).work = s.work := rfl
@[simp] theorem modShd_coh (sh : ShedIx) (g : ShedCtl → ShedCtl) (s : State) : (modShd sh g s).coh = s.coh := rfl
@[simp] theorem modShd_dma (sh : ShedIx) (g : ShedCtl → ShedCtl) (s : State) : (modShd sh g s).dma = s.dma := rfl
@[simp] theorem modShd_groups (sh : ShedIx) (g : ShedCtl → ShedCtl) (s : State) : (modShd sh g s).groups = s.groups := rfl

@[simp] theorem modFn_pending (f : FnIx) (g : Fn → Fn) (s : State) : (modFn f g s).pending = s.pending := rfl
@[simp] theorem modFn_fresh (f : FnIx) (g : Fn → Fn) (s : State) : (modFn f g s).fresh = s.fresh := rfl
@[simp] theorem modFn_out (f : FnIx) (g : Fn → Fn) (s : State) : (modFn f g s).out = s.out := rfl
@[simp] theorem modFn_kw (f : FnIx) (g : Fn → Fn) (s : State) : (modFn f g s).kw = s.kw := rfl
@[simp] theorem modFn_glb (f : FnIx) (g : Fn → Fn) (s : State) : (modFn f g s).glb = s.glb := rfl
@[simp] theorem modFn_isl (f : FnIx) (g : Fn → Fn) (s : State) : (modFn f g s).isl = s.isl := rfl
@[simp] theorem modFn_power (f : FnIx) (g : Fn → Fn) (s : State) : (modFn f g s).power = s.power := rfl
@[simp] theorem modFn_shd (f : FnIx) (g : Fn → Fn) (s : State) : (modFn f g s).shd = s.shd := rfl
@[simp] theorem modFn_inputs (f : FnIx) (g : Fn → Fn) (s : State) : (modFn f g s).inputs = s.inputs := rfl
@[simp] theorem modFn_nor (f : FnIx) (g : Fn → Fn) (s : State) : (modFn f g s).nor = s.nor := rfl
@[simp] theorem modFn_jnl (f : FnIx) (g : Fn → Fn) (s : State) : (modFn f g s).jnl = s.jnl := rfl
@[simp] theorem modFn_infEvt (f : FnIx) (g : Fn → Fn) (s : State) : (modFn f g s).infEvt = s.infEvt := rfl
@[simp] theorem modFn_fuses (f : FnIx) (g : Fn → Fn) (s : State) : (modFn f g s).fuses = s.fuses := rfl
@[simp] theorem modFn_kpr (f : FnIx) (g : Fn → Fn) (s : State) : (modFn f g s).kpr = s.kpr := rfl
@[simp] theorem modFn_chans (f : FnIx) (g : Fn → Fn) (s : State) : (modFn f g s).chans = s.chans := rfl
@[simp] theorem modFn_pens (f : FnIx) (g : Fn → Fn) (s : State) : (modFn f g s).pens = s.pens := rfl
@[simp] theorem modFn_sec (f : FnIx) (g : Fn → Fn) (s : State) : (modFn f g s).sec = s.sec := rfl
@[simp] theorem modFn_dmk (f : FnIx) (g : Fn → Fn) (s : State) : (modFn f g s).dmk = s.dmk := rfl
@[simp] theorem modFn_ijn (f : FnIx) (g : Fn → Fn) (s : State) : (modFn f g s).ijn = s.ijn := rfl
@[simp] theorem modFn_units (f : FnIx) (g : Fn → Fn) (s : State) : (modFn f g s).units = s.units := rfl
@[simp] theorem modFn_loftErr (f : FnIx) (g : Fn → Fn) (s : State) : (modFn f g s).loftErr = s.loftErr := rfl
@[simp] theorem modFn_loftMapped (f : FnIx) (g : Fn → Fn) (s : State) : (modFn f g s).loftMapped = s.loftMapped := rfl
@[simp] theorem modFn_marginFails (f : FnIx) (g : Fn → Fn) (s : State) : (modFn f g s).marginFails = s.marginFails := rfl
@[simp] theorem modFn_lanterns (f : FnIx) (g : Fn → Fn) (s : State) : (modFn f g s).lanterns = s.lanterns := rfl
@[simp] theorem modFn_calib (f : FnIx) (g : Fn → Fn) (s : State) : (modFn f g s).calib = s.calib := rfl
@[simp] theorem modFn_ports (f : FnIx) (g : Fn → Fn) (s : State) : (modFn f g s).ports = s.ports := rfl
@[simp] theorem modFn_partners (f : FnIx) (g : Fn → Fn) (s : State) : (modFn f g s).partners = s.partners := rfl
@[simp] theorem modFn_pcieA (f : FnIx) (g : Fn → Fn) (s : State) : (modFn f g s).pcieA = s.pcieA := rfl
@[simp] theorem modFn_pcieB (f : FnIx) (g : Fn → Fn) (s : State) : (modFn f g s).pcieB = s.pcieB := rfl
@[simp] theorem modFn_vfSize (f : FnIx) (g : Fn → Fn) (s : State) : (modFn f g s).vfSize = s.vfSize := rfl
@[simp] theorem modFn_host (f : FnIx) (g : Fn → Fn) (s : State) : (modFn f g s).host = s.host := rfl
@[simp] theorem modFn_pairs (f : FnIx) (g : Fn → Fn) (s : State) : (modFn f g s).pairs = s.pairs := rfl
@[simp] theorem modFn_strangers (f : FnIx) (g : Fn → Fn) (s : State) : (modFn f g s).strangers = s.strangers := rfl
@[simp] theorem modFn_routes (f : FnIx) (g : Fn → Fn) (s : State) : (modFn f g s).routes = s.routes := rfl
@[simp] theorem modFn_sw (f : FnIx) (g : Fn → Fn) (s : State) : (modFn f g s).sw = s.sw := rfl
@[simp] theorem modFn_udpPort (f : FnIx) (g : Fn → Fn) (s : State) : (modFn f g s).udpPort = s.udpPort := rfl
@[simp] theorem modFn_near (f : FnIx) (g : Fn → Fn) (s : State) : (modFn f g s).near = s.near := rfl
@[simp] theorem modFn_pool (f : FnIx) (g : Fn → Fn) (s : State) : (modFn f g s).pool = s.pool := rfl
@[simp] theorem modFn_share (f : FnIx) (g : Fn → Fn) (s : State) : (modFn f g s).share = s.share := rfl
@[simp] theorem modFn_work (f : FnIx) (g : Fn → Fn) (s : State) : (modFn f g s).work = s.work := rfl
@[simp] theorem modFn_coh (f : FnIx) (g : Fn → Fn) (s : State) : (modFn f g s).coh = s.coh := rfl
@[simp] theorem modFn_dma (f : FnIx) (g : Fn → Fn) (s : State) : (modFn f g s).dma = s.dma := rfl
@[simp] theorem modFn_groups (f : FnIx) (g : Fn → Fn) (s : State) : (modFn f g s).groups = s.groups := rfl

@[simp] theorem modSched_pending (sh : ShedIx) (g : Sched → Sched) (s : State) : (modSched sh g s).pending = s.pending := rfl
@[simp] theorem modSched_fresh (sh : ShedIx) (g : Sched → Sched) (s : State) : (modSched sh g s).fresh = s.fresh := rfl
@[simp] theorem modSched_out (sh : ShedIx) (g : Sched → Sched) (s : State) : (modSched sh g s).out = s.out := rfl
@[simp] theorem modSched_kw (sh : ShedIx) (g : Sched → Sched) (s : State) : (modSched sh g s).kw = s.kw := rfl
@[simp] theorem modSched_glb (sh : ShedIx) (g : Sched → Sched) (s : State) : (modSched sh g s).glb = s.glb := rfl
@[simp] theorem modSched_isl (sh : ShedIx) (g : Sched → Sched) (s : State) : (modSched sh g s).isl = s.isl := rfl
@[simp] theorem modSched_power (sh : ShedIx) (g : Sched → Sched) (s : State) : (modSched sh g s).power = s.power := rfl
@[simp] theorem modSched_shd (sh : ShedIx) (g : Sched → Sched) (s : State) : (modSched sh g s).shd = s.shd := rfl
@[simp] theorem modSched_inputs (sh : ShedIx) (g : Sched → Sched) (s : State) : (modSched sh g s).inputs = s.inputs := rfl
@[simp] theorem modSched_nor (sh : ShedIx) (g : Sched → Sched) (s : State) : (modSched sh g s).nor = s.nor := rfl
@[simp] theorem modSched_jnl (sh : ShedIx) (g : Sched → Sched) (s : State) : (modSched sh g s).jnl = s.jnl := rfl
@[simp] theorem modSched_infEvt (sh : ShedIx) (g : Sched → Sched) (s : State) : (modSched sh g s).infEvt = s.infEvt := rfl
@[simp] theorem modSched_fuses (sh : ShedIx) (g : Sched → Sched) (s : State) : (modSched sh g s).fuses = s.fuses := rfl
@[simp] theorem modSched_kpr (sh : ShedIx) (g : Sched → Sched) (s : State) : (modSched sh g s).kpr = s.kpr := rfl
@[simp] theorem modSched_chans (sh : ShedIx) (g : Sched → Sched) (s : State) : (modSched sh g s).chans = s.chans := rfl
@[simp] theorem modSched_pens (sh : ShedIx) (g : Sched → Sched) (s : State) : (modSched sh g s).pens = s.pens := rfl
@[simp] theorem modSched_sec (sh : ShedIx) (g : Sched → Sched) (s : State) : (modSched sh g s).sec = s.sec := rfl
@[simp] theorem modSched_dmk (sh : ShedIx) (g : Sched → Sched) (s : State) : (modSched sh g s).dmk = s.dmk := rfl
@[simp] theorem modSched_ijn (sh : ShedIx) (g : Sched → Sched) (s : State) : (modSched sh g s).ijn = s.ijn := rfl
@[simp] theorem modSched_units (sh : ShedIx) (g : Sched → Sched) (s : State) : (modSched sh g s).units = s.units := rfl
@[simp] theorem modSched_loftErr (sh : ShedIx) (g : Sched → Sched) (s : State) : (modSched sh g s).loftErr = s.loftErr := rfl
@[simp] theorem modSched_loftMapped (sh : ShedIx) (g : Sched → Sched) (s : State) : (modSched sh g s).loftMapped = s.loftMapped := rfl
@[simp] theorem modSched_marginFails (sh : ShedIx) (g : Sched → Sched) (s : State) : (modSched sh g s).marginFails = s.marginFails := rfl
@[simp] theorem modSched_lanterns (sh : ShedIx) (g : Sched → Sched) (s : State) : (modSched sh g s).lanterns = s.lanterns := rfl
@[simp] theorem modSched_calib (sh : ShedIx) (g : Sched → Sched) (s : State) : (modSched sh g s).calib = s.calib := rfl
@[simp] theorem modSched_ports (sh : ShedIx) (g : Sched → Sched) (s : State) : (modSched sh g s).ports = s.ports := rfl
@[simp] theorem modSched_partners (sh : ShedIx) (g : Sched → Sched) (s : State) : (modSched sh g s).partners = s.partners := rfl
@[simp] theorem modSched_fns (sh : ShedIx) (g : Sched → Sched) (s : State) : (modSched sh g s).fns = s.fns := rfl
@[simp] theorem modSched_pcieA (sh : ShedIx) (g : Sched → Sched) (s : State) : (modSched sh g s).pcieA = s.pcieA := rfl
@[simp] theorem modSched_pcieB (sh : ShedIx) (g : Sched → Sched) (s : State) : (modSched sh g s).pcieB = s.pcieB := rfl
@[simp] theorem modSched_vfSize (sh : ShedIx) (g : Sched → Sched) (s : State) : (modSched sh g s).vfSize = s.vfSize := rfl
@[simp] theorem modSched_host (sh : ShedIx) (g : Sched → Sched) (s : State) : (modSched sh g s).host = s.host := rfl
@[simp] theorem modSched_pairs (sh : ShedIx) (g : Sched → Sched) (s : State) : (modSched sh g s).pairs = s.pairs := rfl
@[simp] theorem modSched_strangers (sh : ShedIx) (g : Sched → Sched) (s : State) : (modSched sh g s).strangers = s.strangers := rfl
@[simp] theorem modSched_routes (sh : ShedIx) (g : Sched → Sched) (s : State) : (modSched sh g s).routes = s.routes := rfl
@[simp] theorem modSched_udpPort (sh : ShedIx) (g : Sched → Sched) (s : State) : (modSched sh g s).udpPort = s.udpPort := rfl
@[simp] theorem modSched_near (sh : ShedIx) (g : Sched → Sched) (s : State) : (modSched sh g s).near = s.near := rfl
@[simp] theorem modSched_pool (sh : ShedIx) (g : Sched → Sched) (s : State) : (modSched sh g s).pool = s.pool := rfl
@[simp] theorem modSched_share (sh : ShedIx) (g : Sched → Sched) (s : State) : (modSched sh g s).share = s.share := rfl
@[simp] theorem modSched_work (sh : ShedIx) (g : Sched → Sched) (s : State) : (modSched sh g s).work = s.work := rfl
@[simp] theorem modSched_coh (sh : ShedIx) (g : Sched → Sched) (s : State) : (modSched sh g s).coh = s.coh := rfl
@[simp] theorem modSched_dma (sh : ShedIx) (g : Sched → Sched) (s : State) : (modSched sh g s).dma = s.dma := rfl
@[simp] theorem modSched_groups (sh : ShedIx) (g : Sched → Sched) (s : State) : (modSched sh g s).groups = s.groups := rfl

@[simp] theorem modPortQ_pending (p : PortIx) (g : PortQ → PortQ) (s : State) : (modPortQ p g s).pending = s.pending := rfl
@[simp] theorem modPortQ_fresh (p : PortIx) (g : PortQ → PortQ) (s : State) : (modPortQ p g s).fresh = s.fresh := rfl
@[simp] theorem modPortQ_out (p : PortIx) (g : PortQ → PortQ) (s : State) : (modPortQ p g s).out = s.out := rfl
@[simp] theorem modPortQ_kw (p : PortIx) (g : PortQ → PortQ) (s : State) : (modPortQ p g s).kw = s.kw := rfl
@[simp] theorem modPortQ_glb (p : PortIx) (g : PortQ → PortQ) (s : State) : (modPortQ p g s).glb = s.glb := rfl
@[simp] theorem modPortQ_isl (p : PortIx) (g : PortQ → PortQ) (s : State) : (modPortQ p g s).isl = s.isl := rfl
@[simp] theorem modPortQ_power (p : PortIx) (g : PortQ → PortQ) (s : State) : (modPortQ p g s).power = s.power := rfl
@[simp] theorem modPortQ_shd (p : PortIx) (g : PortQ → PortQ) (s : State) : (modPortQ p g s).shd = s.shd := rfl
@[simp] theorem modPortQ_inputs (p : PortIx) (g : PortQ → PortQ) (s : State) : (modPortQ p g s).inputs = s.inputs := rfl
@[simp] theorem modPortQ_nor (p : PortIx) (g : PortQ → PortQ) (s : State) : (modPortQ p g s).nor = s.nor := rfl
@[simp] theorem modPortQ_jnl (p : PortIx) (g : PortQ → PortQ) (s : State) : (modPortQ p g s).jnl = s.jnl := rfl
@[simp] theorem modPortQ_infEvt (p : PortIx) (g : PortQ → PortQ) (s : State) : (modPortQ p g s).infEvt = s.infEvt := rfl
@[simp] theorem modPortQ_fuses (p : PortIx) (g : PortQ → PortQ) (s : State) : (modPortQ p g s).fuses = s.fuses := rfl
@[simp] theorem modPortQ_kpr (p : PortIx) (g : PortQ → PortQ) (s : State) : (modPortQ p g s).kpr = s.kpr := rfl
@[simp] theorem modPortQ_chans (p : PortIx) (g : PortQ → PortQ) (s : State) : (modPortQ p g s).chans = s.chans := rfl
@[simp] theorem modPortQ_pens (p : PortIx) (g : PortQ → PortQ) (s : State) : (modPortQ p g s).pens = s.pens := rfl
@[simp] theorem modPortQ_sec (p : PortIx) (g : PortQ → PortQ) (s : State) : (modPortQ p g s).sec = s.sec := rfl
@[simp] theorem modPortQ_dmk (p : PortIx) (g : PortQ → PortQ) (s : State) : (modPortQ p g s).dmk = s.dmk := rfl
@[simp] theorem modPortQ_ijn (p : PortIx) (g : PortQ → PortQ) (s : State) : (modPortQ p g s).ijn = s.ijn := rfl
@[simp] theorem modPortQ_units (p : PortIx) (g : PortQ → PortQ) (s : State) : (modPortQ p g s).units = s.units := rfl
@[simp] theorem modPortQ_loftErr (p : PortIx) (g : PortQ → PortQ) (s : State) : (modPortQ p g s).loftErr = s.loftErr := rfl
@[simp] theorem modPortQ_loftMapped (p : PortIx) (g : PortQ → PortQ) (s : State) : (modPortQ p g s).loftMapped = s.loftMapped := rfl
@[simp] theorem modPortQ_marginFails (p : PortIx) (g : PortQ → PortQ) (s : State) : (modPortQ p g s).marginFails = s.marginFails := rfl
@[simp] theorem modPortQ_lanterns (p : PortIx) (g : PortQ → PortQ) (s : State) : (modPortQ p g s).lanterns = s.lanterns := rfl
@[simp] theorem modPortQ_calib (p : PortIx) (g : PortQ → PortQ) (s : State) : (modPortQ p g s).calib = s.calib := rfl
@[simp] theorem modPortQ_ports (p : PortIx) (g : PortQ → PortQ) (s : State) : (modPortQ p g s).ports = s.ports := rfl
@[simp] theorem modPortQ_partners (p : PortIx) (g : PortQ → PortQ) (s : State) : (modPortQ p g s).partners = s.partners := rfl
@[simp] theorem modPortQ_fns (p : PortIx) (g : PortQ → PortQ) (s : State) : (modPortQ p g s).fns = s.fns := rfl
@[simp] theorem modPortQ_pcieA (p : PortIx) (g : PortQ → PortQ) (s : State) : (modPortQ p g s).pcieA = s.pcieA := rfl
@[simp] theorem modPortQ_pcieB (p : PortIx) (g : PortQ → PortQ) (s : State) : (modPortQ p g s).pcieB = s.pcieB := rfl
@[simp] theorem modPortQ_vfSize (p : PortIx) (g : PortQ → PortQ) (s : State) : (modPortQ p g s).vfSize = s.vfSize := rfl
@[simp] theorem modPortQ_host (p : PortIx) (g : PortQ → PortQ) (s : State) : (modPortQ p g s).host = s.host := rfl
@[simp] theorem modPortQ_pairs (p : PortIx) (g : PortQ → PortQ) (s : State) : (modPortQ p g s).pairs = s.pairs := rfl
@[simp] theorem modPortQ_strangers (p : PortIx) (g : PortQ → PortQ) (s : State) : (modPortQ p g s).strangers = s.strangers := rfl
@[simp] theorem modPortQ_routes (p : PortIx) (g : PortQ → PortQ) (s : State) : (modPortQ p g s).routes = s.routes := rfl
@[simp] theorem modPortQ_udpPort (p : PortIx) (g : PortQ → PortQ) (s : State) : (modPortQ p g s).udpPort = s.udpPort := rfl
@[simp] theorem modPortQ_near (p : PortIx) (g : PortQ → PortQ) (s : State) : (modPortQ p g s).near = s.near := rfl
@[simp] theorem modPortQ_pool (p : PortIx) (g : PortQ → PortQ) (s : State) : (modPortQ p g s).pool = s.pool := rfl
@[simp] theorem modPortQ_share (p : PortIx) (g : PortQ → PortQ) (s : State) : (modPortQ p g s).share = s.share := rfl
@[simp] theorem modPortQ_work (p : PortIx) (g : PortQ → PortQ) (s : State) : (modPortQ p g s).work = s.work := rfl
@[simp] theorem modPortQ_coh (p : PortIx) (g : PortQ → PortQ) (s : State) : (modPortQ p g s).coh = s.coh := rfl
@[simp] theorem modPortQ_dma (p : PortIx) (g : PortQ → PortQ) (s : State) : (modPortQ p g s).dma = s.dma := rfl
@[simp] theorem modPortQ_groups (p : PortIx) (g : PortQ → PortQ) (s : State) : (modPortQ p g s).groups = s.groups := rfl

@[simp] theorem modHost_pending (k : HostKey) (g : Mem → Mem) (s : State) : (modHost k g s).pending = s.pending := rfl
@[simp] theorem modHost_fresh (k : HostKey) (g : Mem → Mem) (s : State) : (modHost k g s).fresh = s.fresh := rfl
@[simp] theorem modHost_out (k : HostKey) (g : Mem → Mem) (s : State) : (modHost k g s).out = s.out := rfl
@[simp] theorem modHost_kw (k : HostKey) (g : Mem → Mem) (s : State) : (modHost k g s).kw = s.kw := rfl
@[simp] theorem modHost_glb (k : HostKey) (g : Mem → Mem) (s : State) : (modHost k g s).glb = s.glb := rfl
@[simp] theorem modHost_isl (k : HostKey) (g : Mem → Mem) (s : State) : (modHost k g s).isl = s.isl := rfl
@[simp] theorem modHost_power (k : HostKey) (g : Mem → Mem) (s : State) : (modHost k g s).power = s.power := rfl
@[simp] theorem modHost_shd (k : HostKey) (g : Mem → Mem) (s : State) : (modHost k g s).shd = s.shd := rfl
@[simp] theorem modHost_inputs (k : HostKey) (g : Mem → Mem) (s : State) : (modHost k g s).inputs = s.inputs := rfl
@[simp] theorem modHost_nor (k : HostKey) (g : Mem → Mem) (s : State) : (modHost k g s).nor = s.nor := rfl
@[simp] theorem modHost_jnl (k : HostKey) (g : Mem → Mem) (s : State) : (modHost k g s).jnl = s.jnl := rfl
@[simp] theorem modHost_infEvt (k : HostKey) (g : Mem → Mem) (s : State) : (modHost k g s).infEvt = s.infEvt := rfl
@[simp] theorem modHost_fuses (k : HostKey) (g : Mem → Mem) (s : State) : (modHost k g s).fuses = s.fuses := rfl
@[simp] theorem modHost_kpr (k : HostKey) (g : Mem → Mem) (s : State) : (modHost k g s).kpr = s.kpr := rfl
@[simp] theorem modHost_chans (k : HostKey) (g : Mem → Mem) (s : State) : (modHost k g s).chans = s.chans := rfl
@[simp] theorem modHost_pens (k : HostKey) (g : Mem → Mem) (s : State) : (modHost k g s).pens = s.pens := rfl
@[simp] theorem modHost_sec (k : HostKey) (g : Mem → Mem) (s : State) : (modHost k g s).sec = s.sec := rfl
@[simp] theorem modHost_dmk (k : HostKey) (g : Mem → Mem) (s : State) : (modHost k g s).dmk = s.dmk := rfl
@[simp] theorem modHost_ijn (k : HostKey) (g : Mem → Mem) (s : State) : (modHost k g s).ijn = s.ijn := rfl
@[simp] theorem modHost_units (k : HostKey) (g : Mem → Mem) (s : State) : (modHost k g s).units = s.units := rfl
@[simp] theorem modHost_loftErr (k : HostKey) (g : Mem → Mem) (s : State) : (modHost k g s).loftErr = s.loftErr := rfl
@[simp] theorem modHost_loftMapped (k : HostKey) (g : Mem → Mem) (s : State) : (modHost k g s).loftMapped = s.loftMapped := rfl
@[simp] theorem modHost_marginFails (k : HostKey) (g : Mem → Mem) (s : State) : (modHost k g s).marginFails = s.marginFails := rfl
@[simp] theorem modHost_lanterns (k : HostKey) (g : Mem → Mem) (s : State) : (modHost k g s).lanterns = s.lanterns := rfl
@[simp] theorem modHost_calib (k : HostKey) (g : Mem → Mem) (s : State) : (modHost k g s).calib = s.calib := rfl
@[simp] theorem modHost_ports (k : HostKey) (g : Mem → Mem) (s : State) : (modHost k g s).ports = s.ports := rfl
@[simp] theorem modHost_partners (k : HostKey) (g : Mem → Mem) (s : State) : (modHost k g s).partners = s.partners := rfl
@[simp] theorem modHost_fns (k : HostKey) (g : Mem → Mem) (s : State) : (modHost k g s).fns = s.fns := rfl
@[simp] theorem modHost_pcieA (k : HostKey) (g : Mem → Mem) (s : State) : (modHost k g s).pcieA = s.pcieA := rfl
@[simp] theorem modHost_pcieB (k : HostKey) (g : Mem → Mem) (s : State) : (modHost k g s).pcieB = s.pcieB := rfl
@[simp] theorem modHost_vfSize (k : HostKey) (g : Mem → Mem) (s : State) : (modHost k g s).vfSize = s.vfSize := rfl
@[simp] theorem modHost_pairs (k : HostKey) (g : Mem → Mem) (s : State) : (modHost k g s).pairs = s.pairs := rfl
@[simp] theorem modHost_strangers (k : HostKey) (g : Mem → Mem) (s : State) : (modHost k g s).strangers = s.strangers := rfl
@[simp] theorem modHost_routes (k : HostKey) (g : Mem → Mem) (s : State) : (modHost k g s).routes = s.routes := rfl
@[simp] theorem modHost_sw (k : HostKey) (g : Mem → Mem) (s : State) : (modHost k g s).sw = s.sw := rfl
@[simp] theorem modHost_udpPort (k : HostKey) (g : Mem → Mem) (s : State) : (modHost k g s).udpPort = s.udpPort := rfl
@[simp] theorem modHost_near (k : HostKey) (g : Mem → Mem) (s : State) : (modHost k g s).near = s.near := rfl
@[simp] theorem modHost_pool (k : HostKey) (g : Mem → Mem) (s : State) : (modHost k g s).pool = s.pool := rfl
@[simp] theorem modHost_share (k : HostKey) (g : Mem → Mem) (s : State) : (modHost k g s).share = s.share := rfl
@[simp] theorem modHost_work (k : HostKey) (g : Mem → Mem) (s : State) : (modHost k g s).work = s.work := rfl
@[simp] theorem modHost_coh (k : HostKey) (g : Mem → Mem) (s : State) : (modHost k g s).coh = s.coh := rfl
@[simp] theorem modHost_dma (k : HostKey) (g : Mem → Mem) (s : State) : (modHost k g s).dma = s.dma := rfl
@[simp] theorem modHost_groups (k : HostKey) (g : Mem → Mem) (s : State) : (modHost k g s).groups = s.groups := rfl

@[simp] theorem modUnit_pending (sh : ShedIx) (k : UnitKind) (u : UnitIx) (g : Unit → Unit) (s : State) : (modUnit sh k u g s).pending = s.pending := rfl
@[simp] theorem modUnit_fresh (sh : ShedIx) (k : UnitKind) (u : UnitIx) (g : Unit → Unit) (s : State) : (modUnit sh k u g s).fresh = s.fresh := rfl
@[simp] theorem modUnit_out (sh : ShedIx) (k : UnitKind) (u : UnitIx) (g : Unit → Unit) (s : State) : (modUnit sh k u g s).out = s.out := rfl
@[simp] theorem modUnit_kw (sh : ShedIx) (k : UnitKind) (u : UnitIx) (g : Unit → Unit) (s : State) : (modUnit sh k u g s).kw = s.kw := rfl
@[simp] theorem modUnit_glb (sh : ShedIx) (k : UnitKind) (u : UnitIx) (g : Unit → Unit) (s : State) : (modUnit sh k u g s).glb = s.glb := rfl
@[simp] theorem modUnit_isl (sh : ShedIx) (k : UnitKind) (u : UnitIx) (g : Unit → Unit) (s : State) : (modUnit sh k u g s).isl = s.isl := rfl
@[simp] theorem modUnit_power (sh : ShedIx) (k : UnitKind) (u : UnitIx) (g : Unit → Unit) (s : State) : (modUnit sh k u g s).power = s.power := rfl
@[simp] theorem modUnit_shd (sh : ShedIx) (k : UnitKind) (u : UnitIx) (g : Unit → Unit) (s : State) : (modUnit sh k u g s).shd = s.shd := rfl
@[simp] theorem modUnit_inputs (sh : ShedIx) (k : UnitKind) (u : UnitIx) (g : Unit → Unit) (s : State) : (modUnit sh k u g s).inputs = s.inputs := rfl
@[simp] theorem modUnit_nor (sh : ShedIx) (k : UnitKind) (u : UnitIx) (g : Unit → Unit) (s : State) : (modUnit sh k u g s).nor = s.nor := rfl
@[simp] theorem modUnit_jnl (sh : ShedIx) (k : UnitKind) (u : UnitIx) (g : Unit → Unit) (s : State) : (modUnit sh k u g s).jnl = s.jnl := rfl
@[simp] theorem modUnit_infEvt (sh : ShedIx) (k : UnitKind) (u : UnitIx) (g : Unit → Unit) (s : State) : (modUnit sh k u g s).infEvt = s.infEvt := rfl
@[simp] theorem modUnit_fuses (sh : ShedIx) (k : UnitKind) (u : UnitIx) (g : Unit → Unit) (s : State) : (modUnit sh k u g s).fuses = s.fuses := rfl
@[simp] theorem modUnit_kpr (sh : ShedIx) (k : UnitKind) (u : UnitIx) (g : Unit → Unit) (s : State) : (modUnit sh k u g s).kpr = s.kpr := rfl
@[simp] theorem modUnit_chans (sh : ShedIx) (k : UnitKind) (u : UnitIx) (g : Unit → Unit) (s : State) : (modUnit sh k u g s).chans = s.chans := rfl
@[simp] theorem modUnit_pens (sh : ShedIx) (k : UnitKind) (u : UnitIx) (g : Unit → Unit) (s : State) : (modUnit sh k u g s).pens = s.pens := rfl
@[simp] theorem modUnit_sec (sh : ShedIx) (k : UnitKind) (u : UnitIx) (g : Unit → Unit) (s : State) : (modUnit sh k u g s).sec = s.sec := rfl
@[simp] theorem modUnit_dmk (sh : ShedIx) (k : UnitKind) (u : UnitIx) (g : Unit → Unit) (s : State) : (modUnit sh k u g s).dmk = s.dmk := rfl
@[simp] theorem modUnit_ijn (sh : ShedIx) (k : UnitKind) (u : UnitIx) (g : Unit → Unit) (s : State) : (modUnit sh k u g s).ijn = s.ijn := rfl
@[simp] theorem modUnit_loftErr (sh : ShedIx) (k : UnitKind) (u : UnitIx) (g : Unit → Unit) (s : State) : (modUnit sh k u g s).loftErr = s.loftErr := rfl
@[simp] theorem modUnit_loftMapped (sh : ShedIx) (k : UnitKind) (u : UnitIx) (g : Unit → Unit) (s : State) : (modUnit sh k u g s).loftMapped = s.loftMapped := rfl
@[simp] theorem modUnit_marginFails (sh : ShedIx) (k : UnitKind) (u : UnitIx) (g : Unit → Unit) (s : State) : (modUnit sh k u g s).marginFails = s.marginFails := rfl
@[simp] theorem modUnit_lanterns (sh : ShedIx) (k : UnitKind) (u : UnitIx) (g : Unit → Unit) (s : State) : (modUnit sh k u g s).lanterns = s.lanterns := rfl
@[simp] theorem modUnit_calib (sh : ShedIx) (k : UnitKind) (u : UnitIx) (g : Unit → Unit) (s : State) : (modUnit sh k u g s).calib = s.calib := rfl
@[simp] theorem modUnit_ports (sh : ShedIx) (k : UnitKind) (u : UnitIx) (g : Unit → Unit) (s : State) : (modUnit sh k u g s).ports = s.ports := rfl
@[simp] theorem modUnit_partners (sh : ShedIx) (k : UnitKind) (u : UnitIx) (g : Unit → Unit) (s : State) : (modUnit sh k u g s).partners = s.partners := rfl
@[simp] theorem modUnit_fns (sh : ShedIx) (k : UnitKind) (u : UnitIx) (g : Unit → Unit) (s : State) : (modUnit sh k u g s).fns = s.fns := rfl
@[simp] theorem modUnit_pcieA (sh : ShedIx) (k : UnitKind) (u : UnitIx) (g : Unit → Unit) (s : State) : (modUnit sh k u g s).pcieA = s.pcieA := rfl
@[simp] theorem modUnit_pcieB (sh : ShedIx) (k : UnitKind) (u : UnitIx) (g : Unit → Unit) (s : State) : (modUnit sh k u g s).pcieB = s.pcieB := rfl
@[simp] theorem modUnit_vfSize (sh : ShedIx) (k : UnitKind) (u : UnitIx) (g : Unit → Unit) (s : State) : (modUnit sh k u g s).vfSize = s.vfSize := rfl
@[simp] theorem modUnit_host (sh : ShedIx) (k : UnitKind) (u : UnitIx) (g : Unit → Unit) (s : State) : (modUnit sh k u g s).host = s.host := rfl
@[simp] theorem modUnit_pairs (sh : ShedIx) (k : UnitKind) (u : UnitIx) (g : Unit → Unit) (s : State) : (modUnit sh k u g s).pairs = s.pairs := rfl
@[simp] theorem modUnit_strangers (sh : ShedIx) (k : UnitKind) (u : UnitIx) (g : Unit → Unit) (s : State) : (modUnit sh k u g s).strangers = s.strangers := rfl
@[simp] theorem modUnit_routes (sh : ShedIx) (k : UnitKind) (u : UnitIx) (g : Unit → Unit) (s : State) : (modUnit sh k u g s).routes = s.routes := rfl
@[simp] theorem modUnit_sw (sh : ShedIx) (k : UnitKind) (u : UnitIx) (g : Unit → Unit) (s : State) : (modUnit sh k u g s).sw = s.sw := rfl
@[simp] theorem modUnit_udpPort (sh : ShedIx) (k : UnitKind) (u : UnitIx) (g : Unit → Unit) (s : State) : (modUnit sh k u g s).udpPort = s.udpPort := rfl
@[simp] theorem modUnit_near (sh : ShedIx) (k : UnitKind) (u : UnitIx) (g : Unit → Unit) (s : State) : (modUnit sh k u g s).near = s.near := rfl
@[simp] theorem modUnit_pool (sh : ShedIx) (k : UnitKind) (u : UnitIx) (g : Unit → Unit) (s : State) : (modUnit sh k u g s).pool = s.pool := rfl
@[simp] theorem modUnit_share (sh : ShedIx) (k : UnitKind) (u : UnitIx) (g : Unit → Unit) (s : State) : (modUnit sh k u g s).share = s.share := rfl
@[simp] theorem modUnit_work (sh : ShedIx) (k : UnitKind) (u : UnitIx) (g : Unit → Unit) (s : State) : (modUnit sh k u g s).work = s.work := rfl
@[simp] theorem modUnit_coh (sh : ShedIx) (k : UnitKind) (u : UnitIx) (g : Unit → Unit) (s : State) : (modUnit sh k u g s).coh = s.coh := rfl
@[simp] theorem modUnit_dma (sh : ShedIx) (k : UnitKind) (u : UnitIx) (g : Unit → Unit) (s : State) : (modUnit sh k u g s).dma = s.dma := rfl
@[simp] theorem modUnit_groups (sh : ShedIx) (k : UnitKind) (u : UnitIx) (g : Unit → Unit) (s : State) : (modUnit sh k u g s).groups = s.groups := rfl

@[simp] theorem modVoq_pending (sh : ShedIx) (v : Fin 4096) (g : Voq → Voq) (s : State) : (modVoq sh v g s).pending = s.pending := rfl
@[simp] theorem modVoq_fresh (sh : ShedIx) (v : Fin 4096) (g : Voq → Voq) (s : State) : (modVoq sh v g s).fresh = s.fresh := rfl
@[simp] theorem modVoq_out (sh : ShedIx) (v : Fin 4096) (g : Voq → Voq) (s : State) : (modVoq sh v g s).out = s.out := rfl
@[simp] theorem modVoq_kw (sh : ShedIx) (v : Fin 4096) (g : Voq → Voq) (s : State) : (modVoq sh v g s).kw = s.kw := rfl
@[simp] theorem modVoq_glb (sh : ShedIx) (v : Fin 4096) (g : Voq → Voq) (s : State) : (modVoq sh v g s).glb = s.glb := rfl
@[simp] theorem modVoq_isl (sh : ShedIx) (v : Fin 4096) (g : Voq → Voq) (s : State) : (modVoq sh v g s).isl = s.isl := rfl
@[simp] theorem modVoq_power (sh : ShedIx) (v : Fin 4096) (g : Voq → Voq) (s : State) : (modVoq sh v g s).power = s.power := rfl
@[simp] theorem modVoq_shd (sh : ShedIx) (v : Fin 4096) (g : Voq → Voq) (s : State) : (modVoq sh v g s).shd = s.shd := rfl
@[simp] theorem modVoq_inputs (sh : ShedIx) (v : Fin 4096) (g : Voq → Voq) (s : State) : (modVoq sh v g s).inputs = s.inputs := rfl
@[simp] theorem modVoq_nor (sh : ShedIx) (v : Fin 4096) (g : Voq → Voq) (s : State) : (modVoq sh v g s).nor = s.nor := rfl
@[simp] theorem modVoq_jnl (sh : ShedIx) (v : Fin 4096) (g : Voq → Voq) (s : State) : (modVoq sh v g s).jnl = s.jnl := rfl
@[simp] theorem modVoq_infEvt (sh : ShedIx) (v : Fin 4096) (g : Voq → Voq) (s : State) : (modVoq sh v g s).infEvt = s.infEvt := rfl
@[simp] theorem modVoq_fuses (sh : ShedIx) (v : Fin 4096) (g : Voq → Voq) (s : State) : (modVoq sh v g s).fuses = s.fuses := rfl
@[simp] theorem modVoq_kpr (sh : ShedIx) (v : Fin 4096) (g : Voq → Voq) (s : State) : (modVoq sh v g s).kpr = s.kpr := rfl
@[simp] theorem modVoq_chans (sh : ShedIx) (v : Fin 4096) (g : Voq → Voq) (s : State) : (modVoq sh v g s).chans = s.chans := rfl
@[simp] theorem modVoq_pens (sh : ShedIx) (v : Fin 4096) (g : Voq → Voq) (s : State) : (modVoq sh v g s).pens = s.pens := rfl
@[simp] theorem modVoq_sec (sh : ShedIx) (v : Fin 4096) (g : Voq → Voq) (s : State) : (modVoq sh v g s).sec = s.sec := rfl
@[simp] theorem modVoq_dmk (sh : ShedIx) (v : Fin 4096) (g : Voq → Voq) (s : State) : (modVoq sh v g s).dmk = s.dmk := rfl
@[simp] theorem modVoq_ijn (sh : ShedIx) (v : Fin 4096) (g : Voq → Voq) (s : State) : (modVoq sh v g s).ijn = s.ijn := rfl
@[simp] theorem modVoq_units (sh : ShedIx) (v : Fin 4096) (g : Voq → Voq) (s : State) : (modVoq sh v g s).units = s.units := rfl
@[simp] theorem modVoq_loftErr (sh : ShedIx) (v : Fin 4096) (g : Voq → Voq) (s : State) : (modVoq sh v g s).loftErr = s.loftErr := rfl
@[simp] theorem modVoq_loftMapped (sh : ShedIx) (v : Fin 4096) (g : Voq → Voq) (s : State) : (modVoq sh v g s).loftMapped = s.loftMapped := rfl
@[simp] theorem modVoq_marginFails (sh : ShedIx) (v : Fin 4096) (g : Voq → Voq) (s : State) : (modVoq sh v g s).marginFails = s.marginFails := rfl
@[simp] theorem modVoq_lanterns (sh : ShedIx) (v : Fin 4096) (g : Voq → Voq) (s : State) : (modVoq sh v g s).lanterns = s.lanterns := rfl
@[simp] theorem modVoq_calib (sh : ShedIx) (v : Fin 4096) (g : Voq → Voq) (s : State) : (modVoq sh v g s).calib = s.calib := rfl
@[simp] theorem modVoq_ports (sh : ShedIx) (v : Fin 4096) (g : Voq → Voq) (s : State) : (modVoq sh v g s).ports = s.ports := rfl
@[simp] theorem modVoq_partners (sh : ShedIx) (v : Fin 4096) (g : Voq → Voq) (s : State) : (modVoq sh v g s).partners = s.partners := rfl
@[simp] theorem modVoq_fns (sh : ShedIx) (v : Fin 4096) (g : Voq → Voq) (s : State) : (modVoq sh v g s).fns = s.fns := rfl
@[simp] theorem modVoq_pcieA (sh : ShedIx) (v : Fin 4096) (g : Voq → Voq) (s : State) : (modVoq sh v g s).pcieA = s.pcieA := rfl
@[simp] theorem modVoq_pcieB (sh : ShedIx) (v : Fin 4096) (g : Voq → Voq) (s : State) : (modVoq sh v g s).pcieB = s.pcieB := rfl
@[simp] theorem modVoq_vfSize (sh : ShedIx) (v : Fin 4096) (g : Voq → Voq) (s : State) : (modVoq sh v g s).vfSize = s.vfSize := rfl
@[simp] theorem modVoq_host (sh : ShedIx) (v : Fin 4096) (g : Voq → Voq) (s : State) : (modVoq sh v g s).host = s.host := rfl
@[simp] theorem modVoq_pairs (sh : ShedIx) (v : Fin 4096) (g : Voq → Voq) (s : State) : (modVoq sh v g s).pairs = s.pairs := rfl
@[simp] theorem modVoq_strangers (sh : ShedIx) (v : Fin 4096) (g : Voq → Voq) (s : State) : (modVoq sh v g s).strangers = s.strangers := rfl
@[simp] theorem modVoq_routes (sh : ShedIx) (v : Fin 4096) (g : Voq → Voq) (s : State) : (modVoq sh v g s).routes = s.routes := rfl
@[simp] theorem modVoq_udpPort (sh : ShedIx) (v : Fin 4096) (g : Voq → Voq) (s : State) : (modVoq sh v g s).udpPort = s.udpPort := rfl
@[simp] theorem modVoq_near (sh : ShedIx) (v : Fin 4096) (g : Voq → Voq) (s : State) : (modVoq sh v g s).near = s.near := rfl
@[simp] theorem modVoq_pool (sh : ShedIx) (v : Fin 4096) (g : Voq → Voq) (s : State) : (modVoq sh v g s).pool = s.pool := rfl
@[simp] theorem modVoq_share (sh : ShedIx) (v : Fin 4096) (g : Voq → Voq) (s : State) : (modVoq sh v g s).share = s.share := rfl
@[simp] theorem modVoq_work (sh : ShedIx) (v : Fin 4096) (g : Voq → Voq) (s : State) : (modVoq sh v g s).work = s.work := rfl
@[simp] theorem modVoq_coh (sh : ShedIx) (v : Fin 4096) (g : Voq → Voq) (s : State) : (modVoq sh v g s).coh = s.coh := rfl
@[simp] theorem modVoq_dma (sh : ShedIx) (v : Fin 4096) (g : Voq → Voq) (s : State) : (modVoq sh v g s).dma = s.dma := rfl
@[simp] theorem modVoq_groups (sh : ShedIx) (v : Fin 4096) (g : Voq → Voq) (s : State) : (modVoq sh v g s).groups = s.groups := rfl

@[simp] theorem modStk_pending (k : StackIx) (g : Stack → Stack) (s : State) : (modStk k g s).pending = s.pending := rfl
@[simp] theorem modStk_fresh (k : StackIx) (g : Stack → Stack) (s : State) : (modStk k g s).fresh = s.fresh := rfl
@[simp] theorem modStk_out (k : StackIx) (g : Stack → Stack) (s : State) : (modStk k g s).out = s.out := rfl
@[simp] theorem modStk_kw (k : StackIx) (g : Stack → Stack) (s : State) : (modStk k g s).kw = s.kw := rfl
@[simp] theorem modStk_glb (k : StackIx) (g : Stack → Stack) (s : State) : (modStk k g s).glb = s.glb := rfl
@[simp] theorem modStk_isl (k : StackIx) (g : Stack → Stack) (s : State) : (modStk k g s).isl = s.isl := rfl
@[simp] theorem modStk_power (k : StackIx) (g : Stack → Stack) (s : State) : (modStk k g s).power = s.power := rfl
@[simp] theorem modStk_shd (k : StackIx) (g : Stack → Stack) (s : State) : (modStk k g s).shd = s.shd := rfl
@[simp] theorem modStk_inputs (k : StackIx) (g : Stack → Stack) (s : State) : (modStk k g s).inputs = s.inputs := rfl
@[simp] theorem modStk_nor (k : StackIx) (g : Stack → Stack) (s : State) : (modStk k g s).nor = s.nor := rfl
@[simp] theorem modStk_jnl (k : StackIx) (g : Stack → Stack) (s : State) : (modStk k g s).jnl = s.jnl := rfl
@[simp] theorem modStk_infEvt (k : StackIx) (g : Stack → Stack) (s : State) : (modStk k g s).infEvt = s.infEvt := rfl
@[simp] theorem modStk_fuses (k : StackIx) (g : Stack → Stack) (s : State) : (modStk k g s).fuses = s.fuses := rfl
@[simp] theorem modStk_kpr (k : StackIx) (g : Stack → Stack) (s : State) : (modStk k g s).kpr = s.kpr := rfl
@[simp] theorem modStk_chans (k : StackIx) (g : Stack → Stack) (s : State) : (modStk k g s).chans = s.chans := rfl
@[simp] theorem modStk_pens (k : StackIx) (g : Stack → Stack) (s : State) : (modStk k g s).pens = s.pens := rfl
@[simp] theorem modStk_sec (k : StackIx) (g : Stack → Stack) (s : State) : (modStk k g s).sec = s.sec := rfl
@[simp] theorem modStk_dmk (k : StackIx) (g : Stack → Stack) (s : State) : (modStk k g s).dmk = s.dmk := rfl
@[simp] theorem modStk_ijn (k : StackIx) (g : Stack → Stack) (s : State) : (modStk k g s).ijn = s.ijn := rfl
@[simp] theorem modStk_units (k : StackIx) (g : Stack → Stack) (s : State) : (modStk k g s).units = s.units := rfl
@[simp] theorem modStk_loftErr (k : StackIx) (g : Stack → Stack) (s : State) : (modStk k g s).loftErr = s.loftErr := rfl
@[simp] theorem modStk_loftMapped (k : StackIx) (g : Stack → Stack) (s : State) : (modStk k g s).loftMapped = s.loftMapped := rfl
@[simp] theorem modStk_marginFails (k : StackIx) (g : Stack → Stack) (s : State) : (modStk k g s).marginFails = s.marginFails := rfl
@[simp] theorem modStk_lanterns (k : StackIx) (g : Stack → Stack) (s : State) : (modStk k g s).lanterns = s.lanterns := rfl
@[simp] theorem modStk_calib (k : StackIx) (g : Stack → Stack) (s : State) : (modStk k g s).calib = s.calib := rfl
@[simp] theorem modStk_ports (k : StackIx) (g : Stack → Stack) (s : State) : (modStk k g s).ports = s.ports := rfl
@[simp] theorem modStk_partners (k : StackIx) (g : Stack → Stack) (s : State) : (modStk k g s).partners = s.partners := rfl
@[simp] theorem modStk_fns (k : StackIx) (g : Stack → Stack) (s : State) : (modStk k g s).fns = s.fns := rfl
@[simp] theorem modStk_pcieA (k : StackIx) (g : Stack → Stack) (s : State) : (modStk k g s).pcieA = s.pcieA := rfl
@[simp] theorem modStk_pcieB (k : StackIx) (g : Stack → Stack) (s : State) : (modStk k g s).pcieB = s.pcieB := rfl
@[simp] theorem modStk_vfSize (k : StackIx) (g : Stack → Stack) (s : State) : (modStk k g s).vfSize = s.vfSize := rfl
@[simp] theorem modStk_host (k : StackIx) (g : Stack → Stack) (s : State) : (modStk k g s).host = s.host := rfl
@[simp] theorem modStk_pairs (k : StackIx) (g : Stack → Stack) (s : State) : (modStk k g s).pairs = s.pairs := rfl
@[simp] theorem modStk_strangers (k : StackIx) (g : Stack → Stack) (s : State) : (modStk k g s).strangers = s.strangers := rfl
@[simp] theorem modStk_routes (k : StackIx) (g : Stack → Stack) (s : State) : (modStk k g s).routes = s.routes := rfl
@[simp] theorem modStk_sw (k : StackIx) (g : Stack → Stack) (s : State) : (modStk k g s).sw = s.sw := rfl
@[simp] theorem modStk_udpPort (k : StackIx) (g : Stack → Stack) (s : State) : (modStk k g s).udpPort = s.udpPort := rfl
@[simp] theorem modStk_pool (k : StackIx) (g : Stack → Stack) (s : State) : (modStk k g s).pool = s.pool := rfl
@[simp] theorem modStk_share (k : StackIx) (g : Stack → Stack) (s : State) : (modStk k g s).share = s.share := rfl
@[simp] theorem modStk_work (k : StackIx) (g : Stack → Stack) (s : State) : (modStk k g s).work = s.work := rfl
@[simp] theorem modStk_coh (k : StackIx) (g : Stack → Stack) (s : State) : (modStk k g s).coh = s.coh := rfl
@[simp] theorem modStk_dma (k : StackIx) (g : Stack → Stack) (s : State) : (modStk k g s).dma = s.dma := rfl
@[simp] theorem modStk_groups (k : StackIx) (g : Stack → Stack) (s : State) : (modStk k g s).groups = s.groups := rfl

@[simp] theorem modYard_pending (y : YardRef) (g : Yard → Yard) (s : State) : (modYard y g s).pending = s.pending := rfl
@[simp] theorem modYard_fresh (y : YardRef) (g : Yard → Yard) (s : State) : (modYard y g s).fresh = s.fresh := rfl
@[simp] theorem modYard_out (y : YardRef) (g : Yard → Yard) (s : State) : (modYard y g s).out = s.out := rfl
@[simp] theorem modYard_kw (y : YardRef) (g : Yard → Yard) (s : State) : (modYard y g s).kw = s.kw := rfl
@[simp] theorem modYard_glb (y : YardRef) (g : Yard → Yard) (s : State) : (modYard y g s).glb = s.glb := rfl
@[simp] theorem modYard_isl (y : YardRef) (g : Yard → Yard) (s : State) : (modYard y g s).isl = s.isl := rfl
@[simp] theorem modYard_power (y : YardRef) (g : Yard → Yard) (s : State) : (modYard y g s).power = s.power := rfl
@[simp] theorem modYard_shd (y : YardRef) (g : Yard → Yard) (s : State) : (modYard y g s).shd = s.shd := rfl
@[simp] theorem modYard_inputs (y : YardRef) (g : Yard → Yard) (s : State) : (modYard y g s).inputs = s.inputs := rfl
@[simp] theorem modYard_nor (y : YardRef) (g : Yard → Yard) (s : State) : (modYard y g s).nor = s.nor := rfl
@[simp] theorem modYard_jnl (y : YardRef) (g : Yard → Yard) (s : State) : (modYard y g s).jnl = s.jnl := rfl
@[simp] theorem modYard_infEvt (y : YardRef) (g : Yard → Yard) (s : State) : (modYard y g s).infEvt = s.infEvt := rfl
@[simp] theorem modYard_fuses (y : YardRef) (g : Yard → Yard) (s : State) : (modYard y g s).fuses = s.fuses := rfl
@[simp] theorem modYard_kpr (y : YardRef) (g : Yard → Yard) (s : State) : (modYard y g s).kpr = s.kpr := rfl
@[simp] theorem modYard_chans (y : YardRef) (g : Yard → Yard) (s : State) : (modYard y g s).chans = s.chans := rfl
@[simp] theorem modYard_pens (y : YardRef) (g : Yard → Yard) (s : State) : (modYard y g s).pens = s.pens := rfl
@[simp] theorem modYard_sec (y : YardRef) (g : Yard → Yard) (s : State) : (modYard y g s).sec = s.sec := rfl
@[simp] theorem modYard_dmk (y : YardRef) (g : Yard → Yard) (s : State) : (modYard y g s).dmk = s.dmk := rfl
@[simp] theorem modYard_ijn (y : YardRef) (g : Yard → Yard) (s : State) : (modYard y g s).ijn = s.ijn := rfl
@[simp] theorem modYard_units (y : YardRef) (g : Yard → Yard) (s : State) : (modYard y g s).units = s.units := rfl
@[simp] theorem modYard_loftErr (y : YardRef) (g : Yard → Yard) (s : State) : (modYard y g s).loftErr = s.loftErr := rfl
@[simp] theorem modYard_loftMapped (y : YardRef) (g : Yard → Yard) (s : State) : (modYard y g s).loftMapped = s.loftMapped := rfl
@[simp] theorem modYard_marginFails (y : YardRef) (g : Yard → Yard) (s : State) : (modYard y g s).marginFails = s.marginFails := rfl
@[simp] theorem modYard_lanterns (y : YardRef) (g : Yard → Yard) (s : State) : (modYard y g s).lanterns = s.lanterns := rfl
@[simp] theorem modYard_calib (y : YardRef) (g : Yard → Yard) (s : State) : (modYard y g s).calib = s.calib := rfl
@[simp] theorem modYard_ports (y : YardRef) (g : Yard → Yard) (s : State) : (modYard y g s).ports = s.ports := rfl
@[simp] theorem modYard_partners (y : YardRef) (g : Yard → Yard) (s : State) : (modYard y g s).partners = s.partners := rfl
@[simp] theorem modYard_fns (y : YardRef) (g : Yard → Yard) (s : State) : (modYard y g s).fns = s.fns := rfl
@[simp] theorem modYard_pcieA (y : YardRef) (g : Yard → Yard) (s : State) : (modYard y g s).pcieA = s.pcieA := rfl
@[simp] theorem modYard_pcieB (y : YardRef) (g : Yard → Yard) (s : State) : (modYard y g s).pcieB = s.pcieB := rfl
@[simp] theorem modYard_vfSize (y : YardRef) (g : Yard → Yard) (s : State) : (modYard y g s).vfSize = s.vfSize := rfl
@[simp] theorem modYard_host (y : YardRef) (g : Yard → Yard) (s : State) : (modYard y g s).host = s.host := rfl
@[simp] theorem modYard_pairs (y : YardRef) (g : Yard → Yard) (s : State) : (modYard y g s).pairs = s.pairs := rfl
@[simp] theorem modYard_strangers (y : YardRef) (g : Yard → Yard) (s : State) : (modYard y g s).strangers = s.strangers := rfl
@[simp] theorem modYard_routes (y : YardRef) (g : Yard → Yard) (s : State) : (modYard y g s).routes = s.routes := rfl
@[simp] theorem modYard_sw (y : YardRef) (g : Yard → Yard) (s : State) : (modYard y g s).sw = s.sw := rfl
@[simp] theorem modYard_udpPort (y : YardRef) (g : Yard → Yard) (s : State) : (modYard y g s).udpPort = s.udpPort := rfl
@[simp] theorem modYard_near (y : YardRef) (g : Yard → Yard) (s : State) : (modYard y g s).near = s.near := rfl
@[simp] theorem modYard_pool (y : YardRef) (g : Yard → Yard) (s : State) : (modYard y g s).pool = s.pool := rfl
@[simp] theorem modYard_share (y : YardRef) (g : Yard → Yard) (s : State) : (modYard y g s).share = s.share := rfl
@[simp] theorem modYard_coh (y : YardRef) (g : Yard → Yard) (s : State) : (modYard y g s).coh = s.coh := rfl
@[simp] theorem modYard_dma (y : YardRef) (g : Yard → Yard) (s : State) : (modYard y g s).dma = s.dma := rfl
@[simp] theorem modYard_groups (y : YardRef) (g : Yard → Yard) (s : State) : (modYard y g s).groups = s.groups := rfl

@[simp] theorem retireInsn_pending (y : YardRef) (s : State) : (retireInsn y s).pending = s.pending := rfl
@[simp] theorem retireInsn_fresh (y : YardRef) (s : State) : (retireInsn y s).fresh = s.fresh := rfl
@[simp] theorem retireInsn_out (y : YardRef) (s : State) : (retireInsn y s).out = s.out := rfl
@[simp] theorem retireInsn_kw (y : YardRef) (s : State) : (retireInsn y s).kw = s.kw := rfl
@[simp] theorem retireInsn_glb (y : YardRef) (s : State) : (retireInsn y s).glb = s.glb := rfl
@[simp] theorem retireInsn_isl (y : YardRef) (s : State) : (retireInsn y s).isl = s.isl := rfl
@[simp] theorem retireInsn_power (y : YardRef) (s : State) : (retireInsn y s).power = s.power := rfl
@[simp] theorem retireInsn_shd (y : YardRef) (s : State) : (retireInsn y s).shd = s.shd := rfl
@[simp] theorem retireInsn_inputs (y : YardRef) (s : State) : (retireInsn y s).inputs = s.inputs := rfl
@[simp] theorem retireInsn_nor (y : YardRef) (s : State) : (retireInsn y s).nor = s.nor := rfl
@[simp] theorem retireInsn_jnl (y : YardRef) (s : State) : (retireInsn y s).jnl = s.jnl := rfl
@[simp] theorem retireInsn_infEvt (y : YardRef) (s : State) : (retireInsn y s).infEvt = s.infEvt := rfl
@[simp] theorem retireInsn_fuses (y : YardRef) (s : State) : (retireInsn y s).fuses = s.fuses := rfl
@[simp] theorem retireInsn_kpr (y : YardRef) (s : State) : (retireInsn y s).kpr = s.kpr := rfl
@[simp] theorem retireInsn_chans (y : YardRef) (s : State) : (retireInsn y s).chans = s.chans := rfl
@[simp] theorem retireInsn_pens (y : YardRef) (s : State) : (retireInsn y s).pens = s.pens := rfl
@[simp] theorem retireInsn_sec (y : YardRef) (s : State) : (retireInsn y s).sec = s.sec := rfl
@[simp] theorem retireInsn_dmk (y : YardRef) (s : State) : (retireInsn y s).dmk = s.dmk := rfl
@[simp] theorem retireInsn_ijn (y : YardRef) (s : State) : (retireInsn y s).ijn = s.ijn := rfl
@[simp] theorem retireInsn_loftErr (y : YardRef) (s : State) : (retireInsn y s).loftErr = s.loftErr := rfl
@[simp] theorem retireInsn_loftMapped (y : YardRef) (s : State) : (retireInsn y s).loftMapped = s.loftMapped := rfl
@[simp] theorem retireInsn_marginFails (y : YardRef) (s : State) : (retireInsn y s).marginFails = s.marginFails := rfl
@[simp] theorem retireInsn_lanterns (y : YardRef) (s : State) : (retireInsn y s).lanterns = s.lanterns := rfl
@[simp] theorem retireInsn_calib (y : YardRef) (s : State) : (retireInsn y s).calib = s.calib := rfl
@[simp] theorem retireInsn_ports (y : YardRef) (s : State) : (retireInsn y s).ports = s.ports := rfl
@[simp] theorem retireInsn_partners (y : YardRef) (s : State) : (retireInsn y s).partners = s.partners := rfl
@[simp] theorem retireInsn_fns (y : YardRef) (s : State) : (retireInsn y s).fns = s.fns := rfl
@[simp] theorem retireInsn_pcieA (y : YardRef) (s : State) : (retireInsn y s).pcieA = s.pcieA := rfl
@[simp] theorem retireInsn_pcieB (y : YardRef) (s : State) : (retireInsn y s).pcieB = s.pcieB := rfl
@[simp] theorem retireInsn_vfSize (y : YardRef) (s : State) : (retireInsn y s).vfSize = s.vfSize := rfl
@[simp] theorem retireInsn_host (y : YardRef) (s : State) : (retireInsn y s).host = s.host := rfl
@[simp] theorem retireInsn_pairs (y : YardRef) (s : State) : (retireInsn y s).pairs = s.pairs := rfl
@[simp] theorem retireInsn_strangers (y : YardRef) (s : State) : (retireInsn y s).strangers = s.strangers := rfl
@[simp] theorem retireInsn_routes (y : YardRef) (s : State) : (retireInsn y s).routes = s.routes := rfl
@[simp] theorem retireInsn_sw (y : YardRef) (s : State) : (retireInsn y s).sw = s.sw := rfl
@[simp] theorem retireInsn_udpPort (y : YardRef) (s : State) : (retireInsn y s).udpPort = s.udpPort := rfl
@[simp] theorem retireInsn_near (y : YardRef) (s : State) : (retireInsn y s).near = s.near := rfl
@[simp] theorem retireInsn_pool (y : YardRef) (s : State) : (retireInsn y s).pool = s.pool := rfl
@[simp] theorem retireInsn_share (y : YardRef) (s : State) : (retireInsn y s).share = s.share := rfl
@[simp] theorem retireInsn_work (y : YardRef) (s : State) : (retireInsn y s).work = s.work := rfl
@[simp] theorem retireInsn_coh (y : YardRef) (s : State) : (retireInsn y s).coh = s.coh := rfl
@[simp] theorem retireInsn_dma (y : YardRef) (s : State) : (retireInsn y s).dma = s.dma := rfl
@[simp] theorem retireInsn_groups (y : YardRef) (s : State) : (retireInsn y s).groups = s.groups := rfl

@[simp] theorem modPair_pending (n : Node) (g : Pair → Pair) (s : State) : (modPair n g s).pending = s.pending := rfl
@[simp] theorem modPair_fresh (n : Node) (g : Pair → Pair) (s : State) : (modPair n g s).fresh = s.fresh := rfl
@[simp] theorem modPair_out (n : Node) (g : Pair → Pair) (s : State) : (modPair n g s).out = s.out := rfl
@[simp] theorem modPair_kw (n : Node) (g : Pair → Pair) (s : State) : (modPair n g s).kw = s.kw := rfl
@[simp] theorem modPair_glb (n : Node) (g : Pair → Pair) (s : State) : (modPair n g s).glb = s.glb := rfl
@[simp] theorem modPair_isl (n : Node) (g : Pair → Pair) (s : State) : (modPair n g s).isl = s.isl := rfl
@[simp] theorem modPair_power (n : Node) (g : Pair → Pair) (s : State) : (modPair n g s).power = s.power := rfl
@[simp] theorem modPair_shd (n : Node) (g : Pair → Pair) (s : State) : (modPair n g s).shd = s.shd := rfl
@[simp] theorem modPair_inputs (n : Node) (g : Pair → Pair) (s : State) : (modPair n g s).inputs = s.inputs := rfl
@[simp] theorem modPair_nor (n : Node) (g : Pair → Pair) (s : State) : (modPair n g s).nor = s.nor := rfl
@[simp] theorem modPair_jnl (n : Node) (g : Pair → Pair) (s : State) : (modPair n g s).jnl = s.jnl := rfl
@[simp] theorem modPair_infEvt (n : Node) (g : Pair → Pair) (s : State) : (modPair n g s).infEvt = s.infEvt := rfl
@[simp] theorem modPair_fuses (n : Node) (g : Pair → Pair) (s : State) : (modPair n g s).fuses = s.fuses := rfl
@[simp] theorem modPair_kpr (n : Node) (g : Pair → Pair) (s : State) : (modPair n g s).kpr = s.kpr := rfl
@[simp] theorem modPair_chans (n : Node) (g : Pair → Pair) (s : State) : (modPair n g s).chans = s.chans := rfl
@[simp] theorem modPair_pens (n : Node) (g : Pair → Pair) (s : State) : (modPair n g s).pens = s.pens := rfl
@[simp] theorem modPair_sec (n : Node) (g : Pair → Pair) (s : State) : (modPair n g s).sec = s.sec := rfl
@[simp] theorem modPair_dmk (n : Node) (g : Pair → Pair) (s : State) : (modPair n g s).dmk = s.dmk := rfl
@[simp] theorem modPair_ijn (n : Node) (g : Pair → Pair) (s : State) : (modPair n g s).ijn = s.ijn := rfl
@[simp] theorem modPair_units (n : Node) (g : Pair → Pair) (s : State) : (modPair n g s).units = s.units := rfl
@[simp] theorem modPair_loftErr (n : Node) (g : Pair → Pair) (s : State) : (modPair n g s).loftErr = s.loftErr := rfl
@[simp] theorem modPair_loftMapped (n : Node) (g : Pair → Pair) (s : State) : (modPair n g s).loftMapped = s.loftMapped := rfl
@[simp] theorem modPair_marginFails (n : Node) (g : Pair → Pair) (s : State) : (modPair n g s).marginFails = s.marginFails := rfl
@[simp] theorem modPair_lanterns (n : Node) (g : Pair → Pair) (s : State) : (modPair n g s).lanterns = s.lanterns := rfl
@[simp] theorem modPair_calib (n : Node) (g : Pair → Pair) (s : State) : (modPair n g s).calib = s.calib := rfl
@[simp] theorem modPair_ports (n : Node) (g : Pair → Pair) (s : State) : (modPair n g s).ports = s.ports := rfl
@[simp] theorem modPair_partners (n : Node) (g : Pair → Pair) (s : State) : (modPair n g s).partners = s.partners := rfl
@[simp] theorem modPair_fns (n : Node) (g : Pair → Pair) (s : State) : (modPair n g s).fns = s.fns := rfl
@[simp] theorem modPair_pcieA (n : Node) (g : Pair → Pair) (s : State) : (modPair n g s).pcieA = s.pcieA := rfl
@[simp] theorem modPair_pcieB (n : Node) (g : Pair → Pair) (s : State) : (modPair n g s).pcieB = s.pcieB := rfl
@[simp] theorem modPair_vfSize (n : Node) (g : Pair → Pair) (s : State) : (modPair n g s).vfSize = s.vfSize := rfl
@[simp] theorem modPair_host (n : Node) (g : Pair → Pair) (s : State) : (modPair n g s).host = s.host := rfl
@[simp] theorem modPair_strangers (n : Node) (g : Pair → Pair) (s : State) : (modPair n g s).strangers = s.strangers := rfl
@[simp] theorem modPair_routes (n : Node) (g : Pair → Pair) (s : State) : (modPair n g s).routes = s.routes := rfl
@[simp] theorem modPair_sw (n : Node) (g : Pair → Pair) (s : State) : (modPair n g s).sw = s.sw := rfl
@[simp] theorem modPair_udpPort (n : Node) (g : Pair → Pair) (s : State) : (modPair n g s).udpPort = s.udpPort := rfl
@[simp] theorem modPair_near (n : Node) (g : Pair → Pair) (s : State) : (modPair n g s).near = s.near := rfl
@[simp] theorem modPair_pool (n : Node) (g : Pair → Pair) (s : State) : (modPair n g s).pool = s.pool := rfl
@[simp] theorem modPair_share (n : Node) (g : Pair → Pair) (s : State) : (modPair n g s).share = s.share := rfl
@[simp] theorem modPair_work (n : Node) (g : Pair → Pair) (s : State) : (modPair n g s).work = s.work := rfl
@[simp] theorem modPair_coh (n : Node) (g : Pair → Pair) (s : State) : (modPair n g s).coh = s.coh := rfl
@[simp] theorem modPair_dma (n : Node) (g : Pair → Pair) (s : State) : (modPair n g s).dma = s.dma := rfl
@[simp] theorem modPair_groups (n : Node) (g : Pair → Pair) (s : State) : (modPair n g s).groups = s.groups := rfl

@[simp] theorem emit_pending (o : Out) (s : State) : (emit o s).pending = s.pending := rfl
@[simp] theorem emit_fresh (o : Out) (s : State) : (emit o s).fresh = s.fresh := rfl
@[simp] theorem emit_kw (o : Out) (s : State) : (emit o s).kw = s.kw := rfl
@[simp] theorem emit_glb (o : Out) (s : State) : (emit o s).glb = s.glb := rfl
@[simp] theorem emit_isl (o : Out) (s : State) : (emit o s).isl = s.isl := rfl
@[simp] theorem emit_power (o : Out) (s : State) : (emit o s).power = s.power := rfl
@[simp] theorem emit_shd (o : Out) (s : State) : (emit o s).shd = s.shd := rfl
@[simp] theorem emit_inputs (o : Out) (s : State) : (emit o s).inputs = s.inputs := rfl
@[simp] theorem emit_nor (o : Out) (s : State) : (emit o s).nor = s.nor := rfl
@[simp] theorem emit_jnl (o : Out) (s : State) : (emit o s).jnl = s.jnl := rfl
@[simp] theorem emit_infEvt (o : Out) (s : State) : (emit o s).infEvt = s.infEvt := rfl
@[simp] theorem emit_fuses (o : Out) (s : State) : (emit o s).fuses = s.fuses := rfl
@[simp] theorem emit_kpr (o : Out) (s : State) : (emit o s).kpr = s.kpr := rfl
@[simp] theorem emit_chans (o : Out) (s : State) : (emit o s).chans = s.chans := rfl
@[simp] theorem emit_pens (o : Out) (s : State) : (emit o s).pens = s.pens := rfl
@[simp] theorem emit_sec (o : Out) (s : State) : (emit o s).sec = s.sec := rfl
@[simp] theorem emit_dmk (o : Out) (s : State) : (emit o s).dmk = s.dmk := rfl
@[simp] theorem emit_ijn (o : Out) (s : State) : (emit o s).ijn = s.ijn := rfl
@[simp] theorem emit_units (o : Out) (s : State) : (emit o s).units = s.units := rfl
@[simp] theorem emit_loftErr (o : Out) (s : State) : (emit o s).loftErr = s.loftErr := rfl
@[simp] theorem emit_loftMapped (o : Out) (s : State) : (emit o s).loftMapped = s.loftMapped := rfl
@[simp] theorem emit_marginFails (o : Out) (s : State) : (emit o s).marginFails = s.marginFails := rfl
@[simp] theorem emit_lanterns (o : Out) (s : State) : (emit o s).lanterns = s.lanterns := rfl
@[simp] theorem emit_calib (o : Out) (s : State) : (emit o s).calib = s.calib := rfl
@[simp] theorem emit_ports (o : Out) (s : State) : (emit o s).ports = s.ports := rfl
@[simp] theorem emit_partners (o : Out) (s : State) : (emit o s).partners = s.partners := rfl
@[simp] theorem emit_fns (o : Out) (s : State) : (emit o s).fns = s.fns := rfl
@[simp] theorem emit_pcieA (o : Out) (s : State) : (emit o s).pcieA = s.pcieA := rfl
@[simp] theorem emit_pcieB (o : Out) (s : State) : (emit o s).pcieB = s.pcieB := rfl
@[simp] theorem emit_vfSize (o : Out) (s : State) : (emit o s).vfSize = s.vfSize := rfl
@[simp] theorem emit_host (o : Out) (s : State) : (emit o s).host = s.host := rfl
@[simp] theorem emit_pairs (o : Out) (s : State) : (emit o s).pairs = s.pairs := rfl
@[simp] theorem emit_strangers (o : Out) (s : State) : (emit o s).strangers = s.strangers := rfl
@[simp] theorem emit_routes (o : Out) (s : State) : (emit o s).routes = s.routes := rfl
@[simp] theorem emit_sw (o : Out) (s : State) : (emit o s).sw = s.sw := rfl
@[simp] theorem emit_udpPort (o : Out) (s : State) : (emit o s).udpPort = s.udpPort := rfl
@[simp] theorem emit_near (o : Out) (s : State) : (emit o s).near = s.near := rfl
@[simp] theorem emit_pool (o : Out) (s : State) : (emit o s).pool = s.pool := rfl
@[simp] theorem emit_share (o : Out) (s : State) : (emit o s).share = s.share := rfl
@[simp] theorem emit_work (o : Out) (s : State) : (emit o s).work = s.work := rfl
@[simp] theorem emit_coh (o : Out) (s : State) : (emit o s).coh = s.coh := rfl
@[simp] theorem emit_dma (o : Out) (s : State) : (emit o s).dma = s.dma := rfl
@[simp] theorem emit_groups (o : Out) (s : State) : (emit o s).groups = s.groups := rfl

@[simp] theorem dmkEvent_pending (e : DmkEvent) (s : State) : (dmkEvent e s).pending = s.pending := rfl
@[simp] theorem dmkEvent_fresh (e : DmkEvent) (s : State) : (dmkEvent e s).fresh = s.fresh := rfl
@[simp] theorem dmkEvent_out (e : DmkEvent) (s : State) : (dmkEvent e s).out = s.out := rfl
@[simp] theorem dmkEvent_kw (e : DmkEvent) (s : State) : (dmkEvent e s).kw = s.kw := rfl
@[simp] theorem dmkEvent_glb (e : DmkEvent) (s : State) : (dmkEvent e s).glb = s.glb := rfl
@[simp] theorem dmkEvent_isl (e : DmkEvent) (s : State) : (dmkEvent e s).isl = s.isl := rfl
@[simp] theorem dmkEvent_power (e : DmkEvent) (s : State) : (dmkEvent e s).power = s.power := rfl
@[simp] theorem dmkEvent_shd (e : DmkEvent) (s : State) : (dmkEvent e s).shd = s.shd := rfl
@[simp] theorem dmkEvent_inputs (e : DmkEvent) (s : State) : (dmkEvent e s).inputs = s.inputs := rfl
@[simp] theorem dmkEvent_nor (e : DmkEvent) (s : State) : (dmkEvent e s).nor = s.nor := rfl
@[simp] theorem dmkEvent_jnl (e : DmkEvent) (s : State) : (dmkEvent e s).jnl = s.jnl := rfl
@[simp] theorem dmkEvent_infEvt (e : DmkEvent) (s : State) : (dmkEvent e s).infEvt = s.infEvt := rfl
@[simp] theorem dmkEvent_fuses (e : DmkEvent) (s : State) : (dmkEvent e s).fuses = s.fuses := rfl
@[simp] theorem dmkEvent_kpr (e : DmkEvent) (s : State) : (dmkEvent e s).kpr = s.kpr := rfl
@[simp] theorem dmkEvent_chans (e : DmkEvent) (s : State) : (dmkEvent e s).chans = s.chans := rfl
@[simp] theorem dmkEvent_pens (e : DmkEvent) (s : State) : (dmkEvent e s).pens = s.pens := rfl
@[simp] theorem dmkEvent_sec (e : DmkEvent) (s : State) : (dmkEvent e s).sec = s.sec := rfl
@[simp] theorem dmkEvent_ijn (e : DmkEvent) (s : State) : (dmkEvent e s).ijn = s.ijn := rfl
@[simp] theorem dmkEvent_units (e : DmkEvent) (s : State) : (dmkEvent e s).units = s.units := rfl
@[simp] theorem dmkEvent_loftErr (e : DmkEvent) (s : State) : (dmkEvent e s).loftErr = s.loftErr := rfl
@[simp] theorem dmkEvent_loftMapped (e : DmkEvent) (s : State) : (dmkEvent e s).loftMapped = s.loftMapped := rfl
@[simp] theorem dmkEvent_marginFails (e : DmkEvent) (s : State) : (dmkEvent e s).marginFails = s.marginFails := rfl
@[simp] theorem dmkEvent_lanterns (e : DmkEvent) (s : State) : (dmkEvent e s).lanterns = s.lanterns := rfl
@[simp] theorem dmkEvent_calib (e : DmkEvent) (s : State) : (dmkEvent e s).calib = s.calib := rfl
@[simp] theorem dmkEvent_ports (e : DmkEvent) (s : State) : (dmkEvent e s).ports = s.ports := rfl
@[simp] theorem dmkEvent_partners (e : DmkEvent) (s : State) : (dmkEvent e s).partners = s.partners := rfl
@[simp] theorem dmkEvent_fns (e : DmkEvent) (s : State) : (dmkEvent e s).fns = s.fns := rfl
@[simp] theorem dmkEvent_pcieA (e : DmkEvent) (s : State) : (dmkEvent e s).pcieA = s.pcieA := rfl
@[simp] theorem dmkEvent_pcieB (e : DmkEvent) (s : State) : (dmkEvent e s).pcieB = s.pcieB := rfl
@[simp] theorem dmkEvent_vfSize (e : DmkEvent) (s : State) : (dmkEvent e s).vfSize = s.vfSize := rfl
@[simp] theorem dmkEvent_host (e : DmkEvent) (s : State) : (dmkEvent e s).host = s.host := rfl
@[simp] theorem dmkEvent_pairs (e : DmkEvent) (s : State) : (dmkEvent e s).pairs = s.pairs := rfl
@[simp] theorem dmkEvent_strangers (e : DmkEvent) (s : State) : (dmkEvent e s).strangers = s.strangers := rfl
@[simp] theorem dmkEvent_routes (e : DmkEvent) (s : State) : (dmkEvent e s).routes = s.routes := rfl
@[simp] theorem dmkEvent_sw (e : DmkEvent) (s : State) : (dmkEvent e s).sw = s.sw := rfl
@[simp] theorem dmkEvent_udpPort (e : DmkEvent) (s : State) : (dmkEvent e s).udpPort = s.udpPort := rfl
@[simp] theorem dmkEvent_near (e : DmkEvent) (s : State) : (dmkEvent e s).near = s.near := rfl
@[simp] theorem dmkEvent_pool (e : DmkEvent) (s : State) : (dmkEvent e s).pool = s.pool := rfl
@[simp] theorem dmkEvent_share (e : DmkEvent) (s : State) : (dmkEvent e s).share = s.share := rfl
@[simp] theorem dmkEvent_work (e : DmkEvent) (s : State) : (dmkEvent e s).work = s.work := rfl
@[simp] theorem dmkEvent_coh (e : DmkEvent) (s : State) : (dmkEvent e s).coh = s.coh := rfl
@[simp] theorem dmkEvent_dma (e : DmkEvent) (s : State) : (dmkEvent e s).dma = s.dma := rfl
@[simp] theorem dmkEvent_groups (e : DmkEvent) (s : State) : (dmkEvent e s).groups = s.groups := rfl

@[simp] theorem coded_pending (c : Nat) (i : IslandIx) (s : State) : (coded c i s).pending = s.pending := rfl
@[simp] theorem coded_fresh (c : Nat) (i : IslandIx) (s : State) : (coded c i s).fresh = s.fresh := rfl
@[simp] theorem coded_out (c : Nat) (i : IslandIx) (s : State) : (coded c i s).out = s.out := rfl
@[simp] theorem coded_kw (c : Nat) (i : IslandIx) (s : State) : (coded c i s).kw = s.kw := rfl
@[simp] theorem coded_glb (c : Nat) (i : IslandIx) (s : State) : (coded c i s).glb = s.glb := rfl
@[simp] theorem coded_isl (c : Nat) (i : IslandIx) (s : State) : (coded c i s).isl = s.isl := rfl
@[simp] theorem coded_power (c : Nat) (i : IslandIx) (s : State) : (coded c i s).power = s.power := rfl
@[simp] theorem coded_shd (c : Nat) (i : IslandIx) (s : State) : (coded c i s).shd = s.shd := rfl
@[simp] theorem coded_inputs (c : Nat) (i : IslandIx) (s : State) : (coded c i s).inputs = s.inputs := rfl
@[simp] theorem coded_nor (c : Nat) (i : IslandIx) (s : State) : (coded c i s).nor = s.nor := rfl
@[simp] theorem coded_jnl (c : Nat) (i : IslandIx) (s : State) : (coded c i s).jnl = s.jnl := rfl
@[simp] theorem coded_infEvt (c : Nat) (i : IslandIx) (s : State) : (coded c i s).infEvt = s.infEvt := rfl
@[simp] theorem coded_fuses (c : Nat) (i : IslandIx) (s : State) : (coded c i s).fuses = s.fuses := rfl
@[simp] theorem coded_kpr (c : Nat) (i : IslandIx) (s : State) : (coded c i s).kpr = s.kpr := rfl
@[simp] theorem coded_chans (c : Nat) (i : IslandIx) (s : State) : (coded c i s).chans = s.chans := rfl
@[simp] theorem coded_pens (c : Nat) (i : IslandIx) (s : State) : (coded c i s).pens = s.pens := rfl
@[simp] theorem coded_sec (c : Nat) (i : IslandIx) (s : State) : (coded c i s).sec = s.sec := rfl
@[simp] theorem coded_ijn (c : Nat) (i : IslandIx) (s : State) : (coded c i s).ijn = s.ijn := rfl
@[simp] theorem coded_units (c : Nat) (i : IslandIx) (s : State) : (coded c i s).units = s.units := rfl
@[simp] theorem coded_loftErr (c : Nat) (i : IslandIx) (s : State) : (coded c i s).loftErr = s.loftErr := rfl
@[simp] theorem coded_loftMapped (c : Nat) (i : IslandIx) (s : State) : (coded c i s).loftMapped = s.loftMapped := rfl
@[simp] theorem coded_marginFails (c : Nat) (i : IslandIx) (s : State) : (coded c i s).marginFails = s.marginFails := rfl
@[simp] theorem coded_lanterns (c : Nat) (i : IslandIx) (s : State) : (coded c i s).lanterns = s.lanterns := rfl
@[simp] theorem coded_calib (c : Nat) (i : IslandIx) (s : State) : (coded c i s).calib = s.calib := rfl
@[simp] theorem coded_ports (c : Nat) (i : IslandIx) (s : State) : (coded c i s).ports = s.ports := rfl
@[simp] theorem coded_partners (c : Nat) (i : IslandIx) (s : State) : (coded c i s).partners = s.partners := rfl
@[simp] theorem coded_fns (c : Nat) (i : IslandIx) (s : State) : (coded c i s).fns = s.fns := rfl
@[simp] theorem coded_pcieA (c : Nat) (i : IslandIx) (s : State) : (coded c i s).pcieA = s.pcieA := rfl
@[simp] theorem coded_pcieB (c : Nat) (i : IslandIx) (s : State) : (coded c i s).pcieB = s.pcieB := rfl
@[simp] theorem coded_vfSize (c : Nat) (i : IslandIx) (s : State) : (coded c i s).vfSize = s.vfSize := rfl
@[simp] theorem coded_host (c : Nat) (i : IslandIx) (s : State) : (coded c i s).host = s.host := rfl
@[simp] theorem coded_pairs (c : Nat) (i : IslandIx) (s : State) : (coded c i s).pairs = s.pairs := rfl
@[simp] theorem coded_strangers (c : Nat) (i : IslandIx) (s : State) : (coded c i s).strangers = s.strangers := rfl
@[simp] theorem coded_routes (c : Nat) (i : IslandIx) (s : State) : (coded c i s).routes = s.routes := rfl
@[simp] theorem coded_sw (c : Nat) (i : IslandIx) (s : State) : (coded c i s).sw = s.sw := rfl
@[simp] theorem coded_udpPort (c : Nat) (i : IslandIx) (s : State) : (coded c i s).udpPort = s.udpPort := rfl
@[simp] theorem coded_near (c : Nat) (i : IslandIx) (s : State) : (coded c i s).near = s.near := rfl
@[simp] theorem coded_pool (c : Nat) (i : IslandIx) (s : State) : (coded c i s).pool = s.pool := rfl
@[simp] theorem coded_share (c : Nat) (i : IslandIx) (s : State) : (coded c i s).share = s.share := rfl
@[simp] theorem coded_work (c : Nat) (i : IslandIx) (s : State) : (coded c i s).work = s.work := rfl
@[simp] theorem coded_coh (c : Nat) (i : IslandIx) (s : State) : (coded c i s).coh = s.coh := rfl
@[simp] theorem coded_dma (c : Nat) (i : IslandIx) (s : State) : (coded c i s).dma = s.dma := rfl
@[simp] theorem coded_groups (c : Nat) (i : IslandIx) (s : State) : (coded c i s).groups = s.groups := rfl

@[simp] theorem codedD_pending (c : Nat) (i : IslandIx) (p n b a : Nat) (s : State) : (codedD c i p n b a s).pending = s.pending := rfl
@[simp] theorem codedD_fresh (c : Nat) (i : IslandIx) (p n b a : Nat) (s : State) : (codedD c i p n b a s).fresh = s.fresh := rfl
@[simp] theorem codedD_out (c : Nat) (i : IslandIx) (p n b a : Nat) (s : State) : (codedD c i p n b a s).out = s.out := rfl
@[simp] theorem codedD_kw (c : Nat) (i : IslandIx) (p n b a : Nat) (s : State) : (codedD c i p n b a s).kw = s.kw := rfl
@[simp] theorem codedD_glb (c : Nat) (i : IslandIx) (p n b a : Nat) (s : State) : (codedD c i p n b a s).glb = s.glb := rfl
@[simp] theorem codedD_isl (c : Nat) (i : IslandIx) (p n b a : Nat) (s : State) : (codedD c i p n b a s).isl = s.isl := rfl
@[simp] theorem codedD_power (c : Nat) (i : IslandIx) (p n b a : Nat) (s : State) : (codedD c i p n b a s).power = s.power := rfl
@[simp] theorem codedD_shd (c : Nat) (i : IslandIx) (p n b a : Nat) (s : State) : (codedD c i p n b a s).shd = s.shd := rfl
@[simp] theorem codedD_inputs (c : Nat) (i : IslandIx) (p n b a : Nat) (s : State) : (codedD c i p n b a s).inputs = s.inputs := rfl
@[simp] theorem codedD_nor (c : Nat) (i : IslandIx) (p n b a : Nat) (s : State) : (codedD c i p n b a s).nor = s.nor := rfl
@[simp] theorem codedD_jnl (c : Nat) (i : IslandIx) (p n b a : Nat) (s : State) : (codedD c i p n b a s).jnl = s.jnl := rfl
@[simp] theorem codedD_infEvt (c : Nat) (i : IslandIx) (p n b a : Nat) (s : State) : (codedD c i p n b a s).infEvt = s.infEvt := rfl
@[simp] theorem codedD_fuses (c : Nat) (i : IslandIx) (p n b a : Nat) (s : State) : (codedD c i p n b a s).fuses = s.fuses := rfl
@[simp] theorem codedD_kpr (c : Nat) (i : IslandIx) (p n b a : Nat) (s : State) : (codedD c i p n b a s).kpr = s.kpr := rfl
@[simp] theorem codedD_chans (c : Nat) (i : IslandIx) (p n b a : Nat) (s : State) : (codedD c i p n b a s).chans = s.chans := rfl
@[simp] theorem codedD_pens (c : Nat) (i : IslandIx) (p n b a : Nat) (s : State) : (codedD c i p n b a s).pens = s.pens := rfl
@[simp] theorem codedD_sec (c : Nat) (i : IslandIx) (p n b a : Nat) (s : State) : (codedD c i p n b a s).sec = s.sec := rfl
@[simp] theorem codedD_ijn (c : Nat) (i : IslandIx) (p n b a : Nat) (s : State) : (codedD c i p n b a s).ijn = s.ijn := rfl
@[simp] theorem codedD_units (c : Nat) (i : IslandIx) (p n b a : Nat) (s : State) : (codedD c i p n b a s).units = s.units := rfl
@[simp] theorem codedD_loftErr (c : Nat) (i : IslandIx) (p n b a : Nat) (s : State) : (codedD c i p n b a s).loftErr = s.loftErr := rfl
@[simp] theorem codedD_loftMapped (c : Nat) (i : IslandIx) (p n b a : Nat) (s : State) : (codedD c i p n b a s).loftMapped = s.loftMapped := rfl
@[simp] theorem codedD_marginFails (c : Nat) (i : IslandIx) (p n b a : Nat) (s : State) : (codedD c i p n b a s).marginFails = s.marginFails := rfl
@[simp] theorem codedD_lanterns (c : Nat) (i : IslandIx) (p n b a : Nat) (s : State) : (codedD c i p n b a s).lanterns = s.lanterns := rfl
@[simp] theorem codedD_calib (c : Nat) (i : IslandIx) (p n b a : Nat) (s : State) : (codedD c i p n b a s).calib = s.calib := rfl
@[simp] theorem codedD_ports (c : Nat) (i : IslandIx) (p n b a : Nat) (s : State) : (codedD c i p n b a s).ports = s.ports := rfl
@[simp] theorem codedD_partners (c : Nat) (i : IslandIx) (p n b a : Nat) (s : State) : (codedD c i p n b a s).partners = s.partners := rfl
@[simp] theorem codedD_fns (c : Nat) (i : IslandIx) (p n b a : Nat) (s : State) : (codedD c i p n b a s).fns = s.fns := rfl
@[simp] theorem codedD_pcieA (c : Nat) (i : IslandIx) (p n b a : Nat) (s : State) : (codedD c i p n b a s).pcieA = s.pcieA := rfl
@[simp] theorem codedD_pcieB (c : Nat) (i : IslandIx) (p n b a : Nat) (s : State) : (codedD c i p n b a s).pcieB = s.pcieB := rfl
@[simp] theorem codedD_vfSize (c : Nat) (i : IslandIx) (p n b a : Nat) (s : State) : (codedD c i p n b a s).vfSize = s.vfSize := rfl
@[simp] theorem codedD_host (c : Nat) (i : IslandIx) (p n b a : Nat) (s : State) : (codedD c i p n b a s).host = s.host := rfl
@[simp] theorem codedD_pairs (c : Nat) (i : IslandIx) (p n b a : Nat) (s : State) : (codedD c i p n b a s).pairs = s.pairs := rfl
@[simp] theorem codedD_strangers (c : Nat) (i : IslandIx) (p n b a : Nat) (s : State) : (codedD c i p n b a s).strangers = s.strangers := rfl
@[simp] theorem codedD_routes (c : Nat) (i : IslandIx) (p n b a : Nat) (s : State) : (codedD c i p n b a s).routes = s.routes := rfl
@[simp] theorem codedD_sw (c : Nat) (i : IslandIx) (p n b a : Nat) (s : State) : (codedD c i p n b a s).sw = s.sw := rfl
@[simp] theorem codedD_udpPort (c : Nat) (i : IslandIx) (p n b a : Nat) (s : State) : (codedD c i p n b a s).udpPort = s.udpPort := rfl
@[simp] theorem codedD_near (c : Nat) (i : IslandIx) (p n b a : Nat) (s : State) : (codedD c i p n b a s).near = s.near := rfl
@[simp] theorem codedD_pool (c : Nat) (i : IslandIx) (p n b a : Nat) (s : State) : (codedD c i p n b a s).pool = s.pool := rfl
@[simp] theorem codedD_share (c : Nat) (i : IslandIx) (p n b a : Nat) (s : State) : (codedD c i p n b a s).share = s.share := rfl
@[simp] theorem codedD_work (c : Nat) (i : IslandIx) (p n b a : Nat) (s : State) : (codedD c i p n b a s).work = s.work := rfl
@[simp] theorem codedD_coh (c : Nat) (i : IslandIx) (p n b a : Nat) (s : State) : (codedD c i p n b a s).coh = s.coh := rfl
@[simp] theorem codedD_dma (c : Nat) (i : IslandIx) (p n b a : Nat) (s : State) : (codedD c i p n b a s).dma = s.dma := rfl
@[simp] theorem codedD_groups (c : Nat) (i : IslandIx) (p n b a : Nat) (s : State) : (codedD c i p n b a s).groups = s.groups := rfl

@[simp] theorem evtBitD_pending (a b : Nat) (i : IslandIx) (p n c d : Nat) (s : State) : (evtBitD a b i p n c d s).pending = s.pending := rfl
@[simp] theorem evtBitD_fresh (a b : Nat) (i : IslandIx) (p n c d : Nat) (s : State) : (evtBitD a b i p n c d s).fresh = s.fresh := rfl
@[simp] theorem evtBitD_out (a b : Nat) (i : IslandIx) (p n c d : Nat) (s : State) : (evtBitD a b i p n c d s).out = s.out := rfl
@[simp] theorem evtBitD_kw (a b : Nat) (i : IslandIx) (p n c d : Nat) (s : State) : (evtBitD a b i p n c d s).kw = s.kw := rfl
@[simp] theorem evtBitD_glb (a b : Nat) (i : IslandIx) (p n c d : Nat) (s : State) : (evtBitD a b i p n c d s).glb = s.glb := rfl
@[simp] theorem evtBitD_isl (a b : Nat) (i : IslandIx) (p n c d : Nat) (s : State) : (evtBitD a b i p n c d s).isl = s.isl := rfl
@[simp] theorem evtBitD_power (a b : Nat) (i : IslandIx) (p n c d : Nat) (s : State) : (evtBitD a b i p n c d s).power = s.power := rfl
@[simp] theorem evtBitD_shd (a b : Nat) (i : IslandIx) (p n c d : Nat) (s : State) : (evtBitD a b i p n c d s).shd = s.shd := rfl
@[simp] theorem evtBitD_inputs (a b : Nat) (i : IslandIx) (p n c d : Nat) (s : State) : (evtBitD a b i p n c d s).inputs = s.inputs := rfl
@[simp] theorem evtBitD_nor (a b : Nat) (i : IslandIx) (p n c d : Nat) (s : State) : (evtBitD a b i p n c d s).nor = s.nor := rfl
@[simp] theorem evtBitD_jnl (a b : Nat) (i : IslandIx) (p n c d : Nat) (s : State) : (evtBitD a b i p n c d s).jnl = s.jnl := rfl
@[simp] theorem evtBitD_infEvt (a b : Nat) (i : IslandIx) (p n c d : Nat) (s : State) : (evtBitD a b i p n c d s).infEvt = s.infEvt := rfl
@[simp] theorem evtBitD_fuses (a b : Nat) (i : IslandIx) (p n c d : Nat) (s : State) : (evtBitD a b i p n c d s).fuses = s.fuses := rfl
@[simp] theorem evtBitD_kpr (a b : Nat) (i : IslandIx) (p n c d : Nat) (s : State) : (evtBitD a b i p n c d s).kpr = s.kpr := rfl
@[simp] theorem evtBitD_chans (a b : Nat) (i : IslandIx) (p n c d : Nat) (s : State) : (evtBitD a b i p n c d s).chans = s.chans := rfl
@[simp] theorem evtBitD_pens (a b : Nat) (i : IslandIx) (p n c d : Nat) (s : State) : (evtBitD a b i p n c d s).pens = s.pens := rfl
@[simp] theorem evtBitD_sec (a b : Nat) (i : IslandIx) (p n c d : Nat) (s : State) : (evtBitD a b i p n c d s).sec = s.sec := rfl
@[simp] theorem evtBitD_ijn (a b : Nat) (i : IslandIx) (p n c d : Nat) (s : State) : (evtBitD a b i p n c d s).ijn = s.ijn := rfl
@[simp] theorem evtBitD_units (a b : Nat) (i : IslandIx) (p n c d : Nat) (s : State) : (evtBitD a b i p n c d s).units = s.units := rfl
@[simp] theorem evtBitD_loftErr (a b : Nat) (i : IslandIx) (p n c d : Nat) (s : State) : (evtBitD a b i p n c d s).loftErr = s.loftErr := rfl
@[simp] theorem evtBitD_loftMapped (a b : Nat) (i : IslandIx) (p n c d : Nat) (s : State) : (evtBitD a b i p n c d s).loftMapped = s.loftMapped := rfl
@[simp] theorem evtBitD_marginFails (a b : Nat) (i : IslandIx) (p n c d : Nat) (s : State) : (evtBitD a b i p n c d s).marginFails = s.marginFails := rfl
@[simp] theorem evtBitD_lanterns (a b : Nat) (i : IslandIx) (p n c d : Nat) (s : State) : (evtBitD a b i p n c d s).lanterns = s.lanterns := rfl
@[simp] theorem evtBitD_calib (a b : Nat) (i : IslandIx) (p n c d : Nat) (s : State) : (evtBitD a b i p n c d s).calib = s.calib := rfl
@[simp] theorem evtBitD_ports (a b : Nat) (i : IslandIx) (p n c d : Nat) (s : State) : (evtBitD a b i p n c d s).ports = s.ports := rfl
@[simp] theorem evtBitD_partners (a b : Nat) (i : IslandIx) (p n c d : Nat) (s : State) : (evtBitD a b i p n c d s).partners = s.partners := rfl
@[simp] theorem evtBitD_fns (a b : Nat) (i : IslandIx) (p n c d : Nat) (s : State) : (evtBitD a b i p n c d s).fns = s.fns := rfl
@[simp] theorem evtBitD_pcieA (a b : Nat) (i : IslandIx) (p n c d : Nat) (s : State) : (evtBitD a b i p n c d s).pcieA = s.pcieA := rfl
@[simp] theorem evtBitD_pcieB (a b : Nat) (i : IslandIx) (p n c d : Nat) (s : State) : (evtBitD a b i p n c d s).pcieB = s.pcieB := rfl
@[simp] theorem evtBitD_vfSize (a b : Nat) (i : IslandIx) (p n c d : Nat) (s : State) : (evtBitD a b i p n c d s).vfSize = s.vfSize := rfl
@[simp] theorem evtBitD_host (a b : Nat) (i : IslandIx) (p n c d : Nat) (s : State) : (evtBitD a b i p n c d s).host = s.host := rfl
@[simp] theorem evtBitD_pairs (a b : Nat) (i : IslandIx) (p n c d : Nat) (s : State) : (evtBitD a b i p n c d s).pairs = s.pairs := rfl
@[simp] theorem evtBitD_strangers (a b : Nat) (i : IslandIx) (p n c d : Nat) (s : State) : (evtBitD a b i p n c d s).strangers = s.strangers := rfl
@[simp] theorem evtBitD_routes (a b : Nat) (i : IslandIx) (p n c d : Nat) (s : State) : (evtBitD a b i p n c d s).routes = s.routes := rfl
@[simp] theorem evtBitD_sw (a b : Nat) (i : IslandIx) (p n c d : Nat) (s : State) : (evtBitD a b i p n c d s).sw = s.sw := rfl
@[simp] theorem evtBitD_udpPort (a b : Nat) (i : IslandIx) (p n c d : Nat) (s : State) : (evtBitD a b i p n c d s).udpPort = s.udpPort := rfl
@[simp] theorem evtBitD_near (a b : Nat) (i : IslandIx) (p n c d : Nat) (s : State) : (evtBitD a b i p n c d s).near = s.near := rfl
@[simp] theorem evtBitD_pool (a b : Nat) (i : IslandIx) (p n c d : Nat) (s : State) : (evtBitD a b i p n c d s).pool = s.pool := rfl
@[simp] theorem evtBitD_share (a b : Nat) (i : IslandIx) (p n c d : Nat) (s : State) : (evtBitD a b i p n c d s).share = s.share := rfl
@[simp] theorem evtBitD_work (a b : Nat) (i : IslandIx) (p n c d : Nat) (s : State) : (evtBitD a b i p n c d s).work = s.work := rfl
@[simp] theorem evtBitD_coh (a b : Nat) (i : IslandIx) (p n c d : Nat) (s : State) : (evtBitD a b i p n c d s).coh = s.coh := rfl
@[simp] theorem evtBitD_dma (a b : Nat) (i : IslandIx) (p n c d : Nat) (s : State) : (evtBitD a b i p n c d s).dma = s.dma := rfl
@[simp] theorem evtBitD_groups (a b : Nat) (i : IslandIx) (p n c d : Nat) (s : State) : (evtBitD a b i p n c d s).groups = s.groups := rfl

@[simp] theorem evtBit_pending (a b : Nat) (i : IslandIx) (s : State) : (evtBit a b i s).pending = s.pending := rfl
@[simp] theorem evtBit_fresh (a b : Nat) (i : IslandIx) (s : State) : (evtBit a b i s).fresh = s.fresh := rfl
@[simp] theorem evtBit_out (a b : Nat) (i : IslandIx) (s : State) : (evtBit a b i s).out = s.out := rfl
@[simp] theorem evtBit_kw (a b : Nat) (i : IslandIx) (s : State) : (evtBit a b i s).kw = s.kw := rfl
@[simp] theorem evtBit_glb (a b : Nat) (i : IslandIx) (s : State) : (evtBit a b i s).glb = s.glb := rfl
@[simp] theorem evtBit_isl (a b : Nat) (i : IslandIx) (s : State) : (evtBit a b i s).isl = s.isl := rfl
@[simp] theorem evtBit_power (a b : Nat) (i : IslandIx) (s : State) : (evtBit a b i s).power = s.power := rfl
@[simp] theorem evtBit_shd (a b : Nat) (i : IslandIx) (s : State) : (evtBit a b i s).shd = s.shd := rfl
@[simp] theorem evtBit_inputs (a b : Nat) (i : IslandIx) (s : State) : (evtBit a b i s).inputs = s.inputs := rfl
@[simp] theorem evtBit_nor (a b : Nat) (i : IslandIx) (s : State) : (evtBit a b i s).nor = s.nor := rfl
@[simp] theorem evtBit_jnl (a b : Nat) (i : IslandIx) (s : State) : (evtBit a b i s).jnl = s.jnl := rfl
@[simp] theorem evtBit_infEvt (a b : Nat) (i : IslandIx) (s : State) : (evtBit a b i s).infEvt = s.infEvt := rfl
@[simp] theorem evtBit_fuses (a b : Nat) (i : IslandIx) (s : State) : (evtBit a b i s).fuses = s.fuses := rfl
@[simp] theorem evtBit_kpr (a b : Nat) (i : IslandIx) (s : State) : (evtBit a b i s).kpr = s.kpr := rfl
@[simp] theorem evtBit_chans (a b : Nat) (i : IslandIx) (s : State) : (evtBit a b i s).chans = s.chans := rfl
@[simp] theorem evtBit_pens (a b : Nat) (i : IslandIx) (s : State) : (evtBit a b i s).pens = s.pens := rfl
@[simp] theorem evtBit_sec (a b : Nat) (i : IslandIx) (s : State) : (evtBit a b i s).sec = s.sec := rfl
@[simp] theorem evtBit_ijn (a b : Nat) (i : IslandIx) (s : State) : (evtBit a b i s).ijn = s.ijn := rfl
@[simp] theorem evtBit_units (a b : Nat) (i : IslandIx) (s : State) : (evtBit a b i s).units = s.units := rfl
@[simp] theorem evtBit_loftErr (a b : Nat) (i : IslandIx) (s : State) : (evtBit a b i s).loftErr = s.loftErr := rfl
@[simp] theorem evtBit_loftMapped (a b : Nat) (i : IslandIx) (s : State) : (evtBit a b i s).loftMapped = s.loftMapped := rfl
@[simp] theorem evtBit_marginFails (a b : Nat) (i : IslandIx) (s : State) : (evtBit a b i s).marginFails = s.marginFails := rfl
@[simp] theorem evtBit_lanterns (a b : Nat) (i : IslandIx) (s : State) : (evtBit a b i s).lanterns = s.lanterns := rfl
@[simp] theorem evtBit_calib (a b : Nat) (i : IslandIx) (s : State) : (evtBit a b i s).calib = s.calib := rfl
@[simp] theorem evtBit_ports (a b : Nat) (i : IslandIx) (s : State) : (evtBit a b i s).ports = s.ports := rfl
@[simp] theorem evtBit_partners (a b : Nat) (i : IslandIx) (s : State) : (evtBit a b i s).partners = s.partners := rfl
@[simp] theorem evtBit_fns (a b : Nat) (i : IslandIx) (s : State) : (evtBit a b i s).fns = s.fns := rfl
@[simp] theorem evtBit_pcieA (a b : Nat) (i : IslandIx) (s : State) : (evtBit a b i s).pcieA = s.pcieA := rfl
@[simp] theorem evtBit_pcieB (a b : Nat) (i : IslandIx) (s : State) : (evtBit a b i s).pcieB = s.pcieB := rfl
@[simp] theorem evtBit_vfSize (a b : Nat) (i : IslandIx) (s : State) : (evtBit a b i s).vfSize = s.vfSize := rfl
@[simp] theorem evtBit_host (a b : Nat) (i : IslandIx) (s : State) : (evtBit a b i s).host = s.host := rfl
@[simp] theorem evtBit_pairs (a b : Nat) (i : IslandIx) (s : State) : (evtBit a b i s).pairs = s.pairs := rfl
@[simp] theorem evtBit_strangers (a b : Nat) (i : IslandIx) (s : State) : (evtBit a b i s).strangers = s.strangers := rfl
@[simp] theorem evtBit_routes (a b : Nat) (i : IslandIx) (s : State) : (evtBit a b i s).routes = s.routes := rfl
@[simp] theorem evtBit_sw (a b : Nat) (i : IslandIx) (s : State) : (evtBit a b i s).sw = s.sw := rfl
@[simp] theorem evtBit_udpPort (a b : Nat) (i : IslandIx) (s : State) : (evtBit a b i s).udpPort = s.udpPort := rfl
@[simp] theorem evtBit_near (a b : Nat) (i : IslandIx) (s : State) : (evtBit a b i s).near = s.near := rfl
@[simp] theorem evtBit_pool (a b : Nat) (i : IslandIx) (s : State) : (evtBit a b i s).pool = s.pool := rfl
@[simp] theorem evtBit_share (a b : Nat) (i : IslandIx) (s : State) : (evtBit a b i s).share = s.share := rfl
@[simp] theorem evtBit_work (a b : Nat) (i : IslandIx) (s : State) : (evtBit a b i s).work = s.work := rfl
@[simp] theorem evtBit_coh (a b : Nat) (i : IslandIx) (s : State) : (evtBit a b i s).coh = s.coh := rfl
@[simp] theorem evtBit_dma (a b : Nat) (i : IslandIx) (s : State) : (evtBit a b i s).dma = s.dma := rfl
@[simp] theorem evtBit_groups (a b : Nat) (i : IslandIx) (s : State) : (evtBit a b i s).groups = s.groups := rfl

@[simp] theorem ijnAppend_pending (k c n : Nat) (b : List Byte) (s : State) : (ijnAppend k c n b s).pending = s.pending := rfl
@[simp] theorem ijnAppend_out (k c n : Nat) (b : List Byte) (s : State) : (ijnAppend k c n b s).out = s.out := rfl
@[simp] theorem ijnAppend_kw (k c n : Nat) (b : List Byte) (s : State) : (ijnAppend k c n b s).kw = s.kw := rfl
@[simp] theorem ijnAppend_glb (k c n : Nat) (b : List Byte) (s : State) : (ijnAppend k c n b s).glb = s.glb := rfl
@[simp] theorem ijnAppend_isl (k c n : Nat) (b : List Byte) (s : State) : (ijnAppend k c n b s).isl = s.isl := rfl
@[simp] theorem ijnAppend_power (k c n : Nat) (b : List Byte) (s : State) : (ijnAppend k c n b s).power = s.power := rfl
@[simp] theorem ijnAppend_shd (k c n : Nat) (b : List Byte) (s : State) : (ijnAppend k c n b s).shd = s.shd := rfl
@[simp] theorem ijnAppend_inputs (k c n : Nat) (b : List Byte) (s : State) : (ijnAppend k c n b s).inputs = s.inputs := rfl
@[simp] theorem ijnAppend_nor (k c n : Nat) (b : List Byte) (s : State) : (ijnAppend k c n b s).nor = s.nor := rfl
@[simp] theorem ijnAppend_jnl (k c n : Nat) (b : List Byte) (s : State) : (ijnAppend k c n b s).jnl = s.jnl := rfl
@[simp] theorem ijnAppend_infEvt (k c n : Nat) (b : List Byte) (s : State) : (ijnAppend k c n b s).infEvt = s.infEvt := rfl
@[simp] theorem ijnAppend_fuses (k c n : Nat) (b : List Byte) (s : State) : (ijnAppend k c n b s).fuses = s.fuses := rfl
@[simp] theorem ijnAppend_kpr (k c n : Nat) (b : List Byte) (s : State) : (ijnAppend k c n b s).kpr = s.kpr := rfl
@[simp] theorem ijnAppend_chans (k c n : Nat) (b : List Byte) (s : State) : (ijnAppend k c n b s).chans = s.chans := rfl
@[simp] theorem ijnAppend_pens (k c n : Nat) (b : List Byte) (s : State) : (ijnAppend k c n b s).pens = s.pens := rfl
@[simp] theorem ijnAppend_sec (k c n : Nat) (b : List Byte) (s : State) : (ijnAppend k c n b s).sec = s.sec := rfl
@[simp] theorem ijnAppend_dmk (k c n : Nat) (b : List Byte) (s : State) : (ijnAppend k c n b s).dmk = s.dmk := rfl
@[simp] theorem ijnAppend_units (k c n : Nat) (b : List Byte) (s : State) : (ijnAppend k c n b s).units = s.units := rfl
@[simp] theorem ijnAppend_loftErr (k c n : Nat) (b : List Byte) (s : State) : (ijnAppend k c n b s).loftErr = s.loftErr := rfl
@[simp] theorem ijnAppend_loftMapped (k c n : Nat) (b : List Byte) (s : State) : (ijnAppend k c n b s).loftMapped = s.loftMapped := rfl
@[simp] theorem ijnAppend_marginFails (k c n : Nat) (b : List Byte) (s : State) : (ijnAppend k c n b s).marginFails = s.marginFails := rfl
@[simp] theorem ijnAppend_lanterns (k c n : Nat) (b : List Byte) (s : State) : (ijnAppend k c n b s).lanterns = s.lanterns := rfl
@[simp] theorem ijnAppend_calib (k c n : Nat) (b : List Byte) (s : State) : (ijnAppend k c n b s).calib = s.calib := rfl
@[simp] theorem ijnAppend_ports (k c n : Nat) (b : List Byte) (s : State) : (ijnAppend k c n b s).ports = s.ports := rfl
@[simp] theorem ijnAppend_partners (k c n : Nat) (b : List Byte) (s : State) : (ijnAppend k c n b s).partners = s.partners := rfl
@[simp] theorem ijnAppend_fns (k c n : Nat) (b : List Byte) (s : State) : (ijnAppend k c n b s).fns = s.fns := rfl
@[simp] theorem ijnAppend_pcieA (k c n : Nat) (b : List Byte) (s : State) : (ijnAppend k c n b s).pcieA = s.pcieA := rfl
@[simp] theorem ijnAppend_pcieB (k c n : Nat) (b : List Byte) (s : State) : (ijnAppend k c n b s).pcieB = s.pcieB := rfl
@[simp] theorem ijnAppend_vfSize (k c n : Nat) (b : List Byte) (s : State) : (ijnAppend k c n b s).vfSize = s.vfSize := rfl
@[simp] theorem ijnAppend_host (k c n : Nat) (b : List Byte) (s : State) : (ijnAppend k c n b s).host = s.host := rfl
@[simp] theorem ijnAppend_pairs (k c n : Nat) (b : List Byte) (s : State) : (ijnAppend k c n b s).pairs = s.pairs := rfl
@[simp] theorem ijnAppend_strangers (k c n : Nat) (b : List Byte) (s : State) : (ijnAppend k c n b s).strangers = s.strangers := rfl
@[simp] theorem ijnAppend_routes (k c n : Nat) (b : List Byte) (s : State) : (ijnAppend k c n b s).routes = s.routes := rfl
@[simp] theorem ijnAppend_sw (k c n : Nat) (b : List Byte) (s : State) : (ijnAppend k c n b s).sw = s.sw := rfl
@[simp] theorem ijnAppend_udpPort (k c n : Nat) (b : List Byte) (s : State) : (ijnAppend k c n b s).udpPort = s.udpPort := rfl
@[simp] theorem ijnAppend_near (k c n : Nat) (b : List Byte) (s : State) : (ijnAppend k c n b s).near = s.near := rfl
@[simp] theorem ijnAppend_pool (k c n : Nat) (b : List Byte) (s : State) : (ijnAppend k c n b s).pool = s.pool := rfl
@[simp] theorem ijnAppend_share (k c n : Nat) (b : List Byte) (s : State) : (ijnAppend k c n b s).share = s.share := rfl
@[simp] theorem ijnAppend_work (k c n : Nat) (b : List Byte) (s : State) : (ijnAppend k c n b s).work = s.work := rfl
@[simp] theorem ijnAppend_coh (k c n : Nat) (b : List Byte) (s : State) : (ijnAppend k c n b s).coh = s.coh := rfl
@[simp] theorem ijnAppend_dma (k c n : Nat) (b : List Byte) (s : State) : (ijnAppend k c n b s).dma = s.dma := rfl
@[simp] theorem ijnAppend_groups (k c n : Nat) (b : List Byte) (s : State) : (ijnAppend k c n b s).groups = s.groups := rfl

@[simp] theorem hostWrite_pending (c : ChanIx) (a : Nat) (b : List Byte) (s : State) : (hostWrite c a b s).pending = s.pending := rfl
@[simp] theorem hostWrite_fresh (c : ChanIx) (a : Nat) (b : List Byte) (s : State) : (hostWrite c a b s).fresh = s.fresh := rfl
@[simp] theorem hostWrite_out (c : ChanIx) (a : Nat) (b : List Byte) (s : State) : (hostWrite c a b s).out = s.out := rfl
@[simp] theorem hostWrite_kw (c : ChanIx) (a : Nat) (b : List Byte) (s : State) : (hostWrite c a b s).kw = s.kw := rfl
@[simp] theorem hostWrite_glb (c : ChanIx) (a : Nat) (b : List Byte) (s : State) : (hostWrite c a b s).glb = s.glb := rfl
@[simp] theorem hostWrite_isl (c : ChanIx) (a : Nat) (b : List Byte) (s : State) : (hostWrite c a b s).isl = s.isl := rfl
@[simp] theorem hostWrite_power (c : ChanIx) (a : Nat) (b : List Byte) (s : State) : (hostWrite c a b s).power = s.power := rfl
@[simp] theorem hostWrite_shd (c : ChanIx) (a : Nat) (b : List Byte) (s : State) : (hostWrite c a b s).shd = s.shd := rfl
@[simp] theorem hostWrite_inputs (c : ChanIx) (a : Nat) (b : List Byte) (s : State) : (hostWrite c a b s).inputs = s.inputs := rfl
@[simp] theorem hostWrite_nor (c : ChanIx) (a : Nat) (b : List Byte) (s : State) : (hostWrite c a b s).nor = s.nor := rfl
@[simp] theorem hostWrite_jnl (c : ChanIx) (a : Nat) (b : List Byte) (s : State) : (hostWrite c a b s).jnl = s.jnl := rfl
@[simp] theorem hostWrite_infEvt (c : ChanIx) (a : Nat) (b : List Byte) (s : State) : (hostWrite c a b s).infEvt = s.infEvt := rfl
@[simp] theorem hostWrite_fuses (c : ChanIx) (a : Nat) (b : List Byte) (s : State) : (hostWrite c a b s).fuses = s.fuses := rfl
@[simp] theorem hostWrite_kpr (c : ChanIx) (a : Nat) (b : List Byte) (s : State) : (hostWrite c a b s).kpr = s.kpr := rfl
@[simp] theorem hostWrite_chans (c : ChanIx) (a : Nat) (b : List Byte) (s : State) : (hostWrite c a b s).chans = s.chans := rfl
@[simp] theorem hostWrite_pens (c : ChanIx) (a : Nat) (b : List Byte) (s : State) : (hostWrite c a b s).pens = s.pens := rfl
@[simp] theorem hostWrite_sec (c : ChanIx) (a : Nat) (b : List Byte) (s : State) : (hostWrite c a b s).sec = s.sec := rfl
@[simp] theorem hostWrite_dmk (c : ChanIx) (a : Nat) (b : List Byte) (s : State) : (hostWrite c a b s).dmk = s.dmk := rfl
@[simp] theorem hostWrite_ijn (c : ChanIx) (a : Nat) (b : List Byte) (s : State) : (hostWrite c a b s).ijn = s.ijn := rfl
@[simp] theorem hostWrite_units (c : ChanIx) (a : Nat) (b : List Byte) (s : State) : (hostWrite c a b s).units = s.units := rfl
@[simp] theorem hostWrite_loftErr (c : ChanIx) (a : Nat) (b : List Byte) (s : State) : (hostWrite c a b s).loftErr = s.loftErr := rfl
@[simp] theorem hostWrite_loftMapped (c : ChanIx) (a : Nat) (b : List Byte) (s : State) : (hostWrite c a b s).loftMapped = s.loftMapped := rfl
@[simp] theorem hostWrite_marginFails (c : ChanIx) (a : Nat) (b : List Byte) (s : State) : (hostWrite c a b s).marginFails = s.marginFails := rfl
@[simp] theorem hostWrite_lanterns (c : ChanIx) (a : Nat) (b : List Byte) (s : State) : (hostWrite c a b s).lanterns = s.lanterns := rfl
@[simp] theorem hostWrite_calib (c : ChanIx) (a : Nat) (b : List Byte) (s : State) : (hostWrite c a b s).calib = s.calib := rfl
@[simp] theorem hostWrite_ports (c : ChanIx) (a : Nat) (b : List Byte) (s : State) : (hostWrite c a b s).ports = s.ports := rfl
@[simp] theorem hostWrite_partners (c : ChanIx) (a : Nat) (b : List Byte) (s : State) : (hostWrite c a b s).partners = s.partners := rfl
@[simp] theorem hostWrite_fns (c : ChanIx) (a : Nat) (b : List Byte) (s : State) : (hostWrite c a b s).fns = s.fns := rfl
@[simp] theorem hostWrite_pcieA (c : ChanIx) (a : Nat) (b : List Byte) (s : State) : (hostWrite c a b s).pcieA = s.pcieA := rfl
@[simp] theorem hostWrite_pcieB (c : ChanIx) (a : Nat) (b : List Byte) (s : State) : (hostWrite c a b s).pcieB = s.pcieB := rfl
@[simp] theorem hostWrite_vfSize (c : ChanIx) (a : Nat) (b : List Byte) (s : State) : (hostWrite c a b s).vfSize = s.vfSize := rfl
@[simp] theorem hostWrite_pairs (c : ChanIx) (a : Nat) (b : List Byte) (s : State) : (hostWrite c a b s).pairs = s.pairs := rfl
@[simp] theorem hostWrite_strangers (c : ChanIx) (a : Nat) (b : List Byte) (s : State) : (hostWrite c a b s).strangers = s.strangers := rfl
@[simp] theorem hostWrite_routes (c : ChanIx) (a : Nat) (b : List Byte) (s : State) : (hostWrite c a b s).routes = s.routes := rfl
@[simp] theorem hostWrite_sw (c : ChanIx) (a : Nat) (b : List Byte) (s : State) : (hostWrite c a b s).sw = s.sw := rfl
@[simp] theorem hostWrite_udpPort (c : ChanIx) (a : Nat) (b : List Byte) (s : State) : (hostWrite c a b s).udpPort = s.udpPort := rfl
@[simp] theorem hostWrite_near (c : ChanIx) (a : Nat) (b : List Byte) (s : State) : (hostWrite c a b s).near = s.near := rfl
@[simp] theorem hostWrite_pool (c : ChanIx) (a : Nat) (b : List Byte) (s : State) : (hostWrite c a b s).pool = s.pool := rfl
@[simp] theorem hostWrite_share (c : ChanIx) (a : Nat) (b : List Byte) (s : State) : (hostWrite c a b s).share = s.share := rfl
@[simp] theorem hostWrite_work (c : ChanIx) (a : Nat) (b : List Byte) (s : State) : (hostWrite c a b s).work = s.work := rfl
@[simp] theorem hostWrite_coh (c : ChanIx) (a : Nat) (b : List Byte) (s : State) : (hostWrite c a b s).coh = s.coh := rfl
@[simp] theorem hostWrite_dma (c : ChanIx) (a : Nat) (b : List Byte) (s : State) : (hostWrite c a b s).dma = s.dma := rfl
@[simp] theorem hostWrite_groups (c : ChanIx) (a : Nat) (b : List Byte) (s : State) : (hostWrite c a b s).groups = s.groups := rfl

/-! ## Sending a packet, and taking a request -/

/-- What a packet of the device leaves as it is: all but the pairs, the queues of the switch, the counts of the routes and the Daymark. -/
theorem send_frame {α : Type} (f : State → α) (h : ∀ s w r p k, f { s with sw := w, routes := r, pairs := p, dmk := k } = f s)
    (n : Node) (p : Pkt) (s : State) : f (send n p s) = f s := by
  unfold send sendVia
  split
  · rfl
  · split
    · exact h s s.sw s.routes _ s.dmk
    · unfold route enqueueOwn pushVoq dropFrame countDrop modVoq modPair
      dsimp only
      split
      · exact h s s.sw _ _ s.dmk
      · split
        · exact h s s.sw _ _ s.dmk
        · split <;> exact h s _ s.routes _ _

/-- What the Keeper's reading of a peer's buffer leaves as it is. -/
theorem askPeer_frame {α : Type} (f : State → α) (hf : ∀ s w r p k, f { s with sw := w, routes := r, pairs := p, dmk := k } = f s)
    (d : Bool) (r : Req) (s : State) : f (askPeer d r s) = f s := by
  have h : ∀ (l : List (Nat × Nat)) (g : State → Nat × Nat → Pkt) (n : State → Node) (s : State),
      f (l.foldl (fun s x => send (n s) (g s x) s) s) = f s := by
    intro l g n
    induction l with
    | nil => intro s; rfl
    | cons x l ih => intro s; exact (ih _).trans (send_frame f hf _ _ _)
  unfold askPeer peerReads
  split
  · split
    · rfl
    · exact h _ (fun s x => peerPkt s 0x01 x.1 x.2 []) (fun t => (chan t r.chan).peerNode) _
  · rfl

/-- Taking a request changes its channel, the Input Journal and, for a peer's buffer, what a sent packet changes; nothing else. -/
theorem take_frame {α : Type} (f : State → α)
    (h : ∀ s c j n w r p k, f { s with chans := c, ijn := j, fresh := n, sw := w, routes := r, pairs := p, dmk := k } = f s)
    (op : Nat) (d : Bool) (r : Req) (s : State) : f (takeRequest op d r s) = f s :=
  (h _ _ _ _ _ _ _ _).trans ((askPeer_frame f (fun s w r p k => h s s.chans s.ijn s.fresh w r p k) d r _).trans
    (h s _ s.ijn s.fresh s.sw s.routes s.pairs s.dmk))

@[simp] theorem takeRequest_pending (op : Nat) (d : Bool) (r : Req) (s : State) : (takeRequest op d r s).pending = s.pending :=
  take_frame (·.pending) (fun _ _ _ _ _ _ _ _ => rfl) op d r s
@[simp] theorem takeRequest_out (op : Nat) (d : Bool) (r : Req) (s : State) : (takeRequest op d r s).out = s.out :=
  take_frame (·.out) (fun _ _ _ _ _ _ _ _ => rfl) op d r s
@[simp] theorem takeRequest_kw (op : Nat) (d : Bool) (r : Req) (s : State) : (takeRequest op d r s).kw = s.kw :=
  take_frame (·.kw) (fun _ _ _ _ _ _ _ _ => rfl) op d r s
@[simp] theorem takeRequest_glb (op : Nat) (d : Bool) (r : Req) (s : State) : (takeRequest op d r s).glb = s.glb :=
  take_frame (·.glb) (fun _ _ _ _ _ _ _ _ => rfl) op d r s
@[simp] theorem takeRequest_isl (op : Nat) (d : Bool) (r : Req) (s : State) : (takeRequest op d r s).isl = s.isl :=
  take_frame (·.isl) (fun _ _ _ _ _ _ _ _ => rfl) op d r s
@[simp] theorem takeRequest_power (op : Nat) (d : Bool) (r : Req) (s : State) : (takeRequest op d r s).power = s.power :=
  take_frame (·.power) (fun _ _ _ _ _ _ _ _ => rfl) op d r s
@[simp] theorem takeRequest_shd (op : Nat) (d : Bool) (r : Req) (s : State) : (takeRequest op d r s).shd = s.shd :=
  take_frame (·.shd) (fun _ _ _ _ _ _ _ _ => rfl) op d r s
@[simp] theorem takeRequest_inputs (op : Nat) (d : Bool) (r : Req) (s : State) : (takeRequest op d r s).inputs = s.inputs :=
  take_frame (·.inputs) (fun _ _ _ _ _ _ _ _ => rfl) op d r s
@[simp] theorem takeRequest_nor (op : Nat) (d : Bool) (r : Req) (s : State) : (takeRequest op d r s).nor = s.nor :=
  take_frame (·.nor) (fun _ _ _ _ _ _ _ _ => rfl) op d r s
@[simp] theorem takeRequest_jnl (op : Nat) (d : Bool) (r : Req) (s : State) : (takeRequest op d r s).jnl = s.jnl :=
  take_frame (·.jnl) (fun _ _ _ _ _ _ _ _ => rfl) op d r s
@[simp] theorem takeRequest_infEvt (op : Nat) (d : Bool) (r : Req) (s : State) : (takeRequest op d r s).infEvt = s.infEvt :=
  take_frame (·.infEvt) (fun _ _ _ _ _ _ _ _ => rfl) op d r s
@[simp] theorem takeRequest_fuses (op : Nat) (d : Bool) (r : Req) (s : State) : (takeRequest op d r s).fuses = s.fuses :=
  take_frame (·.fuses) (fun _ _ _ _ _ _ _ _ => rfl) op d r s
@[simp] theorem takeRequest_kpr (op : Nat) (d : Bool) (r : Req) (s : State) : (takeRequest op d r s).kpr = s.kpr :=
  take_frame (·.kpr) (fun _ _ _ _ _ _ _ _ => rfl) op d r s
@[simp] theorem takeRequest_pens (op : Nat) (d : Bool) (r : Req) (s : State) : (takeRequest op d r s).pens = s.pens :=
  take_frame (·.pens) (fun _ _ _ _ _ _ _ _ => rfl) op d r s
@[simp] theorem takeRequest_sec (op : Nat) (d : Bool) (r : Req) (s : State) : (takeRequest op d r s).sec = s.sec :=
  take_frame (·.sec) (fun _ _ _ _ _ _ _ _ => rfl) op d r s
@[simp] theorem takeRequest_units (op : Nat) (d : Bool) (r : Req) (s : State) : (takeRequest op d r s).units = s.units :=
  take_frame (·.units) (fun _ _ _ _ _ _ _ _ => rfl) op d r s
@[simp] theorem takeRequest_loftErr (op : Nat) (d : Bool) (r : Req) (s : State) : (takeRequest op d r s).loftErr = s.loftErr :=
  take_frame (·.loftErr) (fun _ _ _ _ _ _ _ _ => rfl) op d r s
@[simp] theorem takeRequest_loftMapped (op : Nat) (d : Bool) (r : Req) (s : State) : (takeRequest op d r s).loftMapped = s.loftMapped :=
  take_frame (·.loftMapped) (fun _ _ _ _ _ _ _ _ => rfl) op d r s
@[simp] theorem takeRequest_marginFails (op : Nat) (d : Bool) (r : Req) (s : State) : (takeRequest op d r s).marginFails = s.marginFails :=
  take_frame (·.marginFails) (fun _ _ _ _ _ _ _ _ => rfl) op d r s
@[simp] theorem takeRequest_lanterns (op : Nat) (d : Bool) (r : Req) (s : State) : (takeRequest op d r s).lanterns = s.lanterns :=
  take_frame (·.lanterns) (fun _ _ _ _ _ _ _ _ => rfl) op d r s
@[simp] theorem takeRequest_calib (op : Nat) (d : Bool) (r : Req) (s : State) : (takeRequest op d r s).calib = s.calib :=
  take_frame (·.calib) (fun _ _ _ _ _ _ _ _ => rfl) op d r s
@[simp] theorem takeRequest_ports (op : Nat) (d : Bool) (r : Req) (s : State) : (takeRequest op d r s).ports = s.ports :=
  take_frame (·.ports) (fun _ _ _ _ _ _ _ _ => rfl) op d r s
@[simp] theorem takeRequest_partners (op : Nat) (d : Bool) (r : Req) (s : State) : (takeRequest op d r s).partners = s.partners :=
  take_frame (·.partners) (fun _ _ _ _ _ _ _ _ => rfl) op d r s
@[simp] theorem takeRequest_fns (op : Nat) (d : Bool) (r : Req) (s : State) : (takeRequest op d r s).fns = s.fns :=
  take_frame (·.fns) (fun _ _ _ _ _ _ _ _ => rfl) op d r s
@[simp] theorem takeRequest_pcieA (op : Nat) (d : Bool) (r : Req) (s : State) : (takeRequest op d r s).pcieA = s.pcieA :=
  take_frame (·.pcieA) (fun _ _ _ _ _ _ _ _ => rfl) op d r s
@[simp] theorem takeRequest_pcieB (op : Nat) (d : Bool) (r : Req) (s : State) : (takeRequest op d r s).pcieB = s.pcieB :=
  take_frame (·.pcieB) (fun _ _ _ _ _ _ _ _ => rfl) op d r s
@[simp] theorem takeRequest_vfSize (op : Nat) (d : Bool) (r : Req) (s : State) : (takeRequest op d r s).vfSize = s.vfSize :=
  take_frame (·.vfSize) (fun _ _ _ _ _ _ _ _ => rfl) op d r s
@[simp] theorem takeRequest_host (op : Nat) (d : Bool) (r : Req) (s : State) : (takeRequest op d r s).host = s.host :=
  take_frame (·.host) (fun _ _ _ _ _ _ _ _ => rfl) op d r s
@[simp] theorem takeRequest_strangers (op : Nat) (d : Bool) (r : Req) (s : State) : (takeRequest op d r s).strangers = s.strangers :=
  take_frame (·.strangers) (fun _ _ _ _ _ _ _ _ => rfl) op d r s
@[simp] theorem takeRequest_udpPort (op : Nat) (d : Bool) (r : Req) (s : State) : (takeRequest op d r s).udpPort = s.udpPort :=
  take_frame (·.udpPort) (fun _ _ _ _ _ _ _ _ => rfl) op d r s
@[simp] theorem takeRequest_near (op : Nat) (d : Bool) (r : Req) (s : State) : (takeRequest op d r s).near = s.near :=
  take_frame (·.near) (fun _ _ _ _ _ _ _ _ => rfl) op d r s
@[simp] theorem takeRequest_pool (op : Nat) (d : Bool) (r : Req) (s : State) : (takeRequest op d r s).pool = s.pool :=
  take_frame (·.pool) (fun _ _ _ _ _ _ _ _ => rfl) op d r s
@[simp] theorem takeRequest_share (op : Nat) (d : Bool) (r : Req) (s : State) : (takeRequest op d r s).share = s.share :=
  take_frame (·.share) (fun _ _ _ _ _ _ _ _ => rfl) op d r s
@[simp] theorem takeRequest_work (op : Nat) (d : Bool) (r : Req) (s : State) : (takeRequest op d r s).work = s.work :=
  take_frame (·.work) (fun _ _ _ _ _ _ _ _ => rfl) op d r s
@[simp] theorem takeRequest_coh (op : Nat) (d : Bool) (r : Req) (s : State) : (takeRequest op d r s).coh = s.coh :=
  take_frame (·.coh) (fun _ _ _ _ _ _ _ _ => rfl) op d r s
@[simp] theorem takeRequest_dma (op : Nat) (d : Bool) (r : Req) (s : State) : (takeRequest op d r s).dma = s.dma :=
  take_frame (·.dma) (fun _ _ _ _ _ _ _ _ => rfl) op d r s
@[simp] theorem takeRequest_groups (op : Nat) (d : Bool) (r : Req) (s : State) : (takeRequest op d r s).groups = s.groups :=
  take_frame (·.groups) (fun _ _ _ _ _ _ _ _ => rfl) op d r s

end Sys2Proof.Machine
end

