-- ==== Sys2Proof/Laws/Mailbox.lean ====
section
/-! SUPPORT. What the shared operations of the mailboxes do: an accepted request runs its command's action, one that fails a
check is answered with its status, and one that is not taken waits. -/

namespace Sys2Proof.Machine

/-- An accepted request: its action runs on the state that has taken it. -/
theorem mbx_accepts {c : Cmd} {isIn : Bool} {r : Req} {s : State} (h : Accepts c isIn r s)
    (act : Reply → State → State) :
    mbx c isIn r act s = act (replyOf s c.op r) (takeRequest c.op isIn r s) := by
  unfold mbx
  rw [if_neg (by simp [h.takes]), if_pos h.passes]

/-- A request that fails a check of R329 is answered with the status of the first that fails. -/
theorem mbx_refuses {c : Cmd} {isIn : Bool} {r : Req} {s : State} (h : takesNow c.op r s = true)
    (hs : requestStatus s c isIn r ≠ stOk) (act : Reply → State → State) :
    mbx c isIn r act s = post (replyOf s c.op r) (requestStatus s c isIn r) [] (takeRequest c.op isIn r s) := by
  unfold mbx
  rw [if_neg (by simp [h]), if_neg hs]

/-- A request that the Keeper does not take waits with no effect. -/
theorem mbx_waits {c : Cmd} {isIn : Bool} {r : Req} {s : State} (h : takesNow c.op r s = false)
    (act : Reply → State → State) : mbx c isIn r act s = s := by
  unfold mbx
  rw [if_pos h]

/-! ## Taking a request changes its channel, the Input Journal and, for a peer's buffer, what is sent; nothing else -/

/-- A request that the Keeper starts is listed with its channel. -/
@[simp] theorem chan_take (op : Nat) (d : Bool) (r : Req) (s : State) (c : ChanIx) :
    chan (takeRequest op d r s) c = if r.chan = c then startNext op r.tag (chan s c) else chan s c := by
  have h : chan (takeRequest op d r s) c = chan (modChan r.chan (startNext op r.tag) s) c :=
    askPeer_frame (fun s => chan s c) (fun _ _ _ _ _ => rfl) d r _
  rw [h, chan_modChan]
  split
  · rename_i e; subst e; rfl
  · rfl

theorem startNext_bound (op : Nat) (t : W32) (q : Channel) : (startNext op t q).bound = q.bound := by unfold startNext; split <;> rfl
theorem startNext_pen (op : Nat) (t : W32) (q : Channel) : (startNext op t q).pen = q.pen := by unfold startNext; split <;> rfl
theorem startNext_peerNode (op : Nat) (t : W32) (q : Channel) : (startNext op t q).peerNode = q.peerNode := by
  unfold startNext; split <;> rfl

theorem bound_take (op : Nat) (d : Bool) (r : Req) (s : State) (c : ChanIx) :
    (chan (takeRequest op d r s) c).bound = (chan s c).bound := by
  rw [chan_take]; split <;> simp only [startNext_bound]

theorem pen_take (op : Nat) (d : Bool) (r : Req) (s : State) (c : ChanIx) :
    (chan (takeRequest op d r s) c).pen = (chan s c).pen := by
  rw [chan_take]; split <;> simp only [startNext_pen]

theorem peerNode_take (op : Nat) (d : Bool) (r : Req) (s : State) (c : ChanIx) :
    (chan (takeRequest op d r s) c).peerNode = (chan s c).peerNode := by
  rw [chan_take]; split <;> simp only [startNext_peerNode]

@[simp] theorem callerClass_take (op : Nat) (d : Bool) (r : Req) (s : State) (c : ChanIx) :
    callerClass (takeRequest op d r s) c = callerClass s c := by
  unfold callerClass; rw [bound_take]

@[simp] theorem hostRead_take (op : Nat) (d : Bool) (r : Req) (s : State) (c : ChanIx) (a n : Nat) :
    hostRead (takeRequest op d r s) c a n = hostRead s c a n := by
  unfold hostRead hostMem chanMem; rw [peerNode_take, takeRequest_host]

@[simp] theorem inBuf_take (op : Nat) (d : Bool) (r : Req) (s : State) (q : Req) :
    inBuf (takeRequest op d r s) q = inBuf s q := hostRead_take _ _ _ _ _ _ _

/-- Nothing is recorded while the Input Journal does not record. -/
@[simp] theorem ijn_take (op : Nat) (d : Bool) (r : Req) (s : State) (h : s.ijn.state ≠ .recording) :
    (takeRequest op d r s).ijn = s.ijn := by
  have e (t : State) (ht : t.ijn.state ≠ .recording) : (recordRequest op d r t).ijn = t.ijn := by
    unfold recordRequest ijnAppend; simp [ijnTake, ht]
  have a : (askPeer d r (modChan r.chan (startNext op r.tag) s)).ijn = s.ijn :=
    askPeer_frame (·.ijn) (fun _ _ _ _ _ => rfl) d r _
  exact (e _ (by rw [a]; exact h)).trans a

@[simp] theorem fresh_take (op : Nat) (d : Bool) (r : Req) (s : State) (h : s.ijn.state ≠ .recording) :
    (takeRequest op d r s).fresh = s.fresh := by
  have e (t : State) (ht : t.ijn.state ≠ .recording) : (recordRequest op d r t).fresh = t.fresh := by
    unfold recordRequest ijnAppend; simp [ht]
  have a : (askPeer d r (modChan r.chan (startNext op r.tag) s)).ijn = s.ijn :=
    askPeer_frame (·.ijn) (fun _ _ _ _ _ => rfl) d r _
  exact (e _ (by rw [a]; exact h)).trans (askPeer_frame (·.fresh) (fun _ _ _ _ _ => rfl) d r _)

end Sys2Proof.Machine
end

