-- ==== Sys2Proof/Laws/Mem.lean ====
section
/-! SUPPORT. Byte memories: every operation keeps the canonical form, a read after a write gives the bytes written, and a
write leaves every other byte alone. -/

namespace Sys2Proof.Machine

theorem memAbove_mono (lo lo' : Nat) (m : Mem) (h : lo' ≤ lo) (hm : memAbove lo m = true) : memAbove lo' m = true := by
  cases m with
  | nil => rfl
  | cons c m =>
    obtain ⟨a, b⟩ := c
    simp only [memAbove, Bool.and_eq_true, decide_eq_true_eq] at hm ⊢
    exact ⟨⟨by omega, hm.1.2⟩, hm.2⟩

/-- A filter keeps the canonical form. -/
theorem memAbove_filter (lo : Nat) (m : Mem) (p : Nat × Byte → Bool) (hm : memAbove lo m = true) :
    memAbove lo (m.filter p) = true := by
  induction m generalizing lo with
  | nil => rfl
  | cons c m ih =>
    obtain ⟨a, b⟩ := c
    simp only [memAbove, Bool.and_eq_true, decide_eq_true_eq] at hm
    simp only [List.filter]
    split
    · simp only [memAbove, Bool.and_eq_true, decide_eq_true_eq]
      exact ⟨hm.1, ih (a + 1) hm.2⟩
    · exact ih lo (memAbove_mono (a + 1) lo m (by omega) hm.2)

/-- Zeroing a range keeps the canonical form. -/
theorem zeroRange_wf (m : Mem) (a n : Nat) (hm : memWf m = true) : memWf (zeroRange m a n) = true :=
  memAbove_filter 0 m _ hm

theorem memAbove_append (lo : Nat) (m m' : Mem) (hm : memAbove lo m = true) (hi : Nat)
    (hall : ∀ c ∈ m, c.1 < hi) (hlo : lo ≤ hi) (hm' : memAbove hi m' = true) : memAbove lo (m ++ m') = true := by
  induction m generalizing lo with
  | nil => exact memAbove_mono hi lo m' hlo hm'
  | cons c m ih =>
    obtain ⟨a, b⟩ := c
    simp only [memAbove, Bool.and_eq_true, decide_eq_true_eq] at hm
    have ha : a < hi := hall (a, b) (by simp)
    simp only [List.cons_append, memAbove, Bool.and_eq_true, decide_eq_true_eq]
    exact ⟨hm.1, ih (a + 1) hm.2 (fun c hc => hall c (by simp [hc])) (by omega)⟩

theorem cellsFrom_above (a : Nat) (bs : List Byte) : memAbove a (cellsFrom a bs) = true := by
  induction bs generalizing a with
  | nil => rfl
  | cons b bs ih =>
    simp only [cellsFrom]
    split
    · exact memAbove_mono (a + 1) a _ (by omega) (ih (a + 1))
    · rename_i h
      simp only [memAbove, Bool.and_eq_true, decide_eq_true_eq]
      exact ⟨⟨by omega, h⟩, ih (a + 1)⟩

theorem cellsFrom_ge (a : Nat) (bs : List Byte) : ∀ c ∈ cellsFrom a bs, a ≤ c.1 := by
  induction bs generalizing a with
  | nil => simp [cellsFrom]
  | cons b bs ih =>
    intro c hc
    simp only [cellsFrom] at hc
    split at hc
    · have := ih (a + 1) c hc
      omega
    · rcases List.mem_cons.mp hc with rfl | hc
      · simp
      · have := ih (a + 1) c hc
        omega

theorem cellsFrom_below (a : Nat) (bs : List Byte) : ∀ c ∈ cellsFrom a bs, c.1 < a + bs.length := by
  induction bs generalizing a with
  | nil => simp [cellsFrom]
  | cons b bs ih =>
    intro c hc
    simp only [cellsFrom] at hc
    split at hc
    · have := ih (a + 1) c hc
      simp only [List.length_cons]
      omega
    · simp only [List.mem_cons] at hc
      rcases hc with rfl | hc
      · simp
      · have := ih (a + 1) c hc
        simp only [List.length_cons]
        omega

theorem filter_ge_above (m : Mem) (lo k : Nat) (hm : memAbove lo m = true) :
    memAbove k (m.filter fun c => k ≤ c.1) = true := by
  induction m generalizing lo with
  | nil => rfl
  | cons c m ih =>
    obtain ⟨a, b⟩ := c
    simp only [memAbove, Bool.and_eq_true, decide_eq_true_eq] at hm
    simp only [List.filter]
    split
    · rename_i h
      simp only [decide_eq_true_eq] at h
      simp only [memAbove, Bool.and_eq_true, decide_eq_true_eq]
      exact ⟨⟨h, hm.1.2⟩, memAbove_filter (a + 1) m _ hm.2⟩
    · exact ih (a + 1) hm.2

/-- A write keeps the canonical form. -/
theorem writeBytes_wf (m : Mem) (a : Nat) (bs : List Byte) (hm : memWf m = true) :
    memWf (writeBytes m a bs) = true := by
  unfold writeBytes memWf
  rw [List.append_assoc]
  refine memAbove_append 0 _ _ (memAbove_filter 0 m _ hm) a ?_ (by omega) ?_
  · intro c hc
    simpa using (List.mem_filter.mp hc).2
  · exact memAbove_append a _ _ (cellsFrom_above a bs) (a + bs.length) (cellsFrom_below a bs) (by omega)
      (filter_ge_above m 0 _ hm)

theorem readByte_append (m m' : Mem) (x : Nat) (h : ∀ c ∈ m, c.1 ≠ x) : readByte (m ++ m') x = readByte m' x := by
  induction m with
  | nil => rfl
  | cons c m ih =>
    obtain ⟨a, b⟩ := c
    have ha : a ≠ x := h (a, b) (by simp)
    simp only [List.cons_append, readByte, ha, if_false]
    exact ih fun c hc => h c (by simp [hc])

theorem readByte_none (m : Mem) (x : Nat) (h : ∀ c ∈ m, c.1 ≠ x) : readByte m x = 0 := by
  have := readByte_append m [] x h
  simpa [readByte] using this

theorem readByte_filter (m : Mem) (x : Nat) (p : Nat × Byte → Bool) (h : ∀ b, p (x, b) = true) :
    readByte (m.filter p) x = readByte m x := by
  induction m with
  | nil => rfl
  | cons c m ih =>
    obtain ⟨a, b⟩ := c
    simp only [List.filter]
    split
    · simp only [readByte]
      split
      · rfl
      · exact ih
    · rename_i hp
      have : a ≠ x := by
        rintro rfl
        simp [h b] at hp
      simp only [readByte, this, if_false]
      exact ih

theorem readByte_append_left (m m' : Mem) (x : Nat) (h : ∀ c ∈ m', c.1 ≠ x) : readByte (m ++ m') x = readByte m x := by
  induction m with
  | nil => simpa [readByte] using readByte_none m' x h
  | cons c m ih =>
    obtain ⟨a, b⟩ := c
    simp only [List.cons_append, readByte]
    split
    · rfl
    · exact ih

/-- A write leaves the bytes outside it alone. -/
theorem readByte_writeBytes_out (m : Mem) (a x : Nat) (bs : List Byte) (h : x < a ∨ a + bs.length ≤ x) :
    readByte (writeBytes m a bs) x = readByte m x := by
  unfold writeBytes
  rw [List.append_assoc]
  rcases h with h | h
  · rw [readByte_append_left]
    · exact readByte_filter m x _ (fun b => by simpa using h)
    · intro c hc
      rcases List.mem_append.mp hc with hc | hc
      · have := cellsFrom_ge a bs c hc
        omega
      · have := (List.mem_filter.mp hc).2
        simp only [decide_eq_true_eq] at this
        omega
  · rw [readByte_append, readByte_append]
    · exact readByte_filter m x _ (fun b => by simpa using h)
    · intro c hc
      have := cellsFrom_below a bs c hc
      omega
    · intro c hc
      have := (List.mem_filter.mp hc).2
      simp only [decide_eq_true_eq] at this
      omega

theorem readByte_cellsFrom (a : Nat) (bs : List Byte) (i : Nat) (m' : Mem) (hi : i < bs.length)
    (hm' : ∀ c ∈ m', a + bs.length ≤ c.1) : readByte (cellsFrom a bs ++ m') (a + i) = bs.getD i 0 := by
  induction bs generalizing a i with
  | nil => simp at hi
  | cons b bs ih =>
    cases i with
    | zero =>
      simp only [cellsFrom, Nat.add_zero, List.getD_cons_zero]
      split
      · rename_i h0
        rw [readByte_none, h0]
        intro c hc
        rcases List.mem_append.mp hc with hc | hc
        · have := cellsFrom_ge (a + 1) bs c hc
          omega
        · have := hm' c hc
          simp only [List.length_cons] at this
          omega
      · simp [readByte]
    | succ j =>
      have hj : j < bs.length := by simpa using hi
      have e : a + (j + 1) = a + 1 + j := by omega
      have h' := ih (a + 1) j hj (fun c hc => by have := hm' c hc; simp only [List.length_cons] at this; omega)
      simp only [cellsFrom, List.getD_cons_succ]
      split
      · rw [e]; exact h'
      · simp only [List.cons_append, readByte]
        rw [if_neg (by omega), e]
        exact h'

/-- A read of a byte that a write has written gives the byte written. -/
theorem readByte_writeBytes_in (m : Mem) (a i : Nat) (bs : List Byte) (hi : i < bs.length) :
    readByte (writeBytes m a bs) (a + i) = bs.getD i 0 := by
  unfold writeBytes
  rw [List.append_assoc, readByte_append]
  · exact readByte_cellsFrom a bs i _ hi (fun c hc => by simpa using (List.mem_filter.mp hc).2)
  · intro c hc
    have := (List.mem_filter.mp hc).2
    simp only [decide_eq_true_eq] at this
    omega

end Sys2Proof.Machine
end

