-- ==== Sys2Proof/Tests/States.lean ====
section
/-! SUPPORT. Small states and operands that the tests and the witnesses of the statements' hypotheses share. -/

namespace Sys2Proof.Tests

open Sys2Proof Sys2Proof.Machine

/-- Every island runs, the Keeper runs, and the device serves L3. -/
def up : State :=
  { State.reset with
    glb := { svc := 3, boot := .up, homeMap := 0xE4 }
    kpr := { state := .running }
    isl := (List.range 25).map fun i => (islNo i, { state := .running, pll := true, railOk := true }) }

/-- A request of a channel with a payload. -/
def rq (c : ChanIx) (pl : List Byte) : Req := { chan := c, payload := pl }

/-- A request of channel 1 for its Pen 1. -/
def rv (pl : List Byte) : Req := { chan := 1, pen := 1, payload := pl }

/-- A pair and a triple are made of their parts. -/
theorem eta2 {α β : Type} (x : α × β) : x = (x.1, x.2) := rfl
theorem eta3 {α β γ : Type} (x : α × β × γ) : x = (x.1, x.2.1, x.2.2) := rfl

/-- n zero bytes. -/
def zs (n : Nat) : List Byte := List.replicate n 0

/-- A Pen that is Active, numbered 1, and a VF's channel bound to it. -/
def penUp : State :=
  { up with
    pens := [(1, { state := .active, channels := [1], qNear := 16, qLent := 16, qTray := 16, qFlash := 16, qMatch := 16,
                   qSessions := 16, qTasks := 16, qDma := 4, dsFirst := 16384, dsPages := 16 })]
    chans := [(1, { pen := 1, bound := true })]
    near := { up.near with dsSize := 2 ^ 30 } }

/-- A secure channel whose key server the device is. -/
def aSecy : Secy := { ckn := [1], sak := [], server := true }

/-- A partner with one port. -/
def aPartner : Partner := { role := 0, deviceId := 1, nonce := 1, caps := 0, ports := [0] }

/-- Unit 0 of Shed 0 works, and its spare is free. -/
def upU (k : UnitKind) : State :=
  { up with units := [((0, k, 0), { st := .active }), ((0, k, 16), { st := .spareFree })] }

/-- Port 0 is up, node 1 has a pair and a route, the stacks are Online, and Pen 1 holds extent 0 in near frame 0, under key 0. -/
def cmx : State :=
  { penUp with
    near := { penUp.near with stks := (List.range 16).map fun k => (Fin.ofNat 16 k, { state := 2 }) }
    ports := [(0, { link := 2, llr := true, node := 1 })]
    pairs := [(1, { rxCum := 0, settled := 0, txNext := 1 })]
    partners := [(1, aPartner)]
    sec := { up.sec with keys := [((1, 0), zs 64)] }
    pool := { up.pool with exts := [((1, 0), { v := true })], etc := [(0, [(1, 0)])] }
    routes := { up.routes with current := { nodes := [⟨1, true, false, false, false, [0], 0, 1, 1⟩] } } }

/-- A packet of node 1 in Pen 1 with a payload. -/
def px (pl : List Byte) : Rx :=
  { port := 0, l2 := { udpLen := 40 + pl.length }, pen := 1, src := 1, seq := 1, length := BitVec.ofNat 16 pl.length, payload := pl }

/-- A READ of one byte. -/
def pxRead : Rx := { px [] with length := 1 }

/-- Which control block a translation reads decides nothing where the request names no extent or its translation is cached. -/
theorem gates_cached {op : BitVec 8} {p : Rx} {s : State}
    (h : translated s op p = false ∨ etcHit s (portShed p.port) (rxKey s p) = true) (w : Nat) : gates op p w s = gates op p 0 s := by
  cases h with
  | inl h => simp [gates, lateGates, h]
  | inr h => simp [gates, lateGates, h]

/-- A request passes where it passes with control block 0 and needs none. -/
theorem passesOf {op : BitVec 8} {p : Rx} {s : State} (ha : (letIn op p s).1 = true) (he : epochCheck (received op p s) p.epoch = none)
    (hc : translated (counted op p s) op p = false ∨ etcHit (counted op p s) (portShed p.port) (rxKey (counted op p s) p) = true)
    (hg : gates op p 0 (counted op p s) = .pass) : Passes op p s :=
  ⟨ha, he, fun w => (gates_cached hc w).trans hg⟩

/-- A request of the device's own at node 1, and the packet that answers it. -/
def aReq : DevReq := { node := 1, tag := 5, write := false, addr := 0, owner := .job 0 }
def cmxReq : State := { cmx with pool := { cmx.pool with devReqs := [aReq] } }
def pxAns (pl : List Byte) : Rx := { px pl with tag := 5 }

/-- A pair whose packet 1 is unacknowledged after n expiries. -/
def aSent (n : Nat) : Pair :=
  { rxCum := 0, settled := 0, txNext := 2, unacked := [{ seq := 1, pkt := respPkt 0x04 (px []), expiries := n }] }

/-- An accelerator's Hello: 2,048 packets outstanding, not signed. -/
def aHello : Rx := { px ([0, 0, 8] ++ zs 3141) with htype := 2 }

/-- A host buffer of a node entry with one port. -/
def aMapState : State := { up with host := [(.fn 0, [(2, 3), (3, 1)])] }

/-- A setting in effect depends on the journal alone. -/
theorem effective_congr {s t : State} (hj : s.jnl = t.jnl) (hn : s.nor = t.nor) (k : Nat) : effective s k = effective t k := by
  unfold effective setting jValue activeHalf
  rw [hj, hn]

theorem trayMapGib_congr {s t : State} (hj : s.jnl = t.jnl) (hn : s.nor = t.nor) (n : Node) :
    trayMapGib s n = trayMapGib t n := by
  unfold trayMapGib flashLogical
  rw [effective_congr hj hn]

theorem flashMapUsed_nil {s : State} (h : s.pool.trays = []) : flashMapUsed s = 0 := by
  unfold flashMapUsed
  rw [h]
  simp

/-- The state with room for m bytes of flash map in the near tier. -/
def mapRoom (m : Nat) (s : State) : State := { s with near := { s.near with flashMap := m } }

/-- A first flash tray's map fits where the room is what it needs. -/
theorem mapFits (s : State) (ht : s.pool.trays = []) (n : Node) {m : Nat} (h : trayMapGib s n * 2 ^ 30 ≤ m) :
    flashMapUsed (mapRoom m s) + trayMapGib (mapRoom m s) n * 2 ^ 30 ≤ (mapRoom m s).near.flashMap := by
  rw [flashMapUsed_nil (s := mapRoom m s) ht, trayMapGib_congr (s := mapRoom m s) (t := s) rfl rfl, Nat.zero_add]
  exact h

/-- An admitted flash tray, node 2. -/
def flash2 : State := { up with partners := [(2, { aPartner with role := 2 })] }

/-- A flash tray at node 2. -/
def aTray (t : Tray) : State := { cmx with pool := { cmx.pool with trays := [(2, t)] } }

def aWrite : UnitWrite := { unit := 3, bytes := [], cipher := [], job := none }

def anErase (b n : Nat) : EraseBlock := { block := b, erases := BitVec.ofNat 32 n, reads := 0, hour := 0, valid := 0, state := 0 }

/-- A free erase block gives a slot. -/
theorem slotFree : (takeSlot 2 { tray (aTray { gather := [aWrite], blocks := [anErase 0 0] }) 2 with gather := [] }).1.isSome = true := by
  simp [takeSlot, freeBlock, aTray, tray, aGetD, aGet, leastBy, anErase, ebAt, List.range, List.range.loop]

/-- The table levels of Pen 1 below index 0 exist. -/
def cmxDir : State :=
  { cmx with pool := { cmx.pool with dir1 := [((1, 0), { v := true })], dir2 := [((1, 0), { v := true })] } }

/-- Extent 0 of Pen 1 as it is given, migrating. -/
def cmxMig (m : Migration) : State :=
  { cmx with pool := { cmx.pool with exts := [((1, 0), { v := true, st := .migrating })], migs := [m] } }
def aMig : Migration := { key := (1, 0), target := .near, node := 0, frame := some 1, src := ⟨.near, 0, 0⟩, keyId := 0 }

/-- The state with 3 GiB of control area beside the device's own structures and device space. -/
def ctlRoom (s : State) : State := { s with near := { s.near with ctl := Config.ctlOwn + 4294967296, dsSize := 1073741824 } }

theorem ctlFree_ctlRoom {s : State} (hu : s.near.ctlUsed = 0) (hl : s.sec.log = []) {n : Nat} (h : n ≤ 2147483648)
    (op : Nat) (d : Bool) (r : Req) : n ≤ ctlFree (takeRequest op d r (ctlRoom s)) := by
  have e : (ctlRoom s).near.ctl = Config.ctlOwn + 4294967296 ∧ (ctlRoom s).near.dsSize = 1073741824
      ∧ (ctlRoom s).near.ctlUsed = 0 ∧ (ctlRoom s).sec.log = [] := ⟨rfl, rfl, hu, hl⟩
  rw [ctlFree, takeRequest_near, takeRequest_sec, e.1, e.2.1, e.2.2.1, e.2.2.2, List.length_nil]
  generalize Config.ctlOwn = c
  exact Nat.le_trans h (by omega)

/-- Extents of Pen 1 as they are given. -/
def cmxExt (e : Extent) : State := { cmx with pool := { cmx.pool with exts := [((1, 0), e)] } }

/-- A region 5 of Pen 1 with versions 1 and 2, an open handle 9 of version 2. -/
def aRegion : Region := { size := 1, latest := 2, creator := 1, versions := [(1, []), (2, [])] }
def aHandle : Handle := { pen := 1, rpen := 1, region := 5, version := 2, holder := 1 }
def cmxReg : State :=
  { cmx with
    share := { cmx.share with regions := [((1, 5), aRegion)], handles := [(9, aHandle)] } }

/-- A Stream Window 3 over handle 9, of layers of one extent. -/
def aWindow : Window := { pen := 1, handle := 9, ext := (1, 0), stride := 1, layers := 4, depth := 2, wrap := false, staged := [0, 1] }
def cmxWin (w : Window) : State := { cmxReg with pool := { cmx.pool with windows := [(3, w)], exts := [((1, 0), { v := true, cls := .sealed })] } }

/-- Pen 1's lease of node 1 or of channel 1. -/
def cmxLease (h : Holder) (l : Lease) : State := { cmx with share := { cmx.share with leases := [((1, h), l)] } }

/-- Owner records, invalidations and held requests on the state of node 1. -/
def heldAt (op : BitVec 8) (p : Rx) (s : State) : State :=
  { s with pairs := [(1, { rxCum := 1, settled := 0, txNext := 1, held := [⟨op, p⟩] })] }
def anInval (ns : List Node) : Inval := { id := 5, rx := px [], waiting := ns }

/-- Tables of Pen 1 and expanders. -/
def aTable (b : Bool) : Table := { lens := zs 256 |>.map (·.toNat), tag := 1, retiring := b }
def cmxTab (b : Bool) : State := { cmx with work := { cmx.work with tables := [((1, 0), aTable b)] } }
def aSlot (n : Nat) : ExpSlot := { pen := 1, id := 0, gen := 1, lens := [], count := n }
def anExp : ExpRef := .gather 0 0
def cmxExp (x : Expander) (s : State) : State := { s with work := { s.work with expanders := [(anExp, x)] } }
def aBlock : ExpBlock := { slot := 0, pen := 1, desc := 0x11000, bytes := zs 8 }

/-- A group 5 of nodes 1 and 2. -/
def aMember (n : Node) : Member := { node := n, child := false, join := 0 }
def aGroup : Group :=
  { pen := 1, chan := 1, op := 0, fmt := 3, exact := false, rmode := 0, cls := 0, chunks := 1, start := 0, window := 8,
    minMembers := 1, parent := 0, lateThr := 50, scoreWin := 100, evictThr := 64, lowWindows := 3, evictN := 1, keyId := 0,
    evictInt := 10, members := [aMember 1, aMember 2], front := 0, slots := [((1, 0), 8)] }
def cmxGroup (x : Group) : State :=
  { cmx with
    groups := [(5, x)]
    units := (List.range 4).map fun i => ((Fin.ofNat 4 i, .reduce, 0), { st := .active }) }
def pxChunk : Rx := { px (zs 4096) with group := 5 }
def aChunk : Chunk := { shed := 1, unit := 0, step := 0, index := 0, opened := 0 }

/-- A group descriptor of one member in channel 0's host memory. -/
def descState : State :=
  { cmxGroup aGroup with
    groups := []
    sec := { cmx.sec with keys := [((1, 1), zs 64)] }
    host := [(.fn 0, [(0, 5), (8, 1), (20, 1), (35, 1), (64, 1)])] }

/-- Gathers and filters, and the pool access of one of their fetches. -/
def cmxNo : State := { cmx with routes := {} }
def aUnitReq (f : Bool) (u : Option UnitIx) : UnitReq :=
  { id := 2, src := .cmx 0x28 (px (zs 64)), filter := f, pen := 1, cls := 0, handle := 0, step := 0, session := 0,
    desc := zs 64, tail := [], shed := 0, unit := u }
def aJob (r : PoolRes) : Job := { id := 4, orig := .fetch 2, pen := 1, key := (1, 0), off := 0, len := 1, result := some r }
def cmxReqs (q : UnitReq) (js : List Job) : State :=
  { cmx with work := { cmx.work with reqs := [q] }, pool := { cmx.pool with jobs := js } }

/-- Match Table: partition 1 of a kind, with rows in bank 0. -/
def aRow : MRow := { key := 3, mask := BitVec.allOnes 160, prio := 0, pen := 1, part := 1, result := 7 }
def cmxBank (kind : BitVec 2) (rows : Nat) (b : Bank) : State :=
  { cmx with work := { cmx.work with parts := [(1, { kind, rows16 := rows })], banks := [(0, b)] } }
def loadState : State := { cmxBank 1 1 {} with host := [(.fn 1, [(0, 1), (1, 1)] ++ (List.range 20).map (fun i => (36 + i, 255)) ++ [(58, 16)])] }
def anOp : List Byte := [1, 1] ++ zs 34 ++ List.replicate 20 255 ++ zs 2 ++ [16] ++ zs 21
def delOp : List Byte := [2, 1] ++ zs 34 ++ List.replicate 20 255 ++ zs 2 ++ [16] ++ zs 21
def delState : State := cmxBank 1 1 { rows := [((1, 5), { aRow with key := 0 })] }
def loadReq : Req := { rv (toLe 4 1) with blen := 80 }
def loadTaken : State := takeRequest 0x62 true loadReq loadState
def loadEnd : Nat × Nat × State := loadOps loadReq (loadList loadTaken loadReq) 0 loadTaken
theorem loadTaken_eq : loadTaken = takeRequest 0x62 true loadReq loadState := by unfold loadTaken; rfl
theorem loadEnd_eq : loadOps loadReq (loadList loadTaken loadReq) 0 loadTaken = (loadEnd.1, loadEnd.2.1, loadEnd.2.2) := by
  unfold loadEnd; exact eta3 _

/-- Sessions. -/
def aSession (b : Bool) : Session := { gen := 1, pen := 1, deleting := b, image := zs 128 }
def cmxSess (b : Bool) : State := { cmx with work := { cmx.work with sessions := [(0, aSession b)], sessGen := [(0, 1)] } }
def sessReq : Req := rv (zs 6 ++ [1] ++ zs 121)
def sessRow : MRow :=
  { key := sessionKey sessReq.payload, mask := BitVec.allOnes 160, prio := 0, pen := 1, part := 1,
    result := (sessionId 0 { gen := 1, pen := 1, image := sessReq.payload.take 128 }).setWidth 64 }

/-- Yard 0 of Shed 0 runs a task of Pen 1 whose window is device-space page 16,384. -/
def y0 : YardRef := ⟨0, 0⟩
def aTask : Task := { id := 9, chan := 1, pen := 1, desc := toLe 4 1 ++ zs 16 ++ toLe 4 16384 ++ toLe 4 1 ++ zs 100 }
def aYard : Yard := { task := some aTask, vl := 2048 }
def yardOf (d : Yard) : State :=
  { cmx with
    units := [((0, .yard, 0), { st := .active }), ((0, .yard, 16), { st := .spareFree })]
    work := { cmx.work with yards := [(y0, d)], programs := [((1, 1), zs 64 ++ [0x10] ++ zs 15)] } }
def yardUp : State := yardOf aYard
def taskReq : Req := rv aTask.desc
def progState : State :=
  ctlRoom { cmx with host := [(.fn 1, [(0, 0x50), (1, 0x52), (2, 0x44), (3, 0x59), (4, 1), (8, 1)])] }
/-- The Yard's cache holds line 524,288 in a state. -/
def aLine (st : LineSt) : CLine := { st, data := zs 128, tag := some 1 }
def yardLine (st : LineSt) : State := { yardUp with coh := { yardUp.coh with caches := [((0, 524288), aLine st)] } }
theorem pair_of_fst {α β : Type} {x : α × β} {a : α} (h : x.1 = a) : x = (a, x.2) := by rw [← h]
def aPort (out closed : Bool) : StrmPort := { out, closed, desc := [4] ++ zs 7 ++ [2] ++ zs 55 }

/-- Frames on port 0, one of them a CMX packet to the address of node 1, and a state in which ports 0 and 1 are up. -/
def aFrame : Frame := { port := 0, dst := 2, src := 4, len := 64 }
def aFwd : FwdCmx :=
  { pen := 1, cls := 0, epoch := 0, request := true, src := 9, tag := 0, addr := 0, keyId := 0, group := 0, handle := 0, seq := 1 }
def aCmxFrame (ip : BitVec 128) : Frame := { aFrame with cmx := some aFwd, ipDst := some ip }
def netState (ps : List PortIx) : State :=
  { cmx with
    ports := [(0, { link := 2 }), (1, { link := 2 })]
    routes := { cmx.routes with current := { nodes := [⟨1, true, false, false, false, ps, 0, 1, 1⟩] } }
    sw := { cmx.sw with vlans := [(0, 3)] } }
def aQueued : QFrame := { body := .forward aFrame, len := 64, ingress := some 1 }
def grantState (q : PortQ) : State :=
  { netState [1] with sw := { cmx.sw with voqs := [((0, 0), { frames := [aQueued] })], ports := [(0, q)] } }
def gateOf (g : Gate) : State := { cmx with sw := { cmx.sw with gates := [(0, g)] } }
def portQOf (q : PortQ) : State := { cmx with sw := { cmx.sw with ports := [(0, q)] } }

/-- Node 1's address is the device's own; a bank has been lost with the entry of `aFrame`'s source address. -/
def localState : State :=
  { netState [] with routes := { cmx.routes with current := { nodes := [⟨1, true, true, false, false, [], 0, 1, 1⟩] } } }
def lostMacState : State :=
  { netState [1] with
    work := { cmx.work with parts := [(0, { kind := 1, rows16 := 1 })], banks := [(0, { lost := [macRow 4 0 7] })] } }

/-- Static MAC entries and learn events. -/
def macReq (sub : Byte) : Req × State :=
  ({ rq 0 ([0, 0, 2, 0] ++ toLe 4 1) with blen := 16 },
    { cmxBank 1 1 {} with
      work := { cmx.work with parts := [(0, { kind := 1, rows16 := 1 })], banks := [(0, {})] }
      host := [(.fn 0, [(5, 9), (11, sub)])] })
def macRow9 : MRow := macRow 9 0 7
def macStateOf (r : MRow) : State :=
  { (macReq 2).2 with work := { cmx.work with parts := [(0, { kind := 1, rows16 := 1 })], banks := [(0, { rows := [((0, 0), r)] })] } }
def macState : State := macStateOf macRow9
def aLearn : Learn := { mac := 9, vid := 0, port := 0 }
def learned (s : State) : State := { s with sw := { s.sw with learns := [(0, [aLearn])] } }
theorem some_of_map {α β : Type} {o : Option (α × β)} {a : α} (h : o.map Prod.fst = some a) (d : β) :
    o = some (a, (o.map Prod.snd).getD d) := by
  cases o with
  | none => simp at h
  | some x => simp at h; subst h; rfl
theorem some_getD {α : Type} {o : Option α} (h : o.isSome = true) (d : α) : o = some (o.getD d) := by
  cases o with
  | none => simp at h
  | some x => rfl

/-- Lines of device space and their caches. -/
def cohOf (l : Assoc (CacheIx × BitVec 32) CLine) : State := { cmx with coh := { cmx.coh with caches := l, tags := [(524288, 1)] } }
def cohBusy (l : Assoc (CacheIx × BitVec 32) CLine) : State :=
  { cmx with coh := { cmx.coh with caches := l, busy := [(524288, { req := .rdU 0, waiting := [1] })] } }
def cohBusyS (l : Assoc (CacheIx × BitVec 32) CLine) : State :=
  { cmx with coh := { cmx.coh with caches := l, busy := [(524288, { req := .rdS 0, waiting := [1] })] } }
/-- A fenced Yard whose flush of a line waits at the home. -/
def cohFlush : State :=
  { cmx with units := [((0, .yard, 0), { st := .fenced })]
             coh := { cmx.coh with caches := [((0, 524288), aLine .m)], queue := [(524288, .wb 0)] } }

/-- DMA channel 0 of Shed 0, its engine, and a program of two instructions. -/
def dmaOf (d : DCh) (e : DEng) : State :=
  { cmx with dma := { cmx.dma with chs := [(0, d)], engs := [(0, e)], programs := [((1, 1), zs 64)] } }
/-- The same, where both instructions of the program are a given one. -/
def dmaOn (op : BitVec 8) (f : DF) (d : DCh) (e : DEng) : State :=
  { dmaOf d e with dma := { (dmaOf d e).dma with programs := [((1, 1), toLe 32 (dmaWord op f).toNat ++ toLe 32 (dmaWord op f).toNat)] } }
def aChan : DCh := { st := .running, pen := 1, chan := 1, prog := 1, mask := 1 }
def aXfer (op : Nat) (f : DF) : DXfer := { op, f, src := 0, dst := 0 }
def lineXfer : DCh := { aChan with xfer := some { aXfer 1 {} with acc := some { place := .line 524288, len := 8 } } }

/-- Function 0's aperture entry 0 maps extent 0 of Pen 1, whose translation every Shed has cached. -/
def anEntry (w : Bool) : AprEntry := { v := true, write := w, keyId := 0, pen := 1, ext := 0 }
def aprState (w : Bool) : State :=
  { cmx with
    fns := [(0, { apr := [(0, anEntry w)] })]
    pool := { cmx.pool with etc := [(0, [(1, 0)]), (1, [(1, 0)]), (2, [(1, 0)]), (3, [(1, 0)])] } }
def aprTaken (w : Bool) : State := { aprState w with fresh := (aprState w).fresh + 1 }
theorem apr_passes {op : BitVec 8} {f : ShedIx → Rx} {s : State}
    (h : ∀ sh, translated s op (f sh) = false ∨ etcHit s (portShed (f sh).port) (rxKey s (f sh)) = true)
    (hg : ∀ sh, gates op (f sh) 0 s = .pass) (sh : ShedIx) (w : Nat) : gates op (f sh) w s = .pass :=
  (gates_cached (h sh) w).trans (hg sh)

/-- Pen 1 in a state of its teardown. -/
def penSt (q : Pen) : State := { penUp with pens := [(1, q)] }

/-- The Daymark with one event queued, and a replay that has room for a record. -/
def anEvent : DmkEvent := { source := 7, code := 3, island := 0 }
def aTrigger : Trigger := { oneshot := true, freeze := true, source := 7, code := 3, count := 1, offsets := [] }
def dmkOf (d : Daymark) : State := { up with dmk := { d with queue := [anEvent] } }
def feedReq : Req := { rq 0 [4] with blen := 32 }
def feedState : State :=
  { up with ijn := { area := 4096, state := .replaying, total := 64 }, host := [(.fn 0, [(4, 6)])] }

end Sys2Proof.Tests
end

