-- ==== Sys2Proof/Tests/Slice0.lean ====
section
/-! SUPPORT. The package's own tests: ill-formed commands that the checks refuse, instruction words written out from the
encodings of R236 and R311, the spec's worked examples, and single steps. -/

set_option Elab.async false

namespace Sys2Proof.Tests

open Sys2Proof Sys2Proof.Machine

/-! ## Well-formedness: one ill-formed term for each check -/

theorem test_wf_packet : (Instr.read (px [])).wf = true ∧ (Instr.read { px [] with payload := [0] }).wf = false ∧
    (Instr.read { px [] with l2 := { udpLen := 65576 }, payload := zs 3 }).wf = false := by decide
theorem test_wf_slot : (Instr.echo (rq 0 (zs 232))).wf = true ∧ (Instr.echo (rq 0 (zs 233))).wf = false := by decide +kernel
theorem test_wf_location : (Instr.patrolRead 0 12582912 .clean false).wf = false ∧
    (Instr.locationRetireCopyDone 0 12582912).wf = false := by decide
theorem test_wf_expander : (Instr.expanderEnqueue (.yard y0) 1 0 0 (zs 4097)).wf = false := by decide +kernel
theorem test_wf_match : (Instr.matchHoleRestore 0 0 67584).wf = false ∧ (Instr.matchRowRewrite 0 67584 0).wf = false := by
  decide
theorem test_wf_frame : (Instr.frameReceive { port := 0, dst := 0, src := 0, len := 63 } 0).wf = false ∧
    (Instr.frameReceive { port := 0, dst := 0, src := 0, len := 64 } 0).wf = true := by decide
theorem test_wf_line : (Instr.wrFull 0 0 (zs 127)).wf = false ∧ (Instr.wrPart 0 127 [0, 0]).wf = false ∧
    (Instr.wrPart 0 127 []).wf = false ∧ (Instr.wrPart 0 127 [0]).wf = true := by decide +kernel
theorem test_wf_notice : (Instr.noticePost 0 1 (zs 497)).wf = false := by decide +kernel
theorem test_wf_calib : (Instr.calibLanternDone 0 { slices := [], laserA := 0, laserB := 0 }).wf = false := by decide
theorem test_wf_codewords : (Instr.llrReplay 0 1 2).wf = false := by decide
theorem test_wf_lldp : (Instr.lldpReceive 0 (zs 256) [] none 0).wf = false := by decide +kernel
theorem test_wf_aperture : (Instr.apertureRead 0 0 0).wf = false ∧ (Instr.apertureRead 0 0 4097).wf = false ∧
    (Instr.apertureWrite 0 0 []).wf = false := by decide
theorem test_wf_access : (Instr.registerWrite .keeper 0 3 0).wf = false ∧ (Instr.registerRcRead .keeper 0x3FFFFFF 2).wf = false ∧
    (Instr.loRegisterRead .keeper 0 16).wf = false := by decide
theorem test_wf_ckn : (Instr.mkpduReceive 0 (zs 33) 0 0 none).wf = false := by decide

/-! ## Words written out from the encodings -/

/-- R236: AUX, reserved, IMMB, RND, FMT, RC, RB, RA, RD, PRED, OP, GRP from the top; IMM above them. SADD s3, s1, s2. -/
theorem test_word_sadd : yardDecode y0
    (0#64 ++ 0b0000000000000000_00000_0_00_0000_00000_00010_00001_00011_0000_00000001_0000#64) =
      some (.sadd y0 { rd := 3, ra := 1, rb := 2 }) := by decide +kernel
/-- SSHL s4, s5, 7: IMMB is bit 42. -/
theorem test_word_sshl : yardDecode y0
    (7#64 ++ 0b0000000000000000_00000_1_00_0000_00000_00000_00101_00100_0000_00001100_0000#64) =
      some (.sshl y0 { rd := 4, ra := 5, immb := true, imm := 7 }) := by decide +kernel
/-- VADD.H16 v1, v2, v3 under p5: PE is bit 15, FMT 2. -/
theorem test_word_vadd : yardDecode y0
    (0#64 ++ 0b0000000000000000_00000_0_00_0010_00000_00011_00010_00001_1101_00000001_0001#64) =
      some (.vadd y0 { rd := 1, ra := 2, rb := 3, fmt := 2, pred := 0b1101 }) := by decide +kernel
/-- MST with stochastic rounding, RND 2. -/
theorem test_word_mst : yardDecode y0
    (0#64 ++ 0b0000000000000000_00000_0_10_0000_00000_00000_00001_00000_0000_00010000_0010#64) =
      some (.mst y0 { ra := 1, rnd := 2 }) := by decide +kernel
/-- STRM.CLOSE with a register. -/
theorem test_word_strm : yardDecode y0
    (0#64 ++ 0b0000000000000000_00000_0_00_0000_00000_00000_00111_00000_0000_00000100_0011#64) =
      some (.strmClose y0 { ra := 7 }) := by decide +kernel
/-- STEP of the form 2: AUX is bits 63 to 48. -/
theorem test_word_step : yardDecode y0
    (1#64 ++ 0b0000000000000010_00000_0_00_0000_00000_00000_00000_00000_0000_00000010_0100#64) =
      some (.stepAdd y0 { aux := 2, imm := 1 }) := by decide +kernel
/-- OP 0x05 of the scalar group and GRP 5 are reserved. -/
theorem test_word_reserved : yardDecode y0 0x050#128 = none ∧ yardDecode y0 0x015#128 = none := by decide +kernel

/-- R311: FILL of 64 B at 0x1000 of device space with a pattern, DSTRIDE −1; byte 0 is lowest. -/
theorem test_word_fill : dmaDecode 3
    (0xFFFFFFFF#32 ++ 0#32 ++ 0x1000#64 ++ 0x1122334455667788#64 ++ 64#32 ++ 0#8 ++ 0#8 ++ 0#8 ++ 0x02#8) =
      some (.dmaFill 3 { length := 64, src := 0x1122334455667788, dst := 0x1000, dstride := 0xFFFFFFFF }) := by decide +kernel
/-- MOVE from the pool under key 9 to host memory. -/
theorem test_word_move : dmaDecode 0
    (0#32 ++ 0#32 ++ 0x20#64 ++ 0x10#64 ++ 1#32 ++ 9#8 ++ 0#8 ++ 0b0000_10_01#8 ++ 0x01#8) =
      some (.dmaMove 0 { length := 1, src := 0x10, dst := 0x20, keyId := 9, sspace := 1, dspace := 2 }) := by decide +kernel
/-- The table gives no row bits. -/
theorem test_no_table_word : decodeTableWord 0 0 = none ∧ State.reset.withFetchWord 16 1 = State.reset := by decide +kernel

/-! ## The spec's worked examples -/

/-- 05, after R142: the scale word 0xFBF7 holds −5 and 247. -/
theorem test_scale_word : scaleE 0xFBF7 = -5 ∧ scaleM 0xFBF7 = 247 ∧ mkScale (-5) 247 = 0xFBF7 := by decide +kernel
/-- 05, "one requantisation": 1,000,000, −333,333 and 7 at f = −10 to EBI8, in modes 0 and 1. -/
theorem test_requant_modes :
    requant ([1000000, -333333, 7] ++ List.replicate 29 0) (-10) 127 0 (fun _ => 0) =
      { e := -5, m := 247, q := [127, -42, 0] ++ List.replicate 29 0, sat := false } ∧
    (requant ([1000000, -333333, 7] ++ List.replicate 29 0) (-10) 127 1 (fun _ => 0)).q = [126, -42, 0] ++ List.replicate 29 0 := by
  decide +kernel
/-- The same example in mode 2, at each threshold and one below it. -/
theorem test_requant_stochastic :
    roundMode 2 1000000 7904 31575 = 127 ∧ roundMode 2 1000000 7904 31574 = 126 ∧
    roundMode 2 (-333333) 7904 11318 = -42 ∧ roundMode 2 (-333333) 7904 11317 = -43 ∧
    roundMode 2 7 7904 65478 = 1 ∧ roundMode 2 7 7904 65477 = 0 := by decide +kernel
/-- 05, "Fast mode depends on order": P, S1, S2 and S1, S2, P. -/
theorem test_fast_order :
    let add (x : Fast) (b : Int × Int × Nat) := fastAdd x [b.1 * b.2.2] b.2.1 b.2.2
    let run (l : List (Int × Int × Nat)) := l.foldl add {}
    run [(127, 20, 255), (125, 5, 160), (125, 5, 160)] = { empty := false, g := 20, a := [32387] } ∧
    run [(125, 5, 160), (125, 5, 160), (127, 20, 255)] = { empty := false, g := 20, a := [32386] } := by decide +kernel
/-- 05, after R154: a coded block of 3,300 B under table 2. -/
theorem test_side_descriptor : codedDesc 3300 2 false = 0x00004CE4 ∧ descClen 0x4CE4 = 3300 ∧ descTable 0x4CE4 = 2 := by
  decide +kernel
/-- 00, after R6: 4,096 as a 16-bit field in mailbox memory is 0x00, 0x10. -/
theorem test_little_endian : toLe 2 4096 = [0x00, 0x10] := by decide +kernel

/-! ## Single steps -/

/-- The front command of the queue runs; an empty queue idles. -/
theorem test_step_front :
    (match step { up with pending := [.refclkAonLoss, .supplyResume] } with
      | .next t => decide (t.pending = [.supplyResume]) | _ => false) = true := by decide +kernel
theorem test_step_idle : step State.reset = .next State.reset := rfl
/-- R453: a sag stops non-volatile writes and is counted. -/
theorem test_sag : (match exec (.supplySag true false) up with
    | .next t => decide (t.jnl.nvLock = true ∧ t.power.brnCnt = 1) | _ => false) = true := by decide +kernel
/-- R13: from Pen 2, extent 0b1101, the fold is 2 xor 1 xor 3 = 0. -/
theorem test_home_slot : extentSlot 2 0b1101 = 0 ∧ extentSlot 2 0b01 = 3 ∧ lineSlot 0b1110 = 1 := by decide +kernel
/-- R325: what is written to host memory is read back, and a zero byte is not listed. -/
theorem test_host_memory : hostRead (hostWrite 0 10 [1, 0, 2] up) 0 10 3 = [1, 0, 2] ∧
    (hostWrite 0 10 [0] up).host.all (fun h => h.2.isEmpty) = true := by decide +kernel

end Sys2Proof.Tests
end

