-- ==== Sys2Proof/Tests/Witness1.lean ====
section
/-! SUPPORT. Witnesses: for each clause of the statements named, a state and operands that meet its hypotheses. -/

set_option linter.unusedVariables false
set_option Elab.async false

namespace Sys2Proof.Tests

open Sys2Proof Sys2Proof.Machine

/-- The hypotheses of SuppliesAndTemperature are met, clause by clause. -/
theorem wit_suppliesAndTemperature :
    (∃ (a n : Bool) (s : State), (a || n) = true ∧ s.power.aonLow = false ∧ s.power.nvLow = false) ∧
    (∃ s : State, (s.power.aonLow || s.power.nvLow) = true ∧ s.glb.bootSrc ≠ 2) ∧
    (∃ (sh : ShedIx) (s : State), sh ∈ s.power.avsRetry) :=
  ⟨⟨true, false, up, by decide +kernel⟩,
   ⟨{ up with power := { up.power with nvLow := true } }, by decide +kernel⟩,
   ⟨0, { up with power := { up.power with avsRetry := [0] } }, by decide +kernel⟩⟩

/-- The hypotheses of ReferencesAndInputs are met, clause by clause. -/
theorem wit_referencesAndInputs :
    (∃ (i : Fin 8) (s : State), (island s (shcOf (shedOf (i.val / 2)))).refAlt = decide (i.val % 2 = 1) ∧ pairedRef i ∉
      s.power.refLost) ∧
    (∃ (i : Fin 8) (s : State), (island s (shcOf (shedOf (i.val / 2)))).refAlt = decide (i.val % 2 = 0) ∧ pairedRef i ∉
      s.power.refLost) ∧
    (∃ (i : Fin 8) (s : State), pairedRef i ∈ s.power.refLost) ∧
    (∃ s : State, (island s 0).refAlt = false) ∧
    (∃ (i : Fin 38) (l : Bool) (s : State), 22 ≤ i.val ∧ (input s i).pin ≠ l ∧ (input s i).state = .normal) ∧
    (∃ (i : Fin 38) (s : State), 22 ≤ i.val ∧ (input s i).state = .normal ∧ chatterLimit s < (input s i).edges.toNat) ∧
    (∃ (i : Fin 38) (s : State), (input s i).edges.toNat ≤ chatterLimit s) ∧
    (∃ (i : Fin 38) (s : State), 22 ≤ i.val ∧ (input s i).state = .chatter) ∧
    (∃ (l : StackIx) (s : State), (input s (elsInput l)).state = .normal ∧ (input s (elsInput l)).pin = false) ∧
    (∃ (l : StackIx) (s : State), (input s (elsInput l)).state = .stuck ∧ (input s (elsInput l)).pin = true ∧ (input s (elsInput
      l)).level = true) :=
  ⟨⟨0, up, by decide +kernel⟩,
   ⟨1, up, by decide +kernel⟩,
   ⟨1, { up with power := { up.power with refLost := [0] } }, by decide +kernel⟩,
   ⟨up, by decide +kernel⟩,
   ⟨22, true, up, by decide +kernel⟩,
   ⟨22, { up with inputs := [(22, { edges := 2047 })] }, by decide +kernel⟩,
   ⟨22, up, by decide +kernel⟩,
   ⟨22, { up with inputs := [(22, { state := .chatter })] }, by decide +kernel⟩,
   ⟨0, { up with inputs := [(elsInput 0, {})] }, by decide +kernel⟩,
   ⟨0, { up with inputs := [(elsInput 0, { state := .stuck, pin := true, level := true })] }, by decide +kernel⟩⟩

/-- The hypotheses of ChecksAndInfoCommands are met, clause by clause. -/
theorem wit_checksAndInfoCommands :
    (∃ (r : Req) (s : State), takesNow 0x1 r s = true ∧ requestStatus s (cmdEcho r) false r ≠ stOk) ∧
    (∃ (r : Req) (s : State), takesNow 0x10 r s = true ∧ requestStatus s cmdPenCreate false r ≠ stOk) ∧
    (∃ (r : Req) (s : State), takesNow 0xC1 r s = true ∧ requestStatus s cmdDaymarkRead false r ≠ stOk) ∧
    (∃ (r : Req) (s : State), takesNow 0x13 r s = true ∧ requestStatus s cmdPenKeyInstall true r ≠ stOk) ∧
    (∃ (r : Req) (s : State), takesNow 0x1 r s = false) ∧
    (∃ (r : Req) (s : State), takesNow 0x10 r s = false) ∧
    (∃ (r : Req) (s : State), Accepts (cmdEcho r) false r s) ∧
    (∃ (r : Req) (s : State), Accepts cmdGetInfo false r s) ∧
    (∃ (r : Req) (s : State), Accepts (cmdGetHealth 0) false r s) ∧
    (∃ (r : Req) (s : State), ∃ p, Accepts (cmdGetHealth 1) false r s ∧ aGet s.partners (fieldLe 16 r.payload 4 4) = some p) :=
  ⟨⟨{ rq 0 [1] with flags := 1 }, up, by decide +kernel⟩,
   ⟨{ rq 0 [1] with flags := 1 }, up, by decide +kernel⟩,
   ⟨{ rq 0 [1] with flags := 1 }, up, by decide +kernel⟩,
   ⟨{ rq 0 [1] with flags := 1 }, up, by decide +kernel⟩,
   ⟨rq 0 [], State.reset, by decide +kernel⟩,
   ⟨rq 0 [], State.reset, by decide +kernel⟩,
   ⟨rq 0 [7], up, ⟨by decide +kernel, by decide +kernel⟩⟩,
   ⟨rq 0 [], up, ⟨by decide +kernel, by decide +kernel⟩⟩,
   ⟨rq 0 (zs 8), up, ⟨by decide +kernel, by decide +kernel⟩⟩,
   ⟨rq 0 ([1, 0, 0, 0, 7, 0, 0, 0]), { up with partners := [(7, aPartner)] }, aPartner, ⟨by decide +kernel, by decide +kernel⟩,
     by decide +kernel⟩⟩

/-- The hypotheses of PostedResponse are met, clause by clause. -/
theorem wit_postedResponse :
    (∃ (p : Reply) (st : Nat) (res : List Byte) (s : State), (chan s p.chan).gen ≠ p.gen) ∧
    (∃ (p : Reply) (st : Nat) (res : List Byte) (s : State), (chan s p.chan).gen = p.gen ∧ p.replayed = false) :=
  ⟨⟨{ chan := 0, gen := 1, op := 1, tag := 0 }, 0, [], up, by decide +kernel⟩,
   ⟨{ chan := 0, gen := 0, op := 1, tag := 0 }, 0, [], up, by decide +kernel⟩⟩

/-- The hypotheses of DoorbellsAndBeat are met, clause by clause. -/
theorem wit_doorbellsAndBeat :
    (∃ (f : FnIx) (c : ChanIx) (bits : W32) (now : Nat) (s : State), f.val = c.val ∧ s.kpr.state ≠ .running ∧ s.glb.boot ≠
      .recovery ∧ s.ijn.state ≠ .recording) ∧
    (∃ (f : FnIx) (c : ChanIx) (bits : W32) (now : Nat) (s : State), f.val = c.val ∧ s.kpr.state = .running ∧ s.ijn.state ≠
      .recording ∧ (chan s c).dbIn = 0 ∧ bits.getLsbD 0 = false ∧ bits.getLsbD 1 = false) ∧
    (∃ (c : ChanIx) (s : State), (chan s c).throttled = true ∧ ringsOk (chan s c) = true ∧ serves s 0 c = true ∧ (chan s
      c).reqProd = (chan s c).reqCons) ∧
    (∃ (c : ChanIx) (s : State), (chan s c).throttled = true ∧ s.kpr.state = .running ∧ (chan s c).dbIn = 0) ∧
    (∃ (f : FnIx) (c : ChanIx) (m : W32) (s : State), f.val = c.val ∧ (∀ b < 32, (chan s c).dbOut.getLsbD b = true → (chan s
      c).dbOutMask.getLsbD b = true → m.getLsbD b = true)) ∧
    (∃ s : State, s.kpr.state = .running) ∧
    (∃ (c : ChanIx) (k : BitVec 16) (body : List Byte) (s : State), (chan s c).ntcKinds.getLsbD k.toNat = true ∧ s.ijn.state =
      .idle ∧ s.kpr.state = .running ∧ (chan s c).held = [] ∧ ringRoom (chan s c) = true) :=
  ⟨⟨0, 0, 1, 0, State.reset, by decide +kernel⟩,
   ⟨0, 0, 4, 0, up, by decide +kernel⟩,
   ⟨1, { penUp with chans := [(1, { throttled := true })] }, by decide +kernel⟩,
   ⟨1, { up with chans := [(1, { throttled := true })] }, by decide +kernel⟩,
   ⟨0, 0, 3, up, by decide +kernel⟩,
   ⟨up, by decide +kernel⟩,
   ⟨0, 1, [], { up with chans := [(0, { ringEntries := 16 })] }, by decide +kernel⟩⟩

/-- The hypotheses of PensAndKeys are met, clause by clause. -/
theorem wit_pensAndKeys :
    (∃ (r : Req) (s : State) (p : BitVec 12), Accepts cmdPenCreate false r s ∧ leAt r.payload 0 2 = p.toNat ∧ p ≠ 0 ∧ (∀ c ∈
      maskChannels (leAt r.payload 16 16), c % 64 ≠ 0 ∧ (chan s (Fin.ofNat 160 c)).bound = false) ∧ (pen s p).state = .free) ∧
    (∃ (r : Req) (s : State), Accepts cmdPenKeyInstall true r s ∧ keyFormatOk (inBuf s r) = true ∧ beAt (inBuf s r) 1 1 = 1 ∧
      r.blen.toNat = 1688 ∧ keyNamesOk (inBuf s r) r.payload = true ∧ keyInstalled s (BitVec.ofNat 12 (leAt r.payload 0 2))
      (BitVec.ofNat 8 (leAt r.payload 2 1)) = false ∧ s.sec.keys.length < 16384 ∧ (penKeys s (BitVec.ofNat 12 (leAt r.payload 0
      2))).length < 16) ∧
    (∃ (r : Req) (s : State), Accepts cmdIdentityGet false r s ∧ 6056 ≤ r.blen.toNat ∧ r.bufOk = true) ∧
    (∃ (r : Req) (s : State), Accepts cmdAttestQuote false r s ∧ callerClass s r.chan = .admin ∧ leAt r.payload 0 2 = 0xFFFF ∧
      1344 + 80 * s.sec.log.length ≤ r.blen.toNat ∧ r.bufOk = true) ∧
    (∃ s : State, s.kpr.state = .running ∧ s.jnl.runRaise = true ∧ s.power.aonLow = false ∧ s.power.nvLow = false) ∧
    (∃ (p : PortIx) (s : State) (c : Secy), s.kpr.state = .running ∧ (port s p).secy = some c ∧ c.server = true) ∧
    (∃ (p : PortIx) (ckn : List Byte) (mi : BitVec 96) (prio : BitVec 8) (sak : (Option : _) (List Byte)) (s : State) (c :
      Secy), s.kpr.state = .running ∧ (port s p).macsec = true ∧ (∃ k ∈ s.sec.caks, k.ckn = ckn) ∧ (port s p).secy = some c ∧
      (port s p).mka.toNat < prio.toNat) :=
  ⟨⟨rq 0 ([2, 0] ++ zs 30), up, 2, ⟨by decide +kernel, by decide +kernel⟩, by decide +kernel⟩,
   ⟨{ rq 0 [1, 0, 5, 1] with blen := 1688 }, { penUp with host := [(.fn 0, [(0, 1), (1, 1), (3, 1), (4, 5)])] },
     ⟨by decide +kernel, by decide +kernel⟩, by decide +kernel⟩,
   ⟨{ rq 0 [] with blen := 6056 }, up, ⟨by decide +kernel, by decide +kernel⟩, by decide +kernel⟩,
   ⟨{ rq 0 ([0xFF, 0xFF] ++ zs 34) with blen := 1344 }, up, ⟨by decide +kernel, by decide +kernel⟩, by decide +kernel⟩,
   ⟨{ up with jnl := { up.jnl with runRaise := true } }, by decide +kernel⟩,
   ⟨0, { up with ports := [(0, { secy := some aSecy })] }, aSecy, by decide +kernel⟩,
   ⟨0, [1], 0, 255, none,
     { up with sec := { up.sec with caks := [{ keyId := 1, ckn := [1], key := [] }] }, ports := [(0, { macsec := true, secy := some aSecy })] },
     aSecy, by decide +kernel⟩⟩

/-- The hypotheses of DaymarkAndJournalCommands are met, clause by clause. -/
theorem wit_daymarkAndJournalCommands :
    (∃ (r : Req) (s : State), Accepts (cmdArm 0) true r s ∧ leAt r.payload 1 1 ≤ 31 ∧ leAt r.payload 2 1 ≤ 3 ∧ leAt r.payload 12
      1 ≤ 64 ∧ leAt r.payload 3 1 = 0 ∧ r.blen.toNat = 4 * leAt r.payload 12 1 ∧ aGet s.dmk.triggers (Fin.ofNat 32 (leAt
      r.payload 1 1)) = none ∧ (∀ o ∈ snapOffsets (inBuf s r) (leAt r.payload 12 1), o.toNat % 4 = 0 ∧ snapForbidden o.toNat =
      false)) ∧
    (∃ (r : Req) (s : State), Accepts (cmdArm 1) false r s ∧ leAt r.payload 1 1 ≤ 31) ∧
    (∃ (r : Req) (s : State), Accepts (cmdArm 2) false r s) ∧
    (∃ (r : Req) (s : State), Accepts (cmdArm 3) false r s) ∧
    (∃ (r : Req) (s : State), Accepts (cmdArm 4) false r s) ∧
    (∃ (r : Req) (s : State), Accepts (cmdArm 5) false r s ∧ leAt r.payload 1 1 ≤ 1) ∧
    (∃ (r : Req) (s : State), Accepts cmdDaymarkRead false r s ∧ leAt r.payload 0 4 % 64 = 0 ∧ leAt r.payload 0 4 + leAt
      r.payload 4 4 ≤ 4194304 ∧ leAt r.payload 4 4 ≤ r.blen.toNat ∧ r.bufOk = true) ∧
    (∃ (r : Req) (s : State), Accepts (cmdReplay 0) false r s ∧ s.ijn.state = .idle ∧ s.ijn.area ≠ 0) ∧
    (∃ (r : Req) (s : State), Accepts (cmdReplay 1) false r s ∧ s.ijn.state = .replaying) ∧
    (∃ (r : Req) (s : State), Accepts (cmdReplay 2) false r s ∧ s.ijn.state = .idle ∧ r.bufOk = true) ∧
    (∃ (r : Req) (s : State), Accepts (cmdReplay 3) false r s ∧ s.ijn.state = .idle) ∧
    (∃ (r : Req) (s : State), Accepts (cmdReplay 5) false r s ∧ s.ijn.state ≠ .recording) :=
  ⟨⟨rq 0 ([0, 1] ++ zs 11), up, ⟨by decide +kernel, by decide +kernel⟩, by decide +kernel, by decide +kernel, by decide +kernel,
     by decide +kernel, by decide +kernel, by decide +kernel, fun o (ho : o ∈ ([] : List W32)) => nomatch ho⟩,
   ⟨rq 0 [1, 31], up, ⟨by decide +kernel, by decide +kernel⟩, by decide +kernel⟩,
   ⟨rq 0 [2], up, ⟨by decide +kernel, by decide +kernel⟩⟩,
   ⟨rq 0 [3], up, ⟨by decide +kernel, by decide +kernel⟩⟩,
   ⟨rq 0 [4], up, ⟨by decide +kernel, by decide +kernel⟩⟩,
   ⟨rq 0 [5, 1], up, ⟨by decide +kernel, by decide +kernel⟩, by decide +kernel⟩,
   ⟨{ rq 0 (zs 4 ++ [64, 0, 0, 0]) with blen := 64 }, up, ⟨by decide +kernel, by decide +kernel⟩, by decide +kernel⟩,
   ⟨rq 0 [0], { up with ijn := { area := 4096 } }, ⟨by decide +kernel, by decide +kernel⟩, by decide +kernel⟩,
   ⟨rq 0 [1], { up with ijn := { area := 4096, state := .replaying } }, ⟨by decide +kernel, by decide +kernel⟩,
     by decide +kernel⟩,
   ⟨{ rq 0 ([2] ++ zs 11) with blen := 64 }, up, ⟨by decide +kernel, by decide +kernel⟩, by decide +kernel⟩,
   ⟨rq 0 ([3] ++ zs 11), up, ⟨by decide +kernel, by decide +kernel⟩, by decide +kernel⟩,
   ⟨rq 0 [5], up, ⟨by decide +kernel, by decide +kernel⟩, by decide +kernel⟩⟩

/-- The hypotheses of LevelsAndPcieLinks are met, clause by clause. -/
theorem wit_levelsAndPcieLinks :
    (∃ s : State, levelOf s = s.glb.svc) ∧
    (∃ s : State, levelRank s.glb.svc ≤ levelRank (levelOf s)) ∧
    (∃ s : State, levelRank (levelOf s) < levelRank s.glb.svc) ∧
    (∃ s : State, levelRank (levelOf s) < levelRank s.glb.svc) ∧
    (∃ (dg : Bool) (s : State), islRunning s 3 = true ∧ s.pcieA.perst = false ∧ s.glb.boot ≠ .rom) ∧
    (∃ (dg : Bool) (s : State), islRunning s 4 = true ∧ s.pcieB.perst = false ∧ s.glb.boot ≠ .rom) :=
  ⟨⟨State.reset, by decide +kernel⟩,
   ⟨State.reset, by decide +kernel⟩,
   ⟨up, by decide +kernel⟩,
   ⟨up, by decide +kernel⟩,
   ⟨false, up, by decide +kernel⟩,
   ⟨false, up, by decide +kernel⟩⟩

/-- The hypotheses of Resets are met, clause by clause. -/
theorem wit_resets :
    (∃ (b : BootFacts) (s : State), b.secOk = false) ∧
    (∃ (b : BootFacts) (s : State), b.secOk = true ∧ b.norOk = false) ∧
    (∃ (f : FnIx) (b : BootFacts) (s : State), f.val % 64 = 0) ∧
    (∃ (f : FnIx) (sh : ShedIx) (s : State), f.val % 64 = 0 ∧ s.glb.warm = false ∧ s.glb.shedRst = false ∧ s.glb.shedResetOn =
      none ∧ s.kpr.state = .running) ∧
    (∃ (f : FnIx) (sh : ShedIx) (s : State), f.val % 64 = 0 ∧ s.glb.warm = false ∧ s.glb.shedRst = true ∧ s.glb.shedSel ≠ sh ∧
      s.glb.shedResetOn = none) :=
  ⟨⟨{ pins := 0, secOk := false }, up, by decide +kernel⟩,
   ⟨{ pins := 0, norOk := false }, up, by decide +kernel⟩,
   ⟨0, { pins := 0 }, up, by decide +kernel⟩,
   ⟨0, 1, up, by decide +kernel⟩,
   ⟨64, 1, { up with glb := { up.glb with shedRst := true, shedSel := 0 } }, by decide +kernel⟩⟩

/-- The hypotheses of BringUp are met, clause by clause. -/
theorem wit_bringUp :
    (∃ (b : BringupFacts) (s : State), s.glb.boot = .firmware ∧ s.kpr.state = .running) ∧
    (∃ (b : BringupFacts) (s : State) (sh : ShedIx), shedPowered b s sh = false) ∧
    (∃ (b : BringupFacts) (s : State) (sh : ShedIx), ∃ (i : IslandIx), shedPowered b s sh = true ∧ (island s (shcOf sh)).state =
      .off ∧ b.shcOk.getLsbD sh.val = false) ∧
    (∃ (sh : ShedIx) (s : State), s.glb.boot = .firmware ∧ sh ∉ s.glb.railAbsent) :=
  ⟨⟨{ rails := 15, refA := 15, refB := 15, shcOk := 15, yrdOk := 15, lniOk := 15, stacksOk := 0 },
     { up with glb := { up.glb with boot := .firmware } }, by decide +kernel⟩,
   ⟨{ rails := 0, refA := 15, refB := 15, shcOk := 15, yrdOk := 15, lniOk := 15, stacksOk := 0 }, up, 0, by decide +kernel⟩,
   ⟨{ rails := 15, refA := 15, refB := 15, shcOk := 0, yrdOk := 15, lniOk := 15, stacksOk := 0 },
     { State.reset with glb := { State.reset.glb with boot := .firmware } }, 0, 5, by decide +kernel⟩,
   ⟨0, { up with glb := { up.glb with boot := .firmware } }, by decide +kernel⟩⟩

/-- The hypotheses of IslandsAndKeeper are met, clause by clause. -/
theorem wit_islandsAndKeeper :
    (∃ (i : IslandIx) (s : State), ((island s i).state = .running ∨ (island s i).state = .starting)) ∧
    (∃ (i : IslandIx) (b : BitVec 2) (s : State), (island s i).state = .starting ∧ islRunning s 0 = true ∧ (∀ j, parentIsland i
      = some j → islRunning s j = true)) ∧
    (∃ (n : Fin 4) (now : Nat) (s : State), slotMoving s n = true ∧ islRunning s (shcOf (homeMap s n)) = true) ∧
    (∃ (now : Nat) (s : State), s.kpr.state = .running ∧ (s.kpr.expiries.filter fun t => now < t + 600000000000).length < 2) ∧
    (∃ (now : Nat) (ok : Bool) (s : State), s.kpr.state = .running ∧ 2 ≤ (s.kpr.expiries.filter fun t => now < t +
      600000000000).length) ∧
    (∃ s : State, s.kpr.state = .restarting) :=
  ⟨⟨5, up, by decide +kernel⟩,
   ⟨5, 0,
     { up with isl := [(0, { state := .running }), (1, { state := .running }), (2, { state := .running }), (5, { state := .starting })] },
     by decide +kernel⟩,
   ⟨0, 0, { up with glb := { up.glb with moving := [0] } }, by decide +kernel⟩,
   ⟨0, up, by decide +kernel⟩,
   ⟨0, true, { up with kpr := { state := .running, expiries := [0, 0] } }, by decide +kernel⟩,
   ⟨{ up with kpr := { state := .restarting } }, by decide +kernel⟩⟩

end Sys2Proof.Tests
end

