-- ==== Sys2Proof/Tests/Witness2.lean ====
section
/-! SUPPORT. Witnesses: for each clause of the statements named, a state and operands that meet its hypotheses. -/

set_option linter.unusedVariables false
set_option Elab.async false

namespace Sys2Proof.Tests

open Sys2Proof Sys2Proof.Machine

/-- The hypotheses of ConfigurationJournal are met, clause by clause. -/
theorem wit_configurationJournal :
    (∃ (r : Req) (s : State) (row : SettingRow), Accepts (cmdConfigGet r) false r s ∧ settingRow (reqKey r) = some row ∧
      localLen (reqKey r) = none ∧ jValue s (reqKey r) = none) ∧
    (∃ (r : Req) (s : State), Accepts (cmdConfigSet r) true r s ∧ reqKey r = 0xFFFF0001 ∧ leAt r.payload 4 4 = 4 ∧ (chan s
      r.chan).held = [] ∧ ((leAt r.payload 8 4 = 0 ∨ (isPow2 (leAt r.payload 8 4) = true ∧ 16 ≤ leAt r.payload 8 4 ∧ leAt
      r.payload 8 4 ≤ 65536)))) ∧
    (∃ (r : Req) (s : State), Accepts (cmdConfigSet r) true r s ∧ reqKey r = 0x20F00 ∧ leAt r.payload 4 4 = 8 ∧ 8 ≤ leAt
      r.payload 8 8 ∧ leAt r.payload 8 8 ≤ 1024 ∧ r.payload.length = 16 ∧ s.jnl.nvLock = false ∧ liveAfter s 0x20F00
      (r.payload.drop 8) ≤ 4194304) ∧
    (∃ (r : Req) (s : State), Accepts (cmdConfigSet r) true r s ∧ reqKey r = 0x20F00 ∧ leAt r.payload 4 4 = 8 ∧ 8 ≤ leAt
      r.payload 8 8 ∧ leAt r.payload 8 8 ≤ 1024 ∧ r.payload.length = 16 ∧ s.jnl.nvLock = true) ∧
    (∃ (k : W32) (v : List Byte) (s : State), s.jnl.repair = false ∧ halfUsed (activeHalf s) + (32 + (v.length + 15) / 16 * 16)
      ≤ 6291456) :=
  ⟨⟨rq 0 (toLe 4 0x20F00), up, ⟨0x20F00, 64, 8, 1024⟩, ⟨by decide +kernel, by decide +kernel⟩, by decide +kernel⟩,
   ⟨rq 0 (toLe 4 0xFFFF0001 ++ toLe 4 4 ++ toLe 4 16), up, ⟨by decide +kernel, by decide +kernel⟩, by decide +kernel⟩,
   ⟨rq 0 (toLe 4 0x20F00 ++ toLe 4 8 ++ toLe 8 1024), up, ⟨by decide +kernel, by decide +kernel⟩, by decide +kernel⟩,
   ⟨rq 0 (toLe 4 0x20F00 ++ toLe 4 8 ++ toLe 8 8), { up with jnl := { up.jnl with nvLock := true } }, ⟨by decide +kernel,
     by decide +kernel⟩, by decide +kernel⟩,
   ⟨0x20F00, toLe 8 8, up, by decide +kernel⟩⟩

/-- The hypotheses of FirmwareAndCalibration are met, clause by clause. -/
theorem wit_firmwareAndCalibration :
    (∃ (r : Req) (s : State), Accepts cmdFwStage true r s ∧ leAt r.payload 0 4 = 0 ∧ r.chan = primaryChan s ∧ 3144 ≤ leAt
      r.payload 4 4 ∧ leAt r.payload 4 4 ≤ 33554432 ∧ r.blen.toNat ≤ leAt r.payload 4 4 ∧ s.power.aonLow = false ∧ s.power.nvLow
      = false) ∧
    (∃ (r : Req) (s : State), Accepts cmdFwActivate false r s ∧ staging s = false ∧ s.jnl.activating = false ∧ s.glb.boot ≠
      .recovery) ∧
    (∃ (r : Req) (s : State) (l : StackIx), Accepts cmdCalibRun false r s ∧ leAt r.payload 0 1 = 1 ∧ leAt r.payload 1 1 = l.val
      ∧ s.calib = none ∧ s.jnl.nvLock = false ∧ islRunning s (lniOf (stackShed l)) = true ∧ (∀ a : Fin 32, linkUp s (lanePort l
      a) = false)) ∧
    (∃ (l : StackIx) (m : CalibFacts) (s : State) (c : CalibRunning), s.calib = some c ∧ c.todo = [l] ∧ islRunning s (lniOf
      (stackShed l)) = true ∧ s.jnl.nvLock = false ∧ m.slices.length = 36) ∧
    (∃ (r : Req) (s : State) (c : CalibRunning), Accepts cmdCalibRunAbort false r s ∧ s.calib = some c) ∧
    (∃ (r : Req) (s : State), Accepts cmdCalibGet false r s ∧ leAt r.payload 0 1 ≤ 15 ∧ 1168 ≤ r.blen.toNat ∧ r.bufOk = true) ∧
    (∃ (r : Req) (s : State), Accepts cmdCalibSet true r s ∧ leAt r.payload 0 1 ≤ 15 ∧ s.jnl.nvLock = false) ∧
    (∃ (r : Req) (s : State), Accepts cmdCalibSetClear false r s ∧ leAt r.payload 0 1 ≤ 15 ∧ s.jnl.nvLock = false) :=
  ⟨⟨{ rq 0 (toLe 4 0 ++ toLe 4 3144) with blen := 3144 }, up, ⟨by decide +kernel, by decide +kernel⟩, by decide +kernel⟩,
   ⟨rq 0 [], up, ⟨by decide +kernel, by decide +kernel⟩, by decide +kernel⟩,
   ⟨rq 0 [1, 0], up, 0, ⟨by decide +kernel, by decide +kernel⟩, by decide +kernel⟩,
   ⟨0, { slices := List.replicate 36 none, laserA := 0, laserB := 0 },
     { up with calib := some { reply := { chan := 0, gen := 0, op := 0xD0, tag := 0 }, todo := [0] } },
     { reply := { chan := 0, gen := 0, op := 0xD0, tag := 0 }, todo := [0] }, by decide +kernel⟩,
   ⟨{ rq 0 [0, 0] with flags := 1 },
     { up with calib := some { reply := { chan := 0, gen := 0, op := 0xD0, tag := 0 }, todo := [0] } },
     { reply := { chan := 0, gen := 0, op := 0xD0, tag := 0 }, todo := [0] }, ⟨by decide +kernel, by decide +kernel⟩,
     by decide +kernel⟩,
   ⟨{ rq 0 [15] with blen := 1168 }, up, ⟨by decide +kernel, by decide +kernel⟩, by decide +kernel⟩,
   ⟨{ rq 0 [15] with blen := 1168 }, up, ⟨by decide +kernel, by decide +kernel⟩, by decide +kernel⟩,
   ⟨{ rq 0 [15] with flags := 1 }, up, ⟨by decide +kernel, by decide +kernel⟩, by decide +kernel⟩⟩

/-- The hypotheses of FabricLinksAndHealth are met, clause by clause. -/
theorem wit_fabricLinksAndHealth :
    (∃ (p : PortIx) (peer : Bool) (s : State), islRunning s (lniOf (portShed p)) = true ∧ lanesLit s p = true ∧ isMember s p =
      false ∧ linkUp s p = false) ∧
    (∃ (p : PortIx) (now : Nat) (s : State), linkUp s p = true ∧ (port s p).penaltyAt = now ∧ (port s p).penalty.toNat + 1000 <
      effective s 0x20E03 ∧ effective s 0x20E03 ≤ effective s 0x20E02 ∧ effective s 0x20E02 < 16384 ∧ portPartner s p = none) ∧
    (∃ (p : PortIx) (now : Nat) (s : State), (port s p).suppressed = true ∧ (port s p).penaltyAt = now ∧ (port s
      p).penalty.toNat ≤ effective s 0x20E04) ∧
    (∃ (p : PortIx) (s : State), linkUp s p = true) ∧
    (∃ (p : PortIx) (ch pid : List Byte) (m : (Option : _) (List Byte)) (ttl : BitVec 16) (s : State), linkUp s p = true) ∧
    (∃ (p : PortIx) (n k : Nat) (s : State), (port s p).llr = true) ∧
    (∃ (n : Node) (s : State) (p : Partner), aGet s.partners n = some p ∧ p.state = .admitted) :=
  ⟨⟨0, true, up, by decide +kernel⟩,
   ⟨0, 0, { up with ports := [(0, { link := 2 })] }, by decide +kernel⟩,
   ⟨0, 0, { up with ports := [(0, { suppressed := true, penalty := 10 })] }, by decide +kernel⟩,
   ⟨0, { up with ports := [(0, { link := 2 })] }, by decide +kernel⟩,
   ⟨0, [], [], none, 0, { up with ports := [(0, { link := 2 })] }, by decide +kernel⟩,
   ⟨0, 0, 0, { up with ports := [(0, { llr := true })] }, by decide +kernel⟩,
   ⟨1, { up with partners := [(1, aPartner)] }, aPartner, by decide +kernel⟩⟩

/-- The hypotheses of SlicesAndLasers are met, clause by clause. -/
theorem wit_slicesAndLasers :
    (∃ (l : StackIx) (a : Fin 32) (i : Fin 36) (s : State), (slice (lantern s l) (laneSlice (lantern s l) a)).state ≠ 0 ∧
      (lantern s l).retuning = [] ∧ (freeSpares (lantern s l)).filter (fun j => (slice (lantern s l) j).lambda == (slice
      (lantern s l) (laneSlice (lantern s l) a)).lambda) = [i] ∧ laneSlice (lantern s l) a ≠ i) ∧
    (∃ (l : StackIx) (a : Fin 32) (i : Fin 36) (s : State), (lantern s l).retuning = [(i, a, 5)] ∧ (lantern s l).moveReplies =
      [] ∧ laneSlice (lantern s l) a ≠ i) ∧
    (∃ (l : StackIx) (m : WearFacts) (s : State), islRunning s (lniOf (stackShed l)) = true) ∧
    (∃ (l : StackIx) (a : Fin 32) (s : State), (slice (lantern s l) (laneSlice (lantern s l) a)).state ≠ 0 ∧ (∃ r ∈ (lantern s
      l).retuning, r.2.1 = a)) :=
  ⟨⟨0, 0, 32, { up with lanterns := [(0, { slices := [(0, { state := 1 }), (32, { state := 2 })] })] }, by decide +kernel⟩,
   ⟨0, 0, 32, { up with lanterns := [(0, { retuning := [(32, 0, 5)] })] }, by decide +kernel⟩,
   ⟨0, { laserA := 0, laserB := 0, slices := [] }, up, by decide +kernel⟩,
   ⟨0, 0, { up with lanterns := [(0, { retuning := [(32, 0, 4)], slices := [(0, { state := 1 })] })] }, by decide +kernel⟩⟩

/-- The hypotheses of FencingAndSparing are met, clause by clause. -/
theorem wit_fencingAndSparing :
    (∃ (sh : ShedIx) (u : UnitIx) (c : BitVec 8) (s : State), u ≠ 16 ∧ c ≠ 0 ∧ (unit s sh .reduce u).st = .active ∧ (unit s sh
      .reduce u).drain = none ∧ (unit s sh .reduce 16).st = .spareFree ∧ s.kpr.state = .running ∧ s.groups = []) ∧
    (∃ (sh : ShedIx) (u : UnitIx) (s : State), u ≠ 16 ∧ (unit s sh .reduce u).st = .active ∧ (unit s sh .reduce u).drain = none
      ∧ (unit s sh .reduce 16).st = .spareFree ∧ s.kpr.state = .running ∧ s.groups = []) ∧
    (∃ (sh : ShedIx) (k : UnitKind) (u : UnitIx) (s : State), (k = .gather ∨ k = .filter) ∧ u ≠ 16 ∧ (unit s sh k u).st =
      .active ∧ (unit s sh k u).drain = none ∧ (unit s sh k 16).st = .spareFree ∧ s.kpr.state = .running ∧ s.work.reqs = []) ∧
    (∃ (r : Req) (s : State), Accepts cmdSpareStatus false r s ∧ leAt r.payload 0 1 ≤ 4 ∧ leAt r.payload 1 1 ≤ 3 ∧ (spareRecords
      s r.chan (leAt r.payload 0 1) (shedOf (leAt r.payload 1 1))).length ≤ r.blen.toNat ∧ r.bufOk = true) ∧
    (∃ (r : Req) (s : State) (k : UnitKind), Accepts cmdSpareEngage false r s ∧ r.flags = 0 ∧ kindOf (leAt r.payload 0 1) = some
      k ∧ engageStatus s (leAt r.payload 1 1) k (leAt r.payload 2 1) = stOk) ∧
    (∃ (r : Req) (s : State) (k : UnitKind), Accepts cmdSpareEngage false r s ∧ r.flags = 1 ∧ kindOf (leAt r.payload 0 1) = some
      k ∧ engageStatus s (leAt r.payload 1 1) k (leAt r.payload 2 1) = stOk) ∧
    (∃ (sh : ShedIx) (k : UnitKind) (u : UnitIx) (s : State), (unit s sh k u).draining = true ∧ unitIdle s sh k u = true ∧
      unitLive (unit s sh k u) = true ∧ (unit s sh k 16).st = .spareFree ∧ (unit s sh k u).wear.getLsbD 1 = false) ∧
    (∃ (sh : ShedIx) (row now : Nat) (s : State), islRunning s (shcOf sh) = true ∧ (sh, row) ∉ s.loftMapped ∧ (slide (aGetD
      s.loftErr (sh, row) []) now).length < effective s 0x5000C) ∧
    (∃ (sh : ShedIx) (row now : Nat) (s : State), islRunning s (shcOf sh) = true ∧ (sh, row) ∉ s.loftMapped ∧ mappedRows s sh <
      1024 ∧ effective s 0x5000C ≤ (slide (aGetD s.loftErr (sh, row) []) now).length) :=
  ⟨⟨0, 0, 1, upU .reduce, by decide +kernel⟩,
   ⟨0, 0, upU .reduce, by decide +kernel⟩,
   ⟨0, .gather, 0, upU .gather, by decide +kernel⟩,
   ⟨{ rq 0 [0, 3] with blen := 4096 }, up, ⟨by decide +kernel, by decide +kernel⟩, by decide +kernel⟩,
   ⟨rq 0 [1, 0, 15],
     { upU .reduce with units := [((0, .reduce, 15), { st := .active }), ((0, .reduce, 16), { st := .spareFree })] }, .reduce,
     ⟨by decide +kernel, by decide +kernel⟩, by decide +kernel⟩,
   ⟨{ rq 0 [1, 0, 0] with flags := 1 }, upU .reduce, .reduce, ⟨by decide +kernel, by decide +kernel⟩, by decide +kernel⟩,
   ⟨0, .reduce, 0,
     { upU .reduce with units := [((0, .reduce, 0), { st := .active, draining := true }), ((0, .reduce, 16), { st := .spareFree })] },
     by decide +kernel⟩,
   ⟨0, 0, 0, up, by decide +kernel⟩,
   ⟨0, 0, 0, { up with loftErr := [((0, 0), List.replicate 2000 1)] }, by decide +kernel⟩⟩

end Sys2Proof.Tests
end

