-- ==== Sys2Proof/Tests/Witness3.lean ====
section
/-! SUPPORT. Witnesses: for each clause of the statements named, a state and operands that meet its hypotheses. -/

set_option linter.unusedVariables false
set_option Elab.async false

namespace Sys2Proof.Tests

open Sys2Proof Sys2Proof.Machine

/-- The hypotheses of Requests are met, clause by clause. -/
theorem wit_requests :
    (∃ (p : Rx) (s : State), Passes 0x01 p s) ∧
    (∃ (p : Rx) (s : State), Passes 0x03 p s) ∧
    (∃ (p : Rx) (s : State), Passes 0x05 p s) ∧
    (∃ (p : Rx) (s : State), Passes 0x08 p s) ∧
    (∃ (p : Rx) (s : State), Passes 0x10 p s) ∧
    (∃ (p : Rx) (s : State), Passes 0x20 p s) ∧
    (∃ (p : Rx) (s : State), Passes 0x28 p s) ∧
    (∃ (p : Rx) (s : State), Passes 0x30 p s) ∧
    (∃ (p : Rx) (s : State), Passes 0x40 p s) ∧
    (∃ (p : Rx) (s : State), flagBit p 2 = false ∧ Passes 0x44 p s) ∧
    (∃ (p : Rx) (s : State), flagBit p 2 = false ∧ Passes 0x45 p s) ∧
    (∃ (p : Rx) (s : State), Passes 0x58 p s) ∧
    (∃ (p : Rx) (s : State), Passes 0x59 p s) ∧
    (∃ (p : Rx) (s : State), Passes 0x5A p s) ∧
    (∃ (p : Rx) (s : State), rxArrives s p = false) ∧
    (∃ (p : Rx) (s : State), ∃ (pr : Pair), rxArrives s p = true ∧ ((port s p.port).macsec = true → p.l2.macsecOk = true) ∧
      headersOk s 0x01 0 p = true ∧ formOk s 0x01 p = true ∧ (portQ s p.port).rx.n = 0 ∧ aGet s.pairs p.src = some pr ∧
      arrivalOf pr p.seq = .beyond) ∧
    (∃ (p : Rx) (s : State), ∃ (pr : Pair), rxArrives s p = true ∧ ((port s p.port).macsec = true → p.l2.macsecOk = true) ∧
      headersOk s 0x01 0 p = true ∧ formOk s 0x01 p = true ∧ (portQ s p.port).rx.n = 0 ∧ aGet s.pairs p.src = some pr ∧
      arrivalOf pr p.seq = .duplicate) ∧
    (∃ (p : Rx) (s : State) (d : W32), (letIn 0x01 p s).1 = true ∧ epochCheck (received 0x01 p s) p.epoch = some d) ∧
    (∃ (p : Rx) (s : State) (d : W32), (letIn 0x03 p s).1 = true ∧ epochCheck (received 0x03 p s) p.epoch = some d) :=
  ⟨⟨pxRead, cmx, passesOf (by decide +kernel) (by decide +kernel) (by decide +kernel) (by decide +kernel)⟩,
   ⟨px [7], cmx, passesOf (by decide +kernel) (by decide +kernel) (by decide +kernel) (by decide +kernel)⟩,
   ⟨px [7], cmx, passesOf (by decide +kernel) (by decide +kernel) (by decide +kernel) (by decide +kernel)⟩,
   ⟨px (zs 8), cmx, passesOf (by decide +kernel) (by decide +kernel) (by decide +kernel) (by decide +kernel)⟩,
   ⟨px [], cmx, passesOf (by decide +kernel) (by decide +kernel) (by decide +kernel) (by decide +kernel)⟩,
   ⟨px (zs 4096), cmx, passesOf (by decide +kernel) (by decide +kernel) (by decide +kernel) (by decide +kernel)⟩,
   ⟨px (zs 16), cmx, passesOf (by decide +kernel) (by decide +kernel) (by decide +kernel) (by decide +kernel)⟩,
   ⟨px (zs 16), cmx, passesOf (by decide +kernel) (by decide +kernel) (by decide +kernel) (by decide +kernel)⟩,
   ⟨px [], cmx, passesOf (by decide +kernel) (by decide +kernel) (by decide +kernel) (by decide +kernel)⟩,
   ⟨px [], cmx, by decide +kernel, passesOf (by decide +kernel) (by decide +kernel) (by decide +kernel) (by decide +kernel)⟩,
   ⟨px [], cmx, by decide +kernel, passesOf (by decide +kernel) (by decide +kernel) (by decide +kernel) (by decide +kernel)⟩,
   ⟨px [], cmx, passesOf (by decide +kernel) (by decide +kernel) (by decide +kernel) (by decide +kernel)⟩,
   ⟨px [], cmx, passesOf (by decide +kernel) (by decide +kernel) (by decide +kernel) (by decide +kernel)⟩,
   ⟨px [], cmx, passesOf (by decide +kernel) (by decide +kernel) (by decide +kernel) (by decide +kernel)⟩,
   ⟨pxRead, State.reset, by decide +kernel⟩,
   ⟨{ pxRead with seq := 2049 }, cmx, { rxCum := 0, settled := 0, txNext := 1 }, by decide +kernel⟩,
   ⟨{ pxRead with seq := 0 }, cmx, { rxCum := 0, settled := 0, txNext := 1 }, by decide +kernel⟩,
   ⟨{ pxRead with epoch := 1 }, cmx, 1, by decide +kernel⟩,
   ⟨{ px [7] with epoch := 1 }, cmx, 1, by decide +kernel⟩⟩

/-- The hypotheses of NearTier are met, clause by clause. -/
theorem wit_nearTier :
    (∃ (p : Rx) (s u : State) (b : Nat), Passes 0x01 p s ∧ u = station9 0x01 p s ∧ p.pen ≠ 0 ∧ flagBit p 0 = false ∧ 1 ≤
      p.length.toNat ∧ addrOff p.addr % 4096 + p.length.toNat ≤ 4096 ∧ NearBlock (rxKey u p) (addrOff p.addr / 4096) b u ∧
      imageOf u (rxKey u p) (addrOff p.addr / 4096) = none ∧ readSt u b = .fine) ∧
    (∃ (p : Rx) (s u : State) (b : Nat), Passes 0x03 p s ∧ u = station9 0x03 p s ∧ p.pen ≠ 0 ∧ flagBit p 1 = false ∧ 1 ≤
      p.length.toNat ∧ addrOff p.addr % 4096 + p.length.toNat ≤ 4096 ∧ p.payload.length = p.length.toNat ∧ muted p = false ∧
      NearBlock (rxKey u p) (addrOff p.addr / 4096) b u ∧ nearSt u (rxJob 0x03 p u) b = .fine) ∧
    (∃ (p : Rx) (s u : State) (b : Nat), Passes 0x08 p s ∧ u = station9 0x08 p s ∧ p.pen ≠ 0 ∧ addrOff p.addr % 4096 + 8 ≤ 4096
      ∧ muted p = false ∧ NearBlock (rxKey u p) (addrOff p.addr / 4096) b u ∧ nearSt u (rxJob 0x08 p u) b = .fine) ∧
    (∃ (b a : Nat) (bs : List Byte) (s : State), ((a < b * 4096 ∨ b * 4096 + bs.length ≤ a))) ∧
    (∃ (k : StackIx) (loc : Nat) (s : State), (stk s k).patrolEn = true ∧ stackUp s k = true ∧ patrolReads (stk s k) loc = true
      ∧ (stk s k).ceThr = 0) ∧
    (∃ (k : StackIx) (loc row r : Nat) (ue : Bool) (s : State), (stk s k).copying = [(row, r, ue)] ∧ row = loc ∧ stackUp s k =
      true ∧ ue = false) ∧
    (∃ (c : Caller) (k : StackIx) (s : State), isPf0 c = true ∧ (stk s k).state ≠ 3 ∧ s.pool.jobs = [] ∧ s.work.builds = []) ∧
    (∃ (c : Caller) (k : StackIx) (s : State), isPf0 c = false) ∧
    (∃ (half : Bool) (i : Nat) (s : State), inResync s half i = true ∧ i < s.near.ctl / 4096 ∧ stackUp s (ctlAt s half i).1 =
      true ∧ ctlCopyUp s (!half) i = true) ∧
    (∃ (half : Bool) (i : Nat) (s : State), inResync s half i = true ∧ i < s.near.ctl / 4096 ∧ stackFailed s (ctlAt s half i).1
      = true ∧ islRunning s (ntmOf (ctlAt s half i).1) = true ∧ ctlCopyUp s (!half) i = true ∧ placeStacks s half ≠ []) :=
  ⟨⟨{ px [] with length := 4096 }, cmx, station9 0x01 { px [] with length := 4096 } cmx, 0, passesOf (by decide +kernel)
     (by decide +kernel) (by decide +kernel) (by decide +kernel), rfl, by decide +kernel, by decide +kernel, by decide +kernel,
     by decide +kernel, ⟨by decide +kernel, by decide +kernel, by decide +kernel, by decide +kernel, by decide +kernel,
     by decide +kernel, by decide +kernel⟩, by decide +kernel⟩,
   ⟨px [7], cmx, station9 0x03 (px [7]) cmx, 0, passesOf (by decide +kernel) (by decide +kernel) (by decide +kernel)
     (by decide +kernel), rfl, by decide +kernel, by decide +kernel, by decide +kernel, by decide +kernel, by decide +kernel,
     by decide +kernel, ⟨by decide +kernel, by decide +kernel, by decide +kernel, by decide +kernel, by decide +kernel,
     by decide +kernel, by decide +kernel⟩, by decide +kernel⟩,
   ⟨px (zs 8), cmx, station9 0x08 (px (zs 8)) cmx, 0, passesOf (by decide +kernel) (by decide +kernel) (by decide +kernel)
     (by decide +kernel), rfl, by decide +kernel, by decide +kernel, by decide +kernel, ⟨by decide +kernel, by decide +kernel,
     by decide +kernel, by decide +kernel, by decide +kernel, by decide +kernel, by decide +kernel⟩, by decide +kernel⟩,
   ⟨1, 4095, [7], cmx, by decide +kernel⟩,
   ⟨0, 0, { cmx with near := { cmx.near with stks := [(0, { state := 2, ceThr := 0 })] } }, by decide +kernel⟩,
   ⟨0, 3, 3, 12331254, false,
     { cmx with near := { cmx.near with stks := [(0, { state := 2, copying := [(3, 12331254, false)] })] } }, by decide +kernel⟩,
   ⟨.fn 0, 0, cmx, by decide +kernel⟩,
   ⟨.fn 1, 0, cmx, by decide +kernel⟩,
   ⟨true, 0, { cmx with near := { cmx.near with resync := [(8, [])] } }, by decide +kernel⟩,
   ⟨true, 0, { cmx with near := { cmx.near with stks := (8, { state := 3 }) :: cmx.near.stks, resync := [(8, [])] } },
     by decide +kernel⟩⟩

/-- The hypotheses of OrderedRequests are met, clause by clause. -/
theorem wit_orderedRequests :
    (∃ (n : Node) (seq : W32) (p : Rx) (s : State), dueHeld s n 0x05 seq = some p ∧ releaseVerdict p s = .pass) ∧
    (∃ (n : Node) (seq : W32) (p : Rx) (s : State) (x : BitVec 8) (st : Nat) (d : W32), dueHeld s n 0x05 seq = some p ∧
      releaseVerdict p s = .nack x st d) ∧
    (∃ (n : Node) (seq : W32) (p : Rx) (s : State), dueHeld s n 0x05 seq = some p ∧ p.pen ≠ 0 ∧ slotMoving s (keySlot (rxKey s
      p)) = false ∧ (extAt s (rxKey s p)).cls = .sealed ∧ unopened s p = false ∧ leaseRevoked s p.pen (.node p.src) = false ∧
      (extAt s (rxKey s p)).st = .resident) ∧
    (∃ (n : Node) (seq : W32) (pr : Pair) (s : State), aGet s.pairs n = some pr ∧ seqLe (seq - 1) pr.settled = false) ∧
    (∃ (n : Node) (seq : W32) (p : Rx) (s : State), dueHeld s n 0x10 seq = some p ∧ slotMoving s (invalSlot s p) = false) ∧
    (∃ (n : Node) (seq : W32) (p : Rx) (s : State), dueHeld s n 0x58 seq = some p ∧ slotMoving s (keySlot (rxKey s p)) = false) ∧
    (∃ (n : Node) (seq : W32) (pr : Pair) (s : State), aGet s.pairs n = some pr ∧ pr.ended = [seq] ∧ pr.settledSel = [] ∧ seq =
      pr.settled + 1) :=
  ⟨⟨1, 1, px [7], { cmx with pairs := [(1, { rxCum := 1, settled := 0, txNext := 1, held := [⟨0x05, px [7]⟩] })] },
     by decide +kernel⟩,
   ⟨1, 1, px [7],
     { cmxExt { v := true, cls := .sealed } with pairs := [(1, { rxCum := 1, settled := 0, txNext := 1, held := [⟨0x05, px [7]⟩] })] },
     rNotOwner, 8, 0xFFFFFFFF, by decide +kernel⟩,
   ⟨1, 1, px [7],
     { cmxExt { v := true, cls := .sealed } with pairs := [(1, { rxCum := 1, settled := 0, txNext := 1, held := [⟨0x05, px [7]⟩] })] },
     by decide +kernel⟩,
   ⟨1, 2, { rxCum := 0, settled := 0, txNext := 1 }, cmx, by decide +kernel⟩,
   ⟨1, 1, px [], { cmx with pairs := [(1, { rxCum := 1, settled := 0, txNext := 1, held := [⟨0x10, px []⟩] })] },
     by decide +kernel⟩,
   ⟨1, 1, px [], { cmx with pairs := [(1, { rxCum := 1, settled := 0, txNext := 1, held := [⟨0x58, px []⟩] })] },
     by decide +kernel⟩,
   ⟨1, 1, { rxCum := 1, settled := 0, txNext := 1, ended := [1] },
     { cmx with pairs := [(1, { rxCum := 1, settled := 0, txNext := 1, ended := [1] })] }, by decide +kernel⟩⟩

/-- The hypotheses of ResponsesAndTimers are met, clause by clause. -/
theorem wit_responsesAndTimers :
    (∃ (p : Rx) (s t : State) (r : DevReq), (letIn 0x02 p s).1 = true ∧ takeReq p (received 0x02 p s) = some (r, t)) ∧
    (∃ (p : Rx) (s t : State) (r : DevReq), (letIn 0x04 p s).1 = true ∧ takeReq p (received 0x04 p s) = some (r, t)) ∧
    (∃ (p : Rx) (s t : State) (r : DevReq), (letIn 0x48 p s).1 = true ∧ takeReq p (received 0x48 p s) = some (r, t)) ∧
    (∃ (p : Rx) (s t : State) (r : DevReq), takeReq p s = some (r, t)) ∧
    (∃ (p : Rx) (s : State), (letIn 0x02 p s).1 = true ∧ takeReq p (received 0x02 p s) = none) ∧
    (∃ (p : Rx) (s : State), (letIn 0x11 p s).1 = true) ∧
    (∃ (p : Rx) (s : State), (letIn 0x21 p s).1 = true) ∧
    (∃ (p : Rx) (s : State) (pr : Pair), rxArrives s p = true ∧ ((port s p.port).macsec = true → p.l2.macsecOk = true) ∧
      headersOk s 0 1 p = true ∧ (portQ s p.port).rx.n = 0 ∧ aGet s.pairs p.src = some pr ∧ pr.backlog = [] ∧ p.tag = 0 ∧
      flagBit p 9 = false) ∧
    (∃ (n : Node) (s : State) (pr : Pair), aGet s.pairs n = some pr ∧ pr.arrivals ≠ 0 ∧ slotMoving s (nodeSlot n) = false) ∧
    (∃ (n : Node) (seq : W32) (s : State) (pr : Pair) (x : Sent), aGet s.pairs n = some pr ∧ pr.unacked.find? (fun y => y.seq ==
      seq) = some x ∧ x.expiries + 1 < effective s 0x20303 ∧ slotMoving s (nodeSlot n) = false) ∧
    (∃ (n : Node) (seq : W32) (s : State) (pr : Pair) (x : Sent), aGet s.pairs n = some pr ∧ pr.unacked.find? (fun y => y.seq ==
      seq) = some x ∧ effective s 0x20303 ≤ x.expiries + 1 ∧ s.pool.devReqs = [] ∧ s.work.reqs = [] ∧ slotMoving s (nodeSlot n)
      = false) ∧
    (∃ (n : Node) (seq : W32) (s : State), slotMoving s (nodeSlot n) = true) :=
  ⟨⟨pxAns [7], cmxReq, received 0x02 (pxAns [7]) { cmxReq with pool := cmx.pool }, aReq, by decide +kernel⟩,
   ⟨pxAns [], cmxReq, received 0x04 (pxAns []) { cmxReq with pool := cmx.pool }, aReq, by decide +kernel⟩,
   ⟨pxAns [], cmxReq, received 0x48 (pxAns []) { cmxReq with pool := cmx.pool }, aReq, by decide +kernel⟩,
   ⟨pxAns [], cmxReq, { cmxReq with pool := cmx.pool }, aReq, by decide +kernel⟩,
   ⟨px [7], cmx, by decide +kernel⟩,
   ⟨px [], cmx, by decide +kernel⟩,
   ⟨px (zs 4096), cmx, by decide +kernel⟩,
   ⟨{ px [] with htype := 1 }, cmx, { rxCum := 0, settled := 0, txNext := 1 }, by decide +kernel⟩,
   ⟨1, { cmx with pairs := [(1, { rxCum := 1, settled := 1, txNext := 1, arrivals := 1 })] },
     { rxCum := 1, settled := 1, txNext := 1, arrivals := 1 }, by decide +kernel⟩,
   ⟨1, 1, { cmx with pairs := [(1, aSent 10)] }, aSent 10, { seq := 1, pkt := respPkt 0x04 (px []), expiries := 10 },
     by decide +kernel⟩,
   ⟨1, 1, { cmx with pairs := [(1, aSent 11)] }, aSent 11, { seq := 1, pkt := respPkt 0x04 (px []), expiries := 11 },
     by decide +kernel⟩,
   ⟨1, 1, { cmx with glb := { cmx.glb with moving := [1] } }, by decide +kernel⟩⟩

/-- The hypotheses of PartnersAdmitted are met, clause by clause. -/
theorem wit_partnersAdmitted :
    (∃ (p : Rx) (s : State), rxArrives s p = true ∧ ((port s p.port).macsec = true → p.l2.macsecOk = true) ∧ headersOk s 0x50 2
      p = true ∧ (portQ s p.port).rx.n = 0 ∧ (((aGet s.pairs p.src).isSome = true ∨ s.pairs.length < 65536)) ∧ helloRefused s p
      = false) ∧
    (∃ (p : Rx) (s : State), rxArrives s p = true ∧ ((port s p.port).macsec = true → p.l2.macsecOk = true) ∧ headersOk s 0x50 2
      p = true ∧ (portQ s p.port).rx.n = 0 ∧ (((aGet s.pairs p.src).isSome = true ∨ s.pairs.length < 65536)) ∧ helloRefused s p
      = true) ∧
    (∃ (n : Node) (s : State) (q : Partner), aGet s.partners n = some q ∧ q.state = .holding ∧ q.role ≠ 2 ∧ q.role ≠ 4 ∧ aGet
      s.pairs n = none) ∧
    (∃ (n : Node) (s : State) (q : Partner), aGet s.partners n = some q ∧ q.state = .holding ∧ q.role = 2 ∧ aGet s.pairs n =
      none ∧ (tray s n).gather = [] ∧ (tray s n).pages = []) ∧
    (∃ (n : Node) (s : State) (q : Partner), aGet s.partners n = some q ∧ q.state = .holding ∧ q.role = 4 ∧ aGet s.pairs n =
      none ∧ (∀ e ∈ s.pool.exts, e.2.node ≠ n)) :=
  ⟨⟨aHello, { cmx with ports := [(0, { link := 2, auth := 0 })] }, by decide +kernel⟩,
   ⟨{ px [1] with htype := 2 }, cmx, by decide +kernel⟩,
   ⟨1, { State.reset with partners := [(1, { aPartner with state := .holding })] }, { aPartner with state := .holding },
     by decide +kernel⟩,
   ⟨1, { State.reset with partners := [(1, { aPartner with state := .holding, role := 2 })] },
     { aPartner with state := .holding, role := 2 }, by decide +kernel⟩,
   ⟨1, { State.reset with partners := [(1, { aPartner with state := .holding, role := 4 })] },
     { aPartner with state := .holding, role := 4 }, by decide +kernel⟩⟩

/-- The hypotheses of RouteMaps are met, clause by clause. -/
theorem wit_routeMaps :
    (∃ (r : Req) (s u : State) (m : RouteMap), Accepts (cmdRouteMapLoad r) true r s ∧ mapCounts r = true ∧ m.epoch = fieldLe 16
      r.payload 0 2 ∧ m.nodes = (slices (inBuf s r) 0 64 (mapNodes r)).map nodeOf ∧ m.tree = (slices (inBuf s r) (64 * mapNodes
      r) 16 (mapTrees r)).map (fun t => (fieldLe 32 t 0 4, fieldLe 16 t 4 2)) ∧ m.epoch = s.routes.current.epoch + 1 ∧ (slices
      (inBuf s r) 0 64 (mapNodes r)).all nodeBytesOk = true ∧ nodesOk m.nodes = true ∧ treeOk m.tree = true ∧ u = takeRequest
      0xA0 true r s) ∧
    (∃ (r : Req) (s : State) (m : RouteMap), Accepts cmdRouteMapCommit false r s ∧ fieldLe 16 r.payload 0 2 =
      s.routes.current.epoch + 1 ∧ s.routes.previous = none ∧ s.routes.staged = some m ∧ m.epoch = s.routes.current.epoch + 1) ∧
    (∃ (s : State), s.routes.inflightPrev = 0) ∧
    (∃ (s : State), s.routes.inflightPrev ≠ 0) ∧
    (∃ (s : State) (m : RouteMap), s.routes.previous = some m) ∧
    (∃ (e : BitVec 16) (s : State), e = s.routes.current.epoch) :=
  ⟨⟨{ rq 0 (toLe 4 1 ++ toLe 4 1 ++ toLe 4 0) with blen := 64 }, aMapState, takeRequest 0xA0 true
     { rq 0 (toLe 4 1 ++ toLe 4 1 ++ toLe 4 0) with blen := 64 } aMapState,
     { epoch := 1, nodes := [⟨0, true, true, false, false, [0], 0, 0, 0⟩] }, ⟨by decide +kernel, by decide +kernel⟩,
     by decide +kernel⟩,
   ⟨rq 0 [1, 0], { up with routes := { staged := some { epoch := 1 } } }, { epoch := 1 }, ⟨by decide +kernel,
     by decide +kernel⟩, by decide +kernel⟩,
   ⟨up, by decide +kernel⟩,
   ⟨{ up with routes := { inflightPrev := 1 } }, by decide +kernel⟩,
   ⟨{ up with routes := { previous := some {} } }, {}, by decide +kernel⟩,
   ⟨0, up, by decide +kernel⟩⟩

end Sys2Proof.Tests
end

