-- ==== Sys2Proof/Tests/Witness4.lean ====
section
/-! SUPPORT. Witnesses: for each clause of the statements named, a state and operands that meet its hypotheses. -/

set_option linter.unusedVariables false
set_option Elab.async false

namespace Sys2Proof.Tests

open Sys2Proof Sys2Proof.Machine

/-- The hypotheses of FlashTrays are met, clause by clause. -/
theorem wit_flashTrays :
    (∃ (n : Node) (s : State), (tray s n).gather ≠ [] ∧ (takeSlot n { tray s n with gather := [] }).1.isSome = true) ∧
    (∃ (n : Node) (s : State), (tray s n).gather = []) ∧
    (∃ (n : Node) (s : State) (w : UnitWrite) (v : W32) (ps : List Page), (tray s n).pages =
      { writes := [(w, v)], unacked := [] } :: ps ∧ w.job = none ∧ v ≠ unmapped) ∧
    (∃ (n : Node) (s : State), (tray s n).mounted = true) ∧
    (∃ (n : Node) (b : Nat) (h : Bool) (s : State), (tray s n).mounted = true ∧ unitsIn n (tray s n) b = [] ∧ (tray s n).openBlk
      ≠ some b ∧ (h = true ∨ effective s 0x20208 ≤ (ebAt (tray s n) b).reads.toNat)) ∧
    (∃ (n : Node) (s : State), (tray s n).mounted = true) ∧
    (∃ (n : Node) (s : State) (e : EraseBlock), (tray s n).mounted = true ∧ (tray s n).blocks = [e]) ∧
    (∃ (n : Node) (s : State) (e f : EraseBlock), (tray s n).mounted = true ∧ (tray s n).blocks = [e, f] ∧ f.erases.toNat ≤
      e.erases.toNat ∧ effective s 0x20207 < e.erases.toNat - f.erases.toNat) ∧
    (∃ (n : Node) (hour : W32) (s : State), (tray s n).mounted = true ∧ (∀ e ∈ (tray s n).blocks, e.valid = 0)) ∧
    (∃ (s : State), effective s 0x2020B ≠ 0) ∧
    (∃ (s : State), effective s 0x2020B = 0) ∧
    (∃ (n : Node) (im : TrayImage) (s : State), n ∈ partnersOf s 2 ∧ (tray s n).mounted = false ∧ flashMapUsed s + trayMapGib s
      n * 2 ^ 30 ≤ s.near.flashMap) :=
  ⟨⟨2, aTray { gather := [aWrite], blocks := [anErase 0 0] }, by decide +kernel, slotFree⟩,
   ⟨2, cmx, by decide +kernel⟩,
   ⟨2, aTray { pages := [{ writes := [(aWrite, 7)], unacked := [] }] }, aWrite, 7, [], by decide +kernel⟩,
   ⟨2, aTray { mounted := true }, by decide +kernel⟩,
   ⟨2, 1, true, aTray { mounted := true }, by decide +kernel, by decide +kernel, by decide +kernel, Or.inl rfl⟩,
   ⟨2, aTray { mounted := true }, by decide +kernel⟩,
   ⟨2, aTray { mounted := true, blocks := [anErase 0 9] }, anErase 0 9, by decide +kernel⟩,
   ⟨2, aTray { mounted := true, blocks := [anErase 0 5000, anErase 1 0] }, anErase 0 5000, anErase 1 0, by decide +kernel⟩,
   ⟨2, 5, aTray { mounted := true, blocks := [anErase 0 9] }, by decide +kernel⟩,
   ⟨{ up with jnl := { up.jnl with applied := true }, nor := { half0 := { recs := [mkRec 0x2020B (toLe 8 1) 1] } } },
     by decide +kernel⟩,
   ⟨up, by decide +kernel⟩,
   ⟨2, ⟨[], []⟩, mapRoom (trayMapGib flash2 2 * 2 ^ 30) flash2, by decide +kernel, by decide +kernel,
     mapFits flash2 rfl 2 (Nat.le_refl _)⟩⟩

/-- The hypotheses of ExtentsAndLentMemory are met, clause by clause. -/
theorem wit_extentsAndLentMemory :
    (∃ (r : Req) (s u : State) (a : AllocCmd), Accepts cmdExtentAlloc false r s ∧ u = takeRequest 0x20 false r s ∧ r.flags = 0 ∧
      tierOf (leAt r.payload 12 1) = some .near ∧ clsOf (leAt r.payload 13 1) = some a.cls ∧ leAt r.payload 0 8 % 2 ^ 21 = 0 ∧
      leAt r.payload 8 4 = 1 ∧ rangeOk (leAt r.payload 0 8) 1 = true ∧ leAt r.payload 16 2 = 0 ∧ leAt r.payload 14 2 = 0 ∧ a =
      { reply := replyOf s 0x20 r, pen := actingPen s r, ext := BitVec.ofNat 35 (leAt r.payload 0 8 / 2 ^ 21), left := 1, tier := .near, cls := a.cls, node := 0, owner := 0, keyId := fieldLe 8 r.payload 18 1, hold := false, comp := false }
      ∧ slotMoving u (keySlot (allocKey a)) = false ∧ (migOf u (allocKey a)).any (·.ending) = false ∧ allocVerdict u a = stOk ∧
      (freeFrame u .near 0).isSome = true ∧ nearFrames u ≤ 2 ^ 32) ∧
    (∃ (r : Req) (s u : State) (k : ExtKey), Accepts cmdExtentFree false r s ∧ u = takeRequest 0x21 false r s ∧ leAt r.payload 0
      8 % 2 ^ 21 = 0 ∧ leAt r.payload 8 4 = 1 ∧ rangeOk (leAt r.payload 0 8) 1 = true ∧ k = (actingPen s r, BitVec.ofNat 35
      (leAt r.payload 0 8 / 2 ^ 21)) ∧ slotMoving u (keySlot k) = false ∧ freeVerdict u k = stOk ∧ u.pool.jobs = [] ∧
      u.work.builds = [] ∧ u.pool.recalls = [] ∧ migOf u k = none) ∧
    (∃ (p : BitVec 12) (e : BitVec 35) (s : State), migOf s (p, e) = none) ∧
    (∃ (r : Req) (s u : State) (k : ExtKey), Accepts cmdExtentMigrate false r s ∧ u = takeRequest 0x22 false r s ∧ tierOf (leAt
      r.payload 12 1) = some .near ∧ leAt r.payload 14 2 = 0 ∧ leAt r.payload 0 8 % 2 ^ 21 = 0 ∧ leAt r.payload 8 4 = 1 ∧
      rangeOk (leAt r.payload 0 8) 1 = true ∧ k = (actingPen s r, BitVec.ofNat 35 (leAt r.payload 0 8 / 2 ^ 21)) ∧ slotMoving u
      (keySlot k) = false ∧ migAct u k .near 0 = .start ∧ (freeFrame u .near 0).isSome = true) ∧
    (∃ (r : Req) (s u : State) (k : ExtKey) (t : Tier), Accepts cmdExtentMigrate false r s ∧ u = takeRequest 0x22 false r s ∧
      tierOf (leAt r.payload 12 1) = some t ∧ leAt r.payload 0 8 % 2 ^ 21 = 0 ∧ leAt r.payload 8 4 = 1 ∧ rangeOk (leAt r.payload
      0 8) 1 = true ∧ k = (actingPen s r, BitVec.ofNat 35 (leAt r.payload 0 8 / 2 ^ 21)) ∧ slotMoving u (keySlot k) = false ∧
      migAct u k t (fieldLe 16 r.payload 14 2) = .there ∧ u.pool.migCmds = []) ∧
    (∃ (p : BitVec 12) (e : BitVec 35) (s : State) (m : Migration) (b : Nat), migOf s (p, e) = some m ∧ migBlock m = some b ∧
      m.moving = none ∧ m.stalled = false ∧ m.ending = false ∧ (migInto m).isSome = true ∧ (extAt s (p, e)).st = .migrating ∧
      migRuns s m = true ∧ slotMoving s (keySlot (p, e)) = false ∧ blockBusy s (p, e) b = false) ∧
    (∃ (p : BitVec 12) (e : BitVec 35) (s : State) (m : Migration) (b f : Nat) (d : List Byte), migOf s (p, e) = some m ∧
      m.moving = some b ∧ m.data = some d ∧ d.length = 4096 ∧ m.back = false ∧ m.target = .near ∧ m.frame = some f ∧ m.ending =
      false ∧ m.turnBack = false ∧ writeSt s (512 * f + b) = .fine ∧ m.src.tier ≠ .flash ∧ migBlock
      { m with bits := b :: m.bits } ≠ none ∧ s.pool.jobs = [] ∧ s.work.builds = []) ∧
    (∃ (p : BitVec 12) (e : BitVec 35) (s : State) (m : Migration) (b : Nat), migOf s (p, e) = some m ∧ m.moving = some b ∧
      m.ending = false ∧ m.turnBack = false ∧ migBlock m ≠ none ∧ s.pool.jobs = [] ∧ s.work.builds = []) ∧
    (∃ (p : BitVec 12) (e : BitVec 35) (s : State) (m : Migration) (b : Nat), ∃ (x : PoolRes), migOf s (p, e) = some m ∧
      m.moving = some b ∧ m.ending = false ∧ m.turnBack = false ∧ migBlock m ≠ none ∧ s.pool.jobs = [] ∧ s.work.builds = [] ∧
      sourceError s (p, e) b = some x) ∧
    (∃ (p : Rx) (s u : State), Passes 0x44 p s ∧ flagBit p 2 = false ∧ u = station9 0x44 p s ∧ p.addr.toNat % 2 ^ 21 = 0) ∧
    (∃ (p : Rx) (s u : State), Passes 0x45 p s ∧ flagBit p 2 = false ∧ u = station9 0x45 p s ∧ recalled u p.src (p.addr.toNat /
      2 ^ 21) p.group.toNat = []) ∧
    (∃ (id : Nat) (s : State) (r : Recall) (k : ExtKey), s.pool.recalls.find? (fun q => q.id = id) = some r ∧ r.todo = [k] ∧
      (extAt s k).v = true ∧ migOf s k = none ∧ s.pool.jobs = [] ∧ s.work.builds = []) ∧
    (∃ (id : Nat) (s : State), (∀ q ∈ s.pool.recalls, q.id ≠ id)) :=
  ⟨⟨rv (toLe 8 (2 ^ 21) ++ toLe 4 1 ++ zs 7), cmxDir, _,
     { reply := { chan := 1, gen := 0, op := 0x20, tag := 0 }, pen := 1, ext := 1, left := 1, tier := .near, cls := .ordinary, node := 0, owner := 0, keyId := 0, hold := false, comp := false },
     ⟨by decide +kernel, by decide +kernel⟩, rfl, by decide +kernel⟩,
   ⟨rv (toLe 8 0 ++ toLe 4 1), cmx, _, (1, 0), ⟨by decide +kernel, by decide +kernel⟩, rfl, by decide +kernel⟩,
   ⟨1, 0, cmx, by decide +kernel⟩,
   ⟨rv (toLe 8 0 ++ toLe 4 1 ++ zs 4), cmxExt { v := true, tier := .tray, node := 2 }, _, (1, 0), ⟨by decide +kernel,
     by decide +kernel⟩, rfl, by decide +kernel⟩,
   ⟨rv (toLe 8 0 ++ toLe 4 1 ++ zs 4), cmx, _, (1, 0), .near, ⟨by decide +kernel, by decide +kernel⟩, rfl, by decide +kernel⟩,
   ⟨1, 0, cmxMig { aMig with bits := [0] }, { aMig with bits := [0] }, 1, by decide +kernel⟩,
   ⟨1, 0, cmxMig { aMig with moving := some 0, data := some (zs 4096) }, { aMig with moving := some 0, data := some (zs 4096) },
     0, 1, zs 4096, rfl, by decide +kernel, rfl, List.length_replicate, by decide +kernel⟩,
   ⟨1, 0, cmxMig { aMig with moving := some 511 }, { aMig with moving := some 511 }, 511, by decide +kernel⟩,
   ⟨1, 0, { cmxMig { aMig with moving := some 0 } with near := up.near }, { aMig with moving := some 0 }, 0, .err rTierError
     (tierDetail 0 3), by decide +kernel⟩,
   ⟨{ px [] with addr := 0x200000 }, cmx, _, passesOf (by decide +kernel) (by decide +kernel) (by decide +kernel)
     (by decide +kernel), by decide +kernel, rfl, by decide +kernel⟩,
   ⟨px [], cmx, _, passesOf (by decide +kernel) (by decide +kernel) (by decide +kernel) (by decide +kernel), by decide +kernel,
     rfl, by decide +kernel⟩,
   ⟨7, { cmx with pool := { cmx.pool with recalls := [{ id := 7, rx := px [], first := 0, count := 1, todo := [(1, 0)] }] } },
     { id := 7, rx := px [], first := 0, count := 1, todo := [(1, 0)] }, (1, 0), by decide +kernel⟩,
   ⟨7, cmx, by decide +kernel⟩⟩

/-- The hypotheses of Regions are met, clause by clause. -/
theorem wit_regions :
    (∃ (r : Req) (s u : State) (p : BitVec 12) (id : W32) (size : Nat), Accepts (cmdRegionCreate r) true r s ∧ u = takeRequest
      0x30 true r s ∧ p = actingPen s r ∧ id = fieldLe 32 r.payload 0 4 ∧ id ≠ 0 ∧ createRanges r = true ∧ draftCount r = 0 ∧
      changeCount r = 0 ∧ size = leAt r.payload 4 4 ∧ slotMoving u (regionSlot p id) = false ∧ s.share.pubs = [] ∧ regionAt s p
      id = none ∧ s.share.regions.length < 262144 ∧ size * 4096 ≤ ctlFree u) ∧
    (∃ (r : Req) (s u : State) (p : BitVec 12) (id : W32) (q : Region), Accepts (cmdRegionPublish r) true r s ∧ u = takeRequest
      0x31 true r s ∧ p = actingPen s r ∧ id = fieldLe 32 r.payload 0 4 ∧ publishRanges r = true ∧ draftCount r = 0 ∧
      changeCount r = 0 ∧ slotMoving u (regionSlot p id) = false ∧ s.share.pubs = [] ∧ regionAt s p id = some q ∧ q.retired =
      false ∧ fieldLe 32 r.payload 4 4 = q.latest ∧ q.latest ≠ 0xFFFFFFFF ∧ q.versions.length < 16 ∧ versionHeld u p id q.latest
      = true ∧ q.size * 4096 ≤ ctlFree u) ∧
    (∃ (p : BitVec 12) (e e' : BitVec 35) (s : State) (q : Pub), s.share.pubs = [q] ∧ q.started = true ∧ q.pen = p ∧ q.todo =
      [e, e'] ∧ e ≠ e' ∧ drained s (p, e) = true ∧ slotMoving s (keySlot (p, e)) = false) ∧
    (∃ (r : Req) (s u : State) (p : BitVec 12) (id v : W32) (q : Region), Accepts (cmdRegionOpen r) false r s ∧ u = takeRequest
      0x32 false r s ∧ p = actingPen s r ∧ id = fieldLe 32 r.payload 0 4 ∧ leAt r.payload 8 2 = 0 ∧ slotMoving u (regionSlot p
      id) = false ∧ slotMoving u (chanSlot r.chan) = false ∧ regionAt u p id = some q ∧ q.retired = false ∧ v = (if fieldLe 32
      r.payload 4 4 = 0 then q.latest else fieldLe 32 r.payload 4 4) ∧ v.toNat ≤ q.latest.toNat ∧ (aGet q.versions v).isSome =
      true ∧ leaseRevoked u p (.chan r.chan) = false ∧ openHandles u < 1048576 ∧ leaseRoom u p (.chan r.chan) = true) ∧
    (∃ (r : Req) (s u : State) (x : Handle), Accepts { cmdRegionClose with flags := 0, fields := [(0, 4)] } false r s ∧ u =
      takeRequest 0x33 false r s ∧ handleOpen u (actingPen s r) (fieldLe 32 r.payload 0 4) = some x ∧ (handleSlots u (actingPen
      s r) (fieldLe 32 r.payload 0 4)).any (slotMoving u) = false) ∧
    (∃ (r : Req) (s u : State) (p : BitVec 12) (id : W32) (q : Region), Accepts cmdRegionClose false r s ∧ u = takeRequest 0x33
      false r s ∧ p = actingPen s r ∧ leAt r.payload 0 4 = 0 ∧ id = fieldLe 32 r.payload 4 4 ∧ slotMoving u (regionSlot p id) =
      false ∧ s.share.pubs = [] ∧ regionAt s p id = some q ∧ q.retired = false ∧ ((isAdmin r.chan = true ∨ r.chan = q.creator))
      ∧ versionHeld u p id q.latest = true) ∧
    (∃ (p : BitVec 12) (id v : W32) (s : State) (q : Region), slotMoving s (regionSlot p id) = false ∧ regionAt s p id = some q
      ∧ q.retired = false ∧ q.latest ≠ v ∧ versionHeld s p id v = false ∧ aGet q.versions v = some []) ∧
    (∃ (p : BitVec 12) (id v : W32) (s : State), versionHeld s p id v = true) :=
  ⟨⟨rv (toLe 4 6 ++ toLe 4 1 ++ zs 8), ctlRoom cmxReg, _, 1, 6, 1, ⟨by decide +kernel, by decide +kernel⟩, rfl,
     by decide +kernel, by decide +kernel, by decide +kernel, by decide +kernel, by decide +kernel, by decide +kernel, show _
     from by decide +kernel, by decide +kernel, by decide +kernel, by decide +kernel, by decide +kernel,
     ctlFree_ctlRoom rfl rfl (by decide +kernel) _ _ _⟩,
   ⟨rv (toLe 4 5 ++ toLe 4 2 ++ zs 8), ctlRoom cmxReg, _, 1, 5, aRegion, ⟨by decide +kernel, by decide +kernel⟩, rfl,
     by decide +kernel, by decide +kernel, by decide +kernel, by decide +kernel, by decide +kernel, by decide +kernel, show _
     from by decide +kernel, by decide +kernel, by decide +kernel, by decide +kernel, by decide +kernel, by decide +kernel,
     by decide +kernel, ctlFree_ctlRoom rfl rfl (by decide +kernel) _ _ _⟩,
   ⟨1, 0, 1,
     { cmx with share := { cmx.share with pubs := [{ reply := replyOf cmx 0x31 (rv []), pen := 1, region := 5, todo := [0, 1], started := true }] } },
     { reply := replyOf cmx 0x31 (rv []), pen := 1, region := 5, todo := [0, 1], started := true }, by decide +kernel⟩,
   ⟨rv (toLe 4 5 ++ toLe 4 2 ++ zs 2), cmxReg, _, 1, 5, 2, aRegion, ⟨by decide +kernel, by decide +kernel⟩, rfl,
     by decide +kernel⟩,
   ⟨rv (toLe 4 9), cmxReg, _, aHandle, ⟨by decide +kernel, by decide +kernel⟩, rfl, by decide +kernel⟩,
   ⟨{ rv (toLe 4 0 ++ toLe 4 5) with flags := 1 }, cmxReg, _, 1, 5, aRegion, ⟨by decide +kernel, by decide +kernel⟩, rfl,
     by decide +kernel⟩,
   ⟨1, 5, 1, cmxReg, aRegion, by decide +kernel⟩,
   ⟨1, 5, 2, cmxReg, by decide +kernel⟩⟩

/-- The hypotheses of StreamWindows are met, clause by clause. -/
theorem wit_streamWindows :
    (∃ (r : Req) (s u : State) (x : Handle) (w : Window), Accepts cmdWindowCreate false r s ∧ u = takeRequest 0x40 false r s ∧
      handleOpen u (actingPen s r) (fieldLe 32 r.payload 0 4) = some x ∧ (handleSlots u (actingPen s r) (fieldLe 32 r.payload 0
      4)).any (slotMoving u) = false ∧ leAt r.payload 16 4 ≠ 0 ∧ 1 ≤ leAt r.payload 24 1 ∧ leAt r.payload 24 1 ≤ 64 ∧ leAt
      r.payload 24 1 ≤ leAt r.payload 20 4 ∧ leAt r.payload 25 1 ≤ 1 ∧ leAt r.payload 8 8 % 2 ^ 21 = 0 ∧ leAt r.payload 8 8 < 2
      ^ 56 ∧ stageReserved u + leAt r.payload 24 1 * leAt r.payload 16 4 * 2 ^ 21 ≤ u.near.stagePool ∧ w =
      { pen := x.pen, handle := fieldLe 32 r.payload 0 4, ext := (x.rpen, BitVec.ofNat 35 (leAt r.payload 8 8 / 2 ^ 21)), stride := leAt r.payload 16 4, layers := leAt r.payload 20 4, depth := leAt r.payload 24 1, wrap := leAt r.payload 25 1 == 1, staged := List.range (leAt r.payload 24 1) }
      ∧ s.pool.windows.length < 2 ^ 32) ∧
    (∃ (r : Req) (s u : State) (w : Window), Accepts cmdWindowAdvance false r s ∧ u = takeRequest 0x41 false r s ∧ aGet
      s.pool.windows (fieldLe 32 r.payload 0 4) = some w ∧ w.pen = actingPen s r ∧ w.wrap = false ∧ (handleSlots u (actingPen s
      r) w.handle).any (slotMoving u) = false ∧ w.front + w.depth < w.layers ∧ 1 ≤ w.depth) ∧
    (∃ (r : Req) (s u : State) (w : Window), Accepts cmdWindowAdvance false r s ∧ u = takeRequest 0x41 false r s ∧ aGet
      s.pool.windows (fieldLe 32 r.payload 0 4) = some w ∧ w.pen = actingPen s r ∧ w.wrap = false ∧ (handleSlots u (actingPen s
      r) w.handle).any (slotMoving u) = false ∧ w.front + 1 = w.layers) ∧
    (∃ (id : W32) (layer block x : Nat) (s : State) (w : Window) (k : ExtKey) (b : Nat), aGet s.pool.windows id = some w ∧
      layerBlock w layer block = (k, b) ∧ layer ∈ w.staged ∧ block < w.stride * 512 ∧ stageRoom s id w = true ∧
      (s.pool.devReqs.any fun r => r.owner == .stage id layer block) = false ∧ (s.pool.images.any fun i => i.window == id &&
      i.layer == layer && i.block == block) = false ∧ (extAt s k).v = true ∧ (extAt s k).cls = .sealed ∧ (extAt s k).st ≠ .lost
      ∧ (memKey s k.1 (extAt s k).keyId).isSome = true ∧ frmPlace (blockFrm s k b) b = .near x ∧ readSt s x = .fine) ∧
    (∃ (id : W32) (layer : Nat) (s : State) (w : Window), aGet s.pool.windows id = some w ∧ layer ∈ w.marked ∧ layerRead s w
      layer = false) ∧
    (∃ (id : W32) (layer : Nat) (s : State) (w : Window), aGet s.pool.windows id = some w ∧ layer ∉ w.marked) :=
  ⟨⟨rv (toLe 4 9 ++ zs 4 ++ toLe 8 0 ++ toLe 4 1 ++ toLe 4 64 ++ [64, 1]), cmxReg, _, aHandle,
     { aWindow with layers := 64, depth := 64, wrap := true, staged := List.range 64 }, ⟨by decide +kernel, by decide +kernel⟩,
     rfl, by decide +kernel⟩,
   ⟨rv (toLe 4 3), cmxWin aWindow, _, aWindow, ⟨by decide +kernel, by decide +kernel⟩, rfl, by decide +kernel⟩,
   ⟨rv (toLe 4 3), cmxWin { aWindow with front := 3 }, _, { aWindow with front := 3 }, ⟨by decide +kernel, by decide +kernel⟩,
     rfl, by decide +kernel⟩,
   ⟨3, 1, 511, 1023,
     { cmxWin aWindow with pool := { (cmxWin aWindow).pool with exts := [((1, 1), { v := true, cls := .sealed, frame := 1 })] } },
     aWindow, (1, 1), 511, by decide +kernel⟩,
   ⟨3, 0, cmxWin { aWindow with marked := [0] }, { aWindow with marked := [0] }, by decide +kernel⟩,
   ⟨3, 0, cmxWin aWindow, aWindow, by decide +kernel⟩⟩

/-- The hypotheses of Leases are met, clause by clause. -/
theorem wit_leases :
    (∃ (r : Req) (s u : State) (h : Holder), Accepts cmdLeaseSet false r s ∧ u = takeRequest 0x23 false r s ∧ r.flags = 0 ∧
      durationOk (leAt r.payload 4 4) = true ∧ ((callerClass s r.chan = .admin ∨ leAt r.payload 0 1 = 0)) ∧ setHolder r = some h
      ∧ slotMoving u (holderSlot h) = false ∧ leaseRevoked u (actingPen s r) h = false ∧ leaseRoom u (actingPen s r) h = true) ∧
    (∃ (r : Req) (s u : State) (h : Holder), Accepts cmdLeaseSet false r s ∧ u = takeRequest 0x23 false r s ∧ r.flags = 1 ∧
      durationOk (leAt r.payload 4 4) = true ∧ leAt r.payload 0 1 = 0 ∧ h = .chan r.chan ∧ slotMoving u (holderSlot h) = false ∧
      leaseRevoked u (actingPen s r) h = false ∧ leaseRoom u (actingPen s r) h = true) ∧
    (∃ (r : Req) (s u : State) (h : Holder) (l : Lease), Accepts cmdLeaseSet false r s ∧ u = takeRequest 0x23 false r s ∧
      r.flags = 2 ∧ durationOk (leAt r.payload 4 4) = true ∧ callerClass s r.chan = .admin ∧ setHolder r = some h ∧ slotMoving u
      (holderSlot h) = false ∧ leaseAt u (actingPen s r) h = some l ∧ l.st ≠ .revoked) ∧
    (∃ (p : Rx) (s u : State) (l : Lease), Passes 0x40 p s ∧ u = station9 0x40 p s ∧ p.handle = 0 ∧ p.addr = 0 ∧ leaseAt u p.pen
      (.node p.src) = some l ∧ l.st ≠ .revoked) ∧
    (∃ (h : Holder) (p : BitVec 12) (s : State) (l : Lease), slotMoving s (holderSlot h) = false ∧ leaseAt s p h = some l ∧ l.st
      = .active) ∧
    (∃ (h : Holder) (p : BitVec 12) (s : State), slotMoving s (holderSlot h) = true) ∧
    (∃ (n : Node) (p : BitVec 12) (s : State) (l : Lease) (k : ExtKey) (o : OwnerRec), slotMoving s (holderSlot (.node n)) =
      false ∧ leaseAt s p (.node n) = some l ∧ l.st = .grace ∧ k.1 = p ∧ s.pool.exts = [(k, extAt s k)] ∧ (extAt s k).v = true ∧
      (extAt s k).cls ≠ .sealed ∧ (extAt s k).owner = some o ∧ o.owner = n ∧ s.share.pubs = [] ∧ s.share.invals = [] ∧ s.pairs =
      []) ∧
    (∃ (p : BitVec 12) (x : BitVec 35) (s : State), reclaimReady s (p, x) = true ∧ slotMoving s (keySlot (p, x)) = false ∧
      (extAt s (p, x)).st = .scrubbing ∧ migOf s (p, x) = none ∧ scrubbable s (p, x) (extFrm (extAt s (p, x))) = true ∧
      s.pool.recalls = [] ∧ s.pool.migCmds = []) ∧
    (∃ (p : BitVec 12) (x : BitVec 35) (s : State), reclaimReady s (p, x) = false) :=
  ⟨⟨rv ([0, 0, 0, 0] ++ toLe 4 100), cmx, _, .chan 1, ⟨by decide +kernel, by decide +kernel⟩, rfl, by decide +kernel⟩,
   ⟨{ rv ([0, 0, 0, 0] ++ toLe 4 60000) with flags := 1 }, cmx, _, .chan 1, ⟨by decide +kernel, by decide +kernel⟩, rfl,
     by decide +kernel⟩,
   ⟨{ rq 0 ([2, 0, 1, 0] ++ toLe 4 0) with flags := 2, pen := 1 }, cmxLease (.chan 1) { dur := 9 }, _, .chan 1, { dur := 9 },
     ⟨by decide +kernel, by decide +kernel⟩, rfl, by decide +kernel⟩,
   ⟨px [], cmxLease (.node 1) { dur := 9, st := .grace }, _, { dur := 9, st := .grace }, passesOf (by decide +kernel)
     (by decide +kernel) (by decide +kernel) (by decide +kernel), rfl, by decide +kernel⟩,
   ⟨.node 1, 1, cmxLease (.node 1) { dur := 9 }, { dur := 9 }, by decide +kernel⟩,
   ⟨.node 1, 1, { cmx with glb := { cmx.glb with moving := [1] } }, by decide +kernel⟩,
   ⟨1, 1,
     { cmxExt { v := true, owner := some { owner := 1 } } with share := { cmx.share with leases := [((1, .node 1), { dur := 9, st := .grace })] }, pairs := [] },
     { dur := 9, st := .grace }, (1, 0), { owner := 1 }, by decide +kernel⟩,
   ⟨1, 0, cmxExt { v := true, st := .scrubbing, reclaim := some (.node 1) }, by decide +kernel⟩,
   ⟨1, 0, cmx, by decide +kernel⟩⟩

end Sys2Proof.Tests
end

