-- ==== Sys2Proof/Tests/Witness5.lean ====
section
/-! SUPPORT. Witnesses: for each clause of the statements named, a state and operands that meet its hypotheses. -/

set_option linter.unusedVariables false
set_option Elab.async false

namespace Sys2Proof.Tests

open Sys2Proof Sys2Proof.Machine

/-- The hypotheses of InvalidationsAndOwners are met, clause by clause. -/
theorem wit_invalidationsAndOwners :
    (∃ (n : Node) (seq : W32) (p : Rx) (s u : State), dueHeld s n 0x10 seq = some p ∧ slotMoving s (invalSlot s p) = false ∧ u =
      unhold n 0x10 seq s ∧ (takeReaders p u).1 = [] ∧ u.share.invals = []) ∧
    (∃ (n : Node) (seq : W32) (p : Rx) (s u : State) (r : Node) (rs : List Node), dueHeld s n 0x10 seq = some p ∧ slotMoving s
      (invalSlot s p) = false ∧ u = unhold n 0x10 seq s ∧ (takeReaders p u).1 = r :: rs ∧ s.share.invals.length < 2 ^ 32) ∧
    (∃ (p : Rx) (s u : State) (v : Inval), (letIn 0x11 p s).1 = true ∧ u = received 0x11 p s ∧ u.share.invals = [v] ∧ v.id =
      p.tag.toNat ∧ v.waiting = [p.src]) ∧
    (∃ (p : Rx) (s u : State) (v : Inval) (r : Node), (letIn 0x11 p s).1 = true ∧ u = received 0x11 p s ∧ u.share.invals = [v] ∧
      v.id = p.tag.toNat ∧ v.waiting = [p.src, r] ∧ r ≠ p.src) ∧
    (∃ (id : Nat) (s : State) (v : Inval), s.share.invals = [v] ∧ v.id = id ∧ v.slow = false ∧ slotMoving s (invalSlot s v.rx) =
      false) ∧
    (∃ (n : Node) (seq : W32) (p : Rx) (s u : State) (o : OwnerRec), dueHeld s n 0x58 seq = some p ∧ slotMoving s (keySlot
      (rxKey s p)) = false ∧ u = unhold n 0x58 seq s ∧ (extAt u (rxKey u p)).v = true ∧ (extAt u (rxKey u p)).cls ≠ .sealed ∧
      (extAt u (rxKey u p)).st = .resident ∧ (extAt u (rxKey u p)).owner = some o ∧ o.epoch.toNat < 0xFFFFFFFC ∧ inTransfer o =
      false ∧ p.src = o.owner ∧ p.step = o.epoch ∧ p.group.setWidth 16 ≠ (0 : Node) ∧ p.group.setWidth 16 ≠ (0xFFFF : Node) ∧
      p.group.setWidth 16 ≠ p.src) ∧
    (∃ (p : Rx) (s u : State) (o : OwnerRec), Passes 0x59 p s ∧ u = station9 0x59 p s ∧ (extAt u (rxKey u p)).owner = some o ∧
      inTransfer o = true ∧ p.src = o.target ∧ p.step = o.epoch ∧ leaseRoom u p.pen (.node p.src) = true) ∧
    (∃ (p : Rx) (s u : State) (o : OwnerRec) (q : Pkt), Passes 0x5A p s ∧ u = station9 0x5A p s ∧ (extAt u (rxKey u p)).owner =
      some o ∧ p.src = o.owner ∧ muted p = false ∧ q =
      { op := 0x5A, pen := (rxKey u p).1, cls := p.cls, epoch := u.routes.current.epoch, addr := p.addr, keyId := (extAt u (rxKey u p)).keyId, step := o.epoch, tag := p.tag }) ∧
    (∃ (p : BitVec 12) (x : BitVec 35) (s : State) (o : OwnerRec), (extAt s (p, x)).owner = some o ∧ inTransfer o = true ∧
      slotMoving s (keySlot (p, x)) = false) ∧
    (∃ (p : BitVec 12) (x : BitVec 35) (s : State) (o : OwnerRec), (extAt s (p, x)).owner = some o ∧ inTransfer o = false) :=
  ⟨⟨1, 1, px [], heldAt 0x10 (px []) cmx, _, by decide +kernel, by decide +kernel, rfl, by decide +kernel⟩,
   ⟨1, 1, { px [] with group := 5 }, heldAt 0x10 { px [] with group := 5 }
     { cmx with share := { cmx.share with regions := [((1, 5), { aRegion with readers := [7, 8] })] } }, _, 7, [8],
     by decide +kernel, by decide +kernel, rfl, by decide +kernel⟩,
   ⟨pxAns [], { cmx with share := { cmx.share with invals := [anInval [1]] } }, _, anInval [1], by decide +kernel, rfl,
     by decide +kernel⟩,
   ⟨pxAns [], { cmx with share := { cmx.share with invals := [anInval [1, 7]] } }, _, anInval [1, 7], 7, by decide +kernel, rfl,
     by decide +kernel⟩,
   ⟨5, { cmx with share := { cmx.share with invals := [anInval [7]] } }, anInval [7], by decide +kernel⟩,
   ⟨1, 1, { px [] with group := 7, step := 0xFFFFFFFA }, heldAt 0x58 { px [] with group := 7, step := 0xFFFFFFFA } (cmxExt
     { v := true, owner := some { owner := 1, epoch := 0xFFFFFFFA } }), _, { owner := 1, epoch := 0xFFFFFFFA },
     by decide +kernel, by decide +kernel, rfl, by decide +kernel⟩,
   ⟨{ px [] with step := 1 }, cmxExt { v := true, owner := some { owner := 7, target := 1, epoch := 1 } }, _,
     { owner := 7, target := 1, epoch := 1 }, passesOf (by decide +kernel) (by decide +kernel) (by decide +kernel)
     (by decide +kernel), rfl, by decide +kernel⟩,
   ⟨px [], cmxExt { v := true, owner := some { owner := 1 } }, _, { owner := 1 }, _, passesOf (by decide +kernel)
     (by decide +kernel) (by decide +kernel) (by decide +kernel), rfl, by decide +kernel, by decide +kernel, by decide +kernel,
     rfl⟩,
   ⟨1, 0, cmxExt { v := true, owner := some { owner := 7, target := 1, epoch := 1 } }, { owner := 7, target := 1, epoch := 1 },
     by decide +kernel⟩,
   ⟨1, 0, cmxExt { v := true, owner := some { owner := 1 } }, { owner := 1 }, by decide +kernel⟩⟩

/-- The hypotheses of TablesAndExpanders are met, clause by clause. -/
theorem wit_tablesAndExpanders :
    (∃ (r : Req) (s u : State) (id : BitVec 3), Accepts (cmdTableBuild r) true r s ∧ u = takeRequest 0x70 true r s ∧ r.flags = 0
      ∧ leAt r.payload 0 1 ≤ 7 ∧ id = BitVec.ofNat 3 (leAt r.payload 0 1) ∧ tableAt u (actingPen s r) id = none ∧ building u
      (actingPen s r) id = false ∧ 128 ≤ ctlFree u) ∧
    (∃ (r : Req) (s u : State) (id : BitVec 3) (n : Nat), Accepts (cmdTableBuild r) true r s ∧ u = takeRequest 0x70 true r s ∧
      r.flags = 1 ∧ leAt r.payload 0 1 ≤ 7 ∧ id = BitVec.ofNat 3 (leAt r.payload 0 1) ∧ n = leAt r.payload 4 4 ∧ 1 ≤ n ∧ n ≤ 64
      ∧ tableAt u (actingPen s r) id = none ∧ building u (actingPen s r) id = false ∧ (∀ k ∈ buildExts (actingPen s r) (inBuf s
      r) n, (leaf u k).isSome = true) ∧ 128 ≤ ctlFree u) ∧
    (∃ (r : Req) (s : State) (id : BitVec 3) (x : Table), Accepts cmdTableRetire false r s ∧ leAt r.payload 0 1 ≤ 7 ∧ id =
      BitVec.ofNat 3 (leAt r.payload 0 1) ∧ tableAt s (actingPen s r) id = some x ∧ x.retiring = false) ∧
    (∃ (p : BitVec 12) (id : BitVec 3) (s : State) (x : Table), tableAt s p id = some x ∧ x.retiring = true ∧ tableHeld s p id
      x.tag = false) ∧
    (∃ (p : BitVec 12) (id : BitVec 3) (s : State) (x : Table), tableAt s p id = some x ∧ tableHeld s p id x.tag = true) ∧
    (∃ (e : ExpRef) (p : BitVec 12) (slot : Nat) (desc : W32) (bytes : List Byte) (s : State), descRaw desc = true) ∧
    (∃ (e : ExpRef) (p : BitVec 12) (slot : Nat) (desc : W32) (bytes : List Byte) (s : State) (x : Table) (i : Fin 8), descRaw
      desc = false ∧ boundTable s p (descTable desc) = some x ∧ slotOfTable (expander s e) p (descTable desc) x.tag = none ∧
      idleSlot (expander s e) = some i) ∧
    (∃ (y : YardRef) (p : BitVec 12) (slot : Nat) (desc : W32) (bytes : List Byte) (s : State), descRaw desc = false ∧
      boundTable s p (descTable desc) = none) ∧
    (∃ (e : ExpRef) (i : Fin 8) (q : ExpSlot) (s : State), aGet (expander s e).slots i = some q) ∧
    (∃ (sh : ShedIx) (u : UnitIx) (s : State), unitReqs s sh .gather u = []) ∧
    (∃ (e : ExpRef) (b : ExpBlock) (s : State), (expander s e).queue = [b] ∧ descRaw b.desc = true) ∧
    (∃ (e : ExpRef) (b : ExpBlock) (s : State), (expander s e).queue = [b] ∧ descRaw b.desc = true) :=
  ⟨⟨{ rv [7] with blen := 1024 }, ctlRoom cmx, _, 7, ⟨by decide +kernel, by decide +kernel⟩, rfl, by decide +kernel,
     by decide +kernel, by decide +kernel, by decide +kernel, by decide +kernel,
     ctlFree_ctlRoom rfl rfl (by decide +kernel) _ _ _⟩,
   ⟨{ rv ([0, 0, 0, 0] ++ toLe 4 1) with blen := 8, flags := 1 }, ctlRoom cmx, _, 0, 1, ⟨by decide +kernel, by decide +kernel⟩,
     rfl, by decide +kernel, by decide +kernel, by decide +kernel, by decide +kernel, by decide +kernel, by decide +kernel, show
     _ from by decide +kernel, by decide +kernel, List.all_eq_true.mp (by decide +kernel),
     ctlFree_ctlRoom rfl rfl (by decide +kernel) _ _ _⟩,
   ⟨rv [0], cmxTab false, 0, aTable false, ⟨by decide +kernel, by decide +kernel⟩, by decide +kernel⟩,
   ⟨1, 0, cmxTab true, aTable true, by decide +kernel⟩,
   ⟨1, 0, cmxExp { slots := [(0, aSlot 1)] } (cmxTab true), aTable true, by decide +kernel⟩,
   ⟨anExp, 1, 0, 0x11000, zs 8, cmx, by decide +kernel⟩,
   ⟨anExp, 1, 0, 0x00008, zs 8, cmxTab false, aTable false, 0, by decide +kernel⟩,
   ⟨⟨0, 0⟩, 1, 0, 8, zs 8, cmx, by decide +kernel⟩,
   ⟨anExp, 7, aSlot 1, cmxExp { slots := [(7, aSlot 1)] } cmx, by decide +kernel⟩,
   ⟨0, 0, cmx, by decide +kernel⟩,
   ⟨anExp, aBlock, cmxExp { queue := [aBlock] } cmx, by decide +kernel⟩,
   ⟨anExp, aBlock, cmxExp { queue := [aBlock] } cmx, by decide +kernel⟩⟩

/-- The hypotheses of ReduceContributions are met, clause by clause. -/
theorem wit_reduceContributions :
    (∃ (p : Rx) (s u : State), Passes 0x20 p s ∧ u = station9 0x20 p s ∧ groupAt u p.group = none) ∧
    (∃ (p : Rx) (s u : State) (x : Group) (m : Member), ∃ (c : Chunk) (k : Member), Passes 0x20 p s ∧ u = station9 0x20 p s ∧
      groupAt u p.group = some x ∧ x.cnt.length = 8 ∧ x.st = .active ∧ p.keyId = x.keyId ∧ p.pen = x.pen ∧ p.addr.toNat <
      x.chunks ∧ seqLt p.step x.start = false ∧ m ∈ x.members ∧ m.node = p.src ∧ expected m p.step = true ∧ (p.step,
      p.addr.toNat) ∉ x.completed ∧ (∀ c, c ∈ x.opened → c.step = p.step → c.index = p.addr.toNat → ∀ a, a ∈ c.arrived → a.1.src
      ≠ p.src) ∧ (chunkFor p.group x p u).1 = some c ∧ k ∈ x.members ∧ expected k p.step = true ∧ k.abandon = false ∧ k.node ≠
      p.src ∧ (∀ a, a ∈ c.arrived → a.1.src ≠ k.node)) ∧
    (∃ (p : Rx) (s u : State) (x : Group) (m : Member), ∃ c : Chunk, Passes 0x20 p s ∧ u = station9 0x20 p s ∧ groupAt u p.group
      = some x ∧ x.cnt.length = 8 ∧ x.st = .active ∧ p.keyId = x.keyId ∧ p.pen = x.pen ∧ p.addr.toNat < x.chunks ∧ seqLt p.step
      x.start = false ∧ m ∈ x.members ∧ m.node = p.src ∧ expected m p.step = true ∧ (p.step, p.addr.toNat) ∉ x.completed ∧ (∀ c,
      c ∈ x.opened → c.step = p.step → c.index = p.addr.toNat → ∀ a, a ∈ c.arrived → a.1.src ≠ p.src) ∧ (chunkFor p.group x p
      u).1 = some c ∧ (∀ k, k ∈ x.members → expected k p.step = true → k.abandon = false → k.node ≠ p.src → ∃ a, a ∈ c.arrived ∧
      a.1.src = k.node)) ∧
    (∃ (p : Rx) (s u : State) (x : Group), Passes 0x20 p s ∧ u = station9 0x20 p s ∧ groupAt u p.group = some x ∧ x.cnt.length =
      8 ∧ (∀ m, m ∈ x.members → m.node ≠ p.src)) ∧
    (∃ (p : Rx) (s u : State) (x : Group) (v : W32 × Nat × Node × List Rx), (letIn 0x21 p s).1 = true ∧ u = received 0x21 p s ∧
      groupAt u p.group = some x ∧ x.upward = [v] ∧ v.1 = p.step ∧ v.2.1 = p.addr.toNat ∧ v.2.2.1 = p.src) ∧
    (∃ (p : Rx) (s : State), (letIn 0x21 p s).1 = true ∧ groupAt (received 0x21 p s) p.group = none) :=
  ⟨⟨pxChunk, cmx, _, passesOf (by decide +kernel) (by decide +kernel) (by decide +kernel) (by decide +kernel), rfl,
     by decide +kernel⟩,
   ⟨pxChunk, cmxGroup aGroup, _, aGroup, aMember 1, aChunk, aMember 2, passesOf (by decide +kernel) (by decide +kernel)
     (by decide +kernel) (by decide +kernel), rfl, by decide +kernel⟩,
   ⟨pxChunk, cmxGroup { aGroup with opened := [{ aChunk with arrived := [({ pxChunk with src := 2, payload := [] }, 0)] }] }, _,
     { aGroup with opened := [{ aChunk with arrived := [({ pxChunk with src := 2, payload := [] }, 0)] }] }, aMember 1,
     { aChunk with arrived := [({ pxChunk with src := 2, payload := [] }, 0)] }, passesOf (by decide +kernel)
     (by decide +kernel) (by decide +kernel) (by decide +kernel), rfl, by decide +kernel⟩,
   ⟨pxChunk, cmxGroup { aGroup with members := [aMember 2] }, _, { aGroup with members := [aMember 2] }, passesOf
     (by decide +kernel) (by decide +kernel) (by decide +kernel) (by decide +kernel), rfl, by decide +kernel⟩,
   ⟨pxChunk, cmxGroup { aGroup with upward := [(0, 0, 1, [])] }, _, { aGroup with upward := [(0, 0, 1, [])] }, (0, 0, 1, []),
     by decide +kernel, rfl, by decide +kernel⟩,
   ⟨pxChunk, cmx, by decide +kernel⟩⟩

/-- The hypotheses of GroupCommands are met, clause by clause. -/
theorem wit_groupCommands :
    (∃ (r : Req) (s u : State) (b : List Byte) (x : Group) (sl : (Assoc : _) (ShedIx × UnitIx) Nat), Accepts cmdGroupCreate true
      r s ∧ u = takeRequest 0x50 true r s ∧ b = inBuf s r ∧ x = descGroup (actingPen s r) r.chan b ∧ b.length = 64 + 4 * leAt b
      20 2 ∧ groupOk u b x = true ∧ slotMoving u (groupSlot (fieldLe 32 b 0 4)) = false ∧ groupAt u (fieldLe 32 b 0 4) = none ∧
      u.groups.length < 4096 ∧ (reserve (slotKib x) x.window (namedSheds u) u).1 = some sl) ∧
    (∃ (r : Req) (s u : State) (g : W32) (n : Node) (x : Group) (m : Member), Accepts cmdGroupEvict false r s ∧ u = takeRequest
      0x51 false r s ∧ r.flags = 0 ∧ g = fieldLe 32 r.payload 0 4 ∧ n = fieldLe 16 r.payload 4 2 ∧ slotMoving u (groupSlot g) =
      false ∧ groupAt s g = some x ∧ mayManage x r.chan = true ∧ x.members.find? (fun q => q.node == n) = some m ∧ evictStatus x
      (some m) false r.now = stOk ∧ x.completed = [] ∧ 0 < x.chunks ∧ (x.front + 1 - x.start).toNat ≠ 0) ∧
    (∃ (r : Req) (s u : State) (g : W32) (n : Node) (x : Group), Accepts cmdGroupAdmit false r s ∧ u = takeRequest 0x52 false r
      s ∧ g = fieldLe 32 r.payload 0 4 ∧ n = fieldLe 16 r.payload 4 2 ∧ slotMoving u (groupSlot g) = false ∧ groupAt s g = some
      x ∧ mayManage x r.chan = true ∧ x.st = .active ∧ leAt r.payload 6 1 ≤ 1 ∧ (∀ m, m ∈ x.members → m.node ≠ n) ∧
      x.members.length < 512) ∧
    (∃ (r : Req) (s u : State) (g : W32) (x : Group), Accepts cmdGroupDestroy false r s ∧ u = takeRequest 0x53 false r s ∧ g =
      fieldLe 32 r.payload 0 4 ∧ slotMoving u (groupSlot g) = false ∧ groupAt s g = some x ∧ mayManage x r.chan = true ∧ x.st ≠
      .destroying) ∧
    (∃ (g : W32) (s : State) (x : Group), groupAt s g = some x ∧ x.st = .destroying ∧ resultQueued s g = false) ∧
    (∃ (g : W32) (s : State), resultQueued s g = true) ∧
    (∃ (g : W32) (s : State) (x : Group), groupAt s g = some x ∧ slotMoving s (groupSlot g) = false) ∧
    (∃ (x : Group) (m : Member), m.owed ≠ 0) ∧
    (∃ (x : Group) (m : Member), m.owed ≠ 0) ∧
    (∃ (x : Group) (m : Member), m.owed ≠ 0) ∧
    (∃ (g : W32) (s : State), slotMoving s (groupSlot g) = true) ∧
    (∃ (r : Req) (s u : State) (g : W32) (x : Group) (b : List Byte), Accepts (cmdGetHealth 2) false r s ∧ u = takeRequest
      (cmdGetHealth 2).op false r s ∧ g = fieldLe 32 r.payload 4 4 ∧ slotMoving u (groupSlot g) = false ∧ groupAt u g = some x ∧
      b = groupReport u r.chan g x r.now ∧ outTooShort r b = false) :=
  ⟨⟨{ rq 0 [] with pen := 1, blen := 68 }, descState, _, _, _, [((0, 0), 8), ((1, 0), 8), ((2, 0), 8), ((3, 0), 8)],
     ⟨by decide +kernel, by decide +kernel⟩, rfl, rfl, rfl, by decide +kernel⟩,
   ⟨rv (toLe 4 5 ++ [2, 0]), cmxGroup { aGroup with members := [aMember 1, { aMember 2 with low := 3 }] }, _, 5, 2,
     { aGroup with members := [aMember 1, { aMember 2 with low := 3 }] }, { aMember 2 with low := 3 }, ⟨by decide +kernel,
     by decide +kernel⟩, rfl, by decide +kernel⟩,
   ⟨rv (toLe 4 5 ++ [9, 0, 1]), cmxGroup aGroup, _, 5, 9, aGroup, ⟨by decide +kernel, by decide +kernel⟩, rfl,
     by decide +kernel⟩,
   ⟨rv (toLe 4 5), cmxGroup aGroup, _, 5, aGroup, ⟨by decide +kernel, by decide +kernel⟩, rfl, by decide +kernel⟩,
   ⟨5, cmxGroup { aGroup with st := .destroying }, { aGroup with st := .destroying }, by decide +kernel⟩,
   ⟨5,
     { cmx with pairs := [(1, { rxCum := 0, settled := 0, txNext := 1, backlog := [{ pkt := { op := 0x21, group := 5 } }] })] },
     by decide +kernel⟩,
   ⟨5, cmxGroup aGroup, aGroup, by decide +kernel⟩,
   ⟨aGroup, { aMember 1 with owed := 1 }, by decide +kernel⟩,
   ⟨aGroup, { aMember 1 with owed := 1, ontime := 1 }, by decide +kernel⟩,
   ⟨aGroup, { aMember 1 with owed := 1, low := 255 }, by decide +kernel⟩,
   ⟨5, { cmx with glb := { cmx.glb with moving := [1] } }, by decide +kernel⟩,
   ⟨{ rv ([2, 0, 0, 0] ++ toLe 4 5) with blen := 4096 }, cmxGroup aGroup, _, 5, aGroup, _, ⟨by decide +kernel,
     by decide +kernel⟩, rfl, by decide +kernel, by decide +kernel, by decide +kernel, rfl, by decide +kernel⟩⟩

/-- The hypotheses of UnitRequests are met, clause by clause. -/
theorem wit_unitRequests :
    (∃ (p : Rx) (s u : State) (q : UnitReq), Passes 0x28 p s ∧ u = station9 0x28 p s ∧ q =
      { id := 0, src := .cmx 0x28 p, filter := false, pen := p.pen, cls := p.cls, handle := p.handle, step := p.step, session := p.group, desc := p.payload.take 64, tail := p.payload.drop 64, shed := 0 }
      ∧ u.work.reqs = [] ∧ pickUnits u (reqShed u p q) .gather = []) ∧
    (∃ (p : Rx) (s u : State) (q : UnitReq), Passes 0x30 p s ∧ u = station9 0x30 p s ∧ q =
      { id := 0, src := .cmx 0x30 p, filter := true, pen := p.pen, cls := p.cls, handle := p.handle, step := p.step, session := p.group, desc := p.payload.take 64, tail := p.payload.drop 64, shed := 0 }
      ∧ u.work.reqs = [] ∧ pickUnits u (reqShed u p q) .filter = []) ∧
    (∃ (sh : ShedIx) (k : UnitKind) (q : UnitReq) (s : State), s.work.reqs.find? (fun q => q.shed == sh && reqKind q == k &&
      q.unit.isNone) = some q) ∧
    (∃ (sh : ShedIx) (k : UnitKind) (s : State), (∀ q ∈ s.work.reqs, q.unit ≠ none)) ∧
    (∃ (id rid : Nat) (j : Job) (q : UnitReq) (bytes : List Byte) (s : State), jobAt s id = some j ∧ j.orig = .fetch rid ∧ reqAt
      s rid = some q ∧ j.result = some (.ok bytes) ∧ q.filter = false) ∧
    (∃ (id rid : Nat) (j : Job) (q : UnitReq) (bytes : List Byte) (corrupt : (List : _) (ShedIx × Nat)) (s : State), jobAt s id
      = some j ∧ j.orig = .fetch rid ∧ reqAt s rid = some q ∧ j.result = some (.ok bytes) ∧ q.filter = true) ∧
    (∃ (id rid : Nat) (j : Job) (q : UnitReq) (reason : BitVec 8) (d : W32) (op : BitVec 8) (rx : Rx) (s : State), jobAt s id =
      some j ∧ j.orig = .fetch rid ∧ s.work.reqs = [q] ∧ q.id = rid ∧ j.result = some (.err reason d) ∧ q.src = .cmx op rx ∧
      q.filter = false) ∧
    (∃ (id rid : Nat) (j : Job) (q : UnitReq) (reason : BitVec 8) (d : W32) (op : BitVec 8) (rx : Rx) (s : State), jobAt s id =
      some j ∧ j.orig = .fetch rid ∧ s.work.reqs = [q] ∧ q.id = rid ∧ j.result = some (.err reason d) ∧ q.src = .cmx op rx ∧
      q.filter = true) ∧
    (∃ (id : Nat) (s : State), jobAt s id = none) :=
  ⟨⟨px (zs 64), cmxNo, _, _, passesOf (by decide +kernel) (by decide +kernel) (by decide +kernel) (by decide +kernel), rfl, rfl,
     by decide +kernel⟩,
   ⟨px (zs 64), cmxNo, _, _, passesOf (by decide +kernel) (by decide +kernel) (by decide +kernel) (by decide +kernel), rfl, rfl,
     by decide +kernel⟩,
   ⟨0, .gather, aUnitReq false none, cmxReqs (aUnitReq false none) [], by decide +kernel⟩,
   ⟨0, .gather, cmxReqs (aUnitReq false (some 0)) [], by decide +kernel⟩,
   ⟨4, 2, aJob (.ok [1]), aUnitReq false (some 0), [1], cmxReqs (aUnitReq false (some 0)) [aJob (.ok [1])], by decide +kernel⟩,
   ⟨4, 2, aJob (.ok [1]), aUnitReq true (some 0), [1], [], cmxReqs (aUnitReq true (some 0)) [aJob (.ok [1])], by decide +kernel⟩,
   ⟨4, 2, aJob (.err 6 0), aUnitReq false (some 0), 6, 0, 0x28, px (zs 64), cmxReqs (aUnitReq false (some 0)) [aJob (.err 6 0)],
     by decide +kernel⟩,
   ⟨4, 2, aJob (.err 6 0), aUnitReq true (some 0), 6, 0, 0x28, px (zs 64), cmxReqs (aUnitReq true (some 0)) [aJob (.err 6 0)],
     by decide +kernel⟩,
   ⟨4, cmx, by decide +kernel⟩⟩

/-- The hypotheses of MatchBanks are met, clause by clause. -/
theorem wit_matchBanks :
    (∃ (r : Req) (s u v : State) (k st : Nat), Accepts (cmdMatchLoad r) true r s ∧ u = takeRequest 0x62 true r s ∧ 1 ≤ leAt
      r.payload 0 4 ∧ leAt r.payload 0 4 ≤ 1024 ∧ (s.jnl.nvLock = true → (loadList u r).any (fun o => leAt o 0 1 == 4) = false)
      ∧ loadOps r (loadList u r) 0 u = (k, st, v)) ∧
    (∃ (r : Req) (o : List Byte) (os : (List : _) (List Byte)) (n st : Nat) (s v : State), loadOp r o s = (st, v) ∧ st ≠ stOk) ∧
    (∃ (r : Req) (o : List Byte) (os : (List : _) (List Byte)) (n st : Nat) (s v : State), loadOp r o s = (st, v) ∧ st = stOk) ∧
    (∃ (r : MRow) (s : State), (mpart s r.part).kind = 1 ∧ r.mask = BitVec.allOnes 160 ∧ exactPresent s r = false ∧ underQuota
      (pen s r.pen).qMatch (penRows s r.pen) = true ∧ freeRows s (exactBank s r.pen r.part r.key) r.part ≠ []) ∧
    (∃ (r q : MRow) (sh : ShedIx) (a : RowAt) (s : State), findRow s (fun q => q.part == r.part && q.pen == r.pen && q.key ==
      r.key && q.mask == r.mask && q.prio == r.prio) = some (sh, a, q)) ∧
    (∃ (sh : ShedIx) (part : Fin 16) (g n hole : Nat) (r : MRow) (s : State), n = effective s 0x20700 ∧ n ≠ 0 ∧ hole = n * g +
      (n - 1) ∧ (mpart s part).kind = 2 ∧ hole < partRows s part ∧ ((freeRows s sh part).any (fun f => decide (n * g ≤ f ∧ f ≤
      hole)) = false) ∧ nearestFree (freeRows s sh part) hole = [hole + 1] ∧ aGet (bank s sh).rows (part, hole) = some r ∧ (bank
      s sh).dead.contains (part, hole) = false) ∧
    (∃ (sh : ShedIx) (part : Fin 16) (g : Nat) (s : State), (mpart s part).kind ≠ 2) ∧
    (∃ (sh : ShedIx) (s : State), islRunning s (shcOf sh) = true ∧ (bank s sh).mode = false ∧ (∀ a r, rowAt s (bank s sh).scan =
      some a → aGet (bank s sh).rows a = some r → r.check = rowCheck r)) ∧
    (∃ (sh : ShedIx) (s : State), (bank s sh).mode = true) ∧
    (∃ (sh : ShedIx) (a : RowAt) (s : State), islRunning s (shcOf sh) = true ∧ (bank s sh).mode = false ∧ rowAt s (bank s
      sh).scan = some a) ∧
    (∃ (sh : ShedIx) (row failed : Nat) (a : RowAt) (r : MRow) (s : State), s.kpr.state = .running ∧ rowAt s row = some a ∧ aGet
      (bank s sh).owed a = some r ∧ failsAgain s sh a failed = false) ∧
    (∃ (sh : ShedIx) (row failed : Nat) (a : RowAt) (r : MRow) (s : State), s.kpr.state = .running ∧ rowAt s row = some a ∧ aGet
      (bank s sh).owed a = some r ∧ failsAgain s sh a failed = true) ∧
    (∃ (sh : ShedIx) (row failed : Nat) (s : State), s.kpr.state ≠ .running) ∧
    (∃ (sh : ShedIx) (r : MRow) (s v : State), s.kpr.state = .running ∧ s.work.reqs = [] ∧ s.sw.lofted = [] ∧ (bank s sh).lost =
      [r] ∧ insertRow { r with hits := 0 } (modBank sh (fun b => { b with lost := [] }) s) = some v) ∧
    (∃ (sh : ShedIx) (s : State), s.kpr.state ≠ .running) :=
  ⟨⟨loadReq, loadState, loadTaken, loadEnd.2.2, loadEnd.1, loadEnd.2.1, ⟨by decide +kernel, by decide +kernel⟩, loadTaken_eq,
     by decide +kernel, by decide +kernel, by decide +kernel, loadEnd_eq⟩,
   ⟨loadReq, zs 80, [], 0, stBadParam, loadState, loadState, by decide +kernel⟩,
   ⟨loadReq, delOp, [], 0, (loadOp loadReq delOp delState).1, delState, (loadOp loadReq delOp delState).2, eta2 _,
     by decide +kernel⟩,
   ⟨aRow, cmxBank 1 1 {}, by decide +kernel⟩,
   ⟨aRow, aRow, 0, (1, 5), cmxBank 1 1 { rows := [((1, 5), aRow)] }, by decide +kernel⟩,
   ⟨0, 1, 0, 16, 15, aRow, cmxBank 2 8 { rows := (List.range 16).map fun i => ((1, i), aRow) }, by decide +kernel⟩,
   ⟨0, 1, 0, cmx, by decide +kernel⟩,
   ⟨0, cmx, by decide +kernel, by decide +kernel, fun _ _ _ h => nomatch (show (none : Option MRow) = some _ from h)⟩,
   ⟨0, cmxBank 1 1 { mode := true }, by decide +kernel⟩,
   ⟨0, (1, 0), cmxBank 1 1 {}, by decide +kernel⟩,
   ⟨0, 0, 5, (1, 0), aRow, cmxBank 1 1 { owed := [((1, 0), aRow)] }, by decide +kernel⟩,
   ⟨0, 0, 86399999999999, (1, 0), aRow, cmxBank 1 1 { owed := [((1, 0), aRow)], failedAt := [((1, 0), 0)] }, by decide +kernel⟩,
   ⟨0, 0, 0, State.reset, by decide +kernel⟩,
   ⟨0, aRow, cmxBank 1 1 { lost := [aRow] }, (insertRow { aRow with hits := 0 } (modBank 0 (fun b => { b with lost := [] })
     (cmxBank 1 1 { lost := [aRow] }))).get (insertRow_exact_isSome (by decide +kernel) (by decide +kernel)), by decide +kernel,
     by decide +kernel, by decide +kernel, by decide +kernel, (Option.some_get _).symm⟩,
   ⟨0, State.reset, by decide +kernel⟩⟩

/-- The hypotheses of Sessions are met, clause by clause. -/
theorem wit_sessions :
    (∃ (r : Req) (s u : State) (slot : Nat) (x : Session), Accepts cmdSessionInsert false r s ∧ u = takeRequest 0x60 false r s ∧
      slotMoving u (freeSessionHome u) = false ∧ freeSession u = some slot ∧ x =
      { gen := nextGen (aGetD s.work.sessGen slot 0), pen := actingPen s r, image := r.payload.take 128 } ∧ underQuota (pen u
      (actingPen s r)).qSessions (penSessions u (actingPen s r)) = true ∧ (r.payload.getD 6 0).getLsbD 0 = false) ∧
    (∃ (r : Req) (s u v : State) (slot : Nat) (x : Session) (row : MRow), Accepts cmdSessionInsert false r s ∧ u = takeRequest
      0x60 false r s ∧ slotMoving u (freeSessionHome u) = false ∧ freeSession u = some slot ∧ x =
      { gen := nextGen (aGetD s.work.sessGen slot 0), pen := actingPen s r, image := r.payload.take 128 } ∧ row =
      { key := sessionKey r.payload, mask := BitVec.allOnes 160, prio := 0, pen := actingPen s r, part := 1, result := (sessionId slot x).setWidth 64 }
      ∧ underQuota (pen u (actingPen s r)).qSessions (penSessions u (actingPen s r)) = true ∧ (r.payload.getD 6 0).getLsbD 0 =
      true ∧ exactPresent u row = false ∧ insertRow row u = some v) ∧
    (∃ (r : Req) (s u : State) (slot : Nat) (x : Session), Accepts cmdSessionDelete false r s ∧ u = takeRequest 0x61 false r s ∧
      slotMoving u (Fin.ofNat 4 (leAt r.payload 0 4)) = false ∧ activeSession u (fieldLe 32 r.payload 0 4) = some slot ∧
      sessionAt u slot = some x ∧ ((isAdmin r.chan = true ∨ x.pen = actingPen s r))) ∧
    (∃ (id : W32) (slot : Nat) (x : Session) (s : State), slot = id.toNat % 2 ^ 21 ∧ sessionAt s slot = some x ∧ x.deleting =
      true ∧ (pen s x.pen).state ≠ .closing ∧ (pen s x.pen).state ≠ .quarantine ∧ slotMoving s (Fin.ofNat 4 slot) = false ∧
      sessionId slot x = id ∧ sessionBusy s slot = false) ∧
    (∃ (id : W32) (s : State), sessionBusy s (id.toNat % 2 ^ 21) = true) :=
  ⟨⟨rv (zs 128), cmx, _, 0, _, ⟨by decide +kernel, by decide +kernel⟩, rfl, by decide +kernel, by decide +kernel, rfl,
     by decide +kernel⟩,
   ⟨sessReq, cmxBank 1 1 {}, _, (insertRow sessRow (takeRequest 0x60 false sessReq (cmxBank 1 1 {}))).get
     (insertRow_exact_isSome (by decide +kernel) (by decide +kernel)), 0,
     { gen := 1, pen := 1, image := sessReq.payload.take 128 }, sessRow, ⟨by decide +kernel, by decide +kernel⟩, rfl,
     by decide +kernel, by decide +kernel, by decide +kernel, by decide +kernel, by decide +kernel, by decide +kernel, show _
     from by decide +kernel, (Option.some_get _).symm⟩,
   ⟨rv (toLe 4 (2 ^ 21)), cmxSess false, _, 0, aSession false, ⟨by decide +kernel, by decide +kernel⟩, rfl, by decide +kernel⟩,
   ⟨0x200000, 0, aSession true, cmxSess true, by decide +kernel⟩,
   ⟨0x200000, { cmx with work := { cmx.work with reqs := [{ aUnitReq false none with sess := some 0 }] } }, by decide +kernel⟩⟩

end Sys2Proof.Tests
end

