-- ==== Sys2Proof/Tests/Witness6.lean ====
section
/-! SUPPORT. Witnesses: for each clause of the statements named, a state and operands that meet its hypotheses. -/

set_option linter.unusedVariables false
set_option Elab.async false

namespace Sys2Proof.Tests

open Sys2Proof Sys2Proof.Machine

/-- The hypotheses of YardTasks are met, clause by clause. -/
theorem wit_yardTasks :
    (∃ (r : Req) (s u : State) (p : BitVec 12), Accepts cmdProgramLoad true r s ∧ u = takeRequest 0x80 true r s ∧ r.flags = 0 ∧
      p = actingPen s r ∧ imageValid (inBuf s r) = true ∧ (penPrograms s p).length < 64 ∧ (inBuf s r).length + 80 ≤ ctlFree u) ∧
    (∃ (r : Req) (s : State) (id : W32) (img : List Byte), Accepts cmdProgramRemove false r s ∧ r.flags = 1 ∧ id = fieldLe 32
      r.payload 0 4 ∧ aGet s.work.programs (actingPen s r, id) = some img ∧ ((allTasks s).any (fun t => decide (t.pen =
      actingPen s r ∧ taskProgram t = id)) = false)) ∧
    (∃ (r : Req) (s u : State) (p : BitVec 12), Accepts cmdTaskSubmit false r s ∧ u = takeRequest 0x81 false r s ∧ p = actingPen
      s r ∧ taskOkFields u r.chan p (r.payload.take 128) = true ∧ taskSheds u (r.payload.take 128) ≠ [] ∧ (∀ sh ∈ taskSheds u
      (r.payload.take 128), queued u sh < 1024) ∧ penTasks u p < (pen u p).qTasks.toNat ∧ (allTasks s).length < 2 ^ 32) ∧
    (∃ (y : YardRef) (k : Task) (q : TaskQ) (s : State), s.work.stopped = [] ∧ yardIdle s y = true ∧ nextTask (taskQ s y.shed) =
      some (k, q)) ∧
    (∃ (y : YardRef) (s : State), s.work.stopped = [] ∧ yardIdle s y = false) ∧
    (∃ (y : YardRef) (k : Task) (s : State), (yard s y).task = some k ∧ leAt k.desc 16 4 ≠ 0) ∧
    (∃ (y : YardRef) (k : Task) (s : State), (yard s y).task = some k ∧ leAt k.desc 16 4 = 0) ∧
    (∃ (y : YardRef) (c : BitVec 8) (s : State), islRunning s (yrdOf y.shed) = true ∧ y.yard ≠ 16 ∧ (unit s y.shed .yard
      y.yard).st = .active ∧ (unit s y.shed .yard y.yard).drain = none ∧ (unit s y.shed .yard 16).st = .spareFree ∧ s.kpr.state
      = .running ∧ (yard s y).task = none ∧ s.work.stopped = []) ∧
    (∃ (y : YardRef) (c : BitVec 8) (s : State), islRunning s (yrdOf y.shed) = false) ∧
    (∃ (y : YardRef) (s : State), (yard s y).task = none) ∧
    (∃ (y : YardRef) (k : Task) (s : State), (yard s y).task = some k) ∧
    (∃ (y : YardRef) (s : State), yardWorks s y = true ∧ (yard s y).task = none ∧ (yard s y).testing = false) ∧
    (∃ (y : YardRef) (now : Nat) (s : State), (yard s y).testing = true ∧ (yard s y).testRuns ≠ 0xFFFF) ∧
    (∃ (y : YardRef) (r : BitVec 8) (ok : Bool) (now : Nat) (s : State), (yard s y).testing = false) ∧
    (∃ (y z : YardRef) (g : Yard → Yard) (pc : W64) (s : State), z ≠ y) ∧
    (∃ (y : YardRef) (f : YF) (s : State), (yard s y).task = none) ∧
    (∃ (y : YardRef) (f : YF) (t : Task) (s : State), yardWorks s y = true ∧ (yard s y).task = some t ∧ (yard s y).mload = none
      ∧ ((f.rsv ≠ 0 ∨ f.pred ≠ 0 ∨ f.rc ≠ 0 ∨ f.aux ≠ 0 ∨ f.fmt ≠ 0))) :=
  ⟨⟨{ rv [] with blen := 80 }, progState, _, 1, ⟨by decide +kernel, by decide +kernel⟩, rfl, by decide +kernel,
     by decide +kernel, by decide +kernel, by decide +kernel, ctlFree_ctlRoom rfl rfl (by decide +kernel) _ _ _⟩,
   ⟨{ rv (toLe 4 1) with flags := 1 }, yardOf {}, 1, zs 64 ++ [0x10] ++ zs 15, ⟨by decide +kernel, by decide +kernel⟩,
     by decide +kernel⟩,
   ⟨taskReq, yardOf {}, _, 1, ⟨by decide +kernel, by decide +kernel⟩, rfl, by decide +kernel⟩,
   ⟨y0, aTask, {},
     { yardOf {} with shd := [(0, { dispatch := true })], work := { (yardOf {}).work with taskQs := [(0, { queue := [aTask], turn := [1] })] } },
     by decide +kernel⟩,
   ⟨y0, yardUp, by decide +kernel⟩,
   ⟨y0, { aTask with desc := zs 16 ++ toLe 4 1 ++ zs 108 }, yardOf
     { task := some { aTask with desc := zs 16 ++ toLe 4 1 ++ zs 108 } }, by decide +kernel⟩,
   ⟨y0, aTask, yardUp, by decide +kernel⟩,
   ⟨y0, 3, yardOf {}, by decide +kernel⟩,
   ⟨y0, 3, State.reset, by decide +kernel⟩,
   ⟨y0, yardOf {}, by decide +kernel⟩,
   ⟨y0, aTask, yardUp, by decide +kernel⟩,
   ⟨y0, yardOf {}, by decide +kernel⟩,
   ⟨y0, 0, yardOf { testing := true }, by decide +kernel⟩,
   ⟨y0, 0, true, 0, yardOf {}, by decide +kernel⟩,
   ⟨y0, ⟨0, 1⟩, id, 0, yardUp, by decide +kernel⟩,
   ⟨y0, {}, yardOf {}, by decide +kernel⟩,
   ⟨y0, { rsv := 1 }, aTask, yardUp, by decide +kernel⟩⟩

/-- The hypotheses of ScalarInstructions are met, clause by clause. -/
theorem wit_scalarInstructions :
    (∃ (y : YardRef) (f : YF) (t : Task) (s : State) (a b : W64), a = getS (yard s y) f.ra ∧ b = opB (yard s y) f ∧ Issues y f
      { rd := true, ra := true, b := true } t s) ∧
    (∃ (y : YardRef) (f : YF) (t : Task) (s : State) (a b : W64), a = getS (yard s y) f.ra ∧ b = opB (yard s y) f ∧ Issues y f
      { rd := true, ra := true, b := true, aux := 7 } t s ∧ auxBits f 2 0 ≤ 5) ∧
    (∃ (y : YardRef) (f : YF) (t : Task) (s : State) (a b : W64), a = getS (yard s y) f.ra ∧ b = opB (yard s y) f ∧ Issues y f
      { rd := true, ra := true, b := true, aux := 7 } t s ∧ 5 < auxBits f 2 0) ∧
    (∃ (y : YardRef) (f : YF) (t : Task) (s : State) (a b : W64), a = getS (yard s y) f.ra ∧ b = opB (yard s y) f ∧ Issues y f
      { rd := true, imm := true } t s) ∧
    (∃ (y : YardRef) (f : YF) (t : Task) (s : State) (a : W64), ∃ k, a = getS (yard s y) f.ra + f.imm ∧ Issues y f
      { rd := true, ra := true, imm := true, aux := 7 } t s ∧ scalarTarget t a.toNat (accSize f) = .scratch k) ∧
    (∃ (y : YardRef) (f : YF) (t : Task) (s : State) (a : W64), a = getS (yard s y) f.ra + f.imm ∧ Issues y f
      { rd := true, ra := true, imm := true, aux := 7 } t s ∧ scalarTarget t a.toNat (accSize f) = .bad) ∧
    (∃ (y : YardRef) (f : YF) (t : Task) (s : State) (a : W64), ∃ line off x u, a = getS (yard s y) f.ra + f.imm ∧ Issues y f
      { rd := true, ra := true, imm := true, aux := 7 } t s ∧ scalarTarget t a.toNat (accSize f) = .window line off ∧ cohLoad
      (yardCache y) line s = (some x, u) ∧ x.poison = false ∧ isPoisoned u line = false) ∧
    (∃ (y : YardRef) (f : YF) (t : Task) (s : State) (a : W64), ∃ k, a = getS (yard s y) f.ra + f.imm ∧ Issues y f
      { ra := true, rb := true, imm := true, aux := 3 } t s ∧ scalarTarget t a.toNat (accSize f) = .scratch k) ∧
    (∃ (y : YardRef) (f : YF) (t : Task) (s : State) (a : W64), a = getS (yard s y) f.ra + f.imm ∧ Issues y f
      { ra := true, rb := true, imm := true, aux := 3 } t s ∧ scalarTarget t a.toNat (accSize f) = .bad) ∧
    (∃ (y : YardRef) (f : YF) (t : Task) (s : State) (a : W64), ∃ line off u, a = getS (yard s y) f.ra + f.imm ∧ Issues y f
      { ra := true, rb := true, imm := true, aux := 3 } t s ∧ scalarTarget t a.toNat (accSize f) = .window line off ∧ cohStore
      (yardCache y) t.pen line off (toLe (accSize f) (getS (yard s y) f.rb).toNat) s = (true, u)) ∧
    (∃ (y : YardRef) (f : YF) (t : Task) (s : State) (a : W64), a = getS (yard s y) f.ra + f.imm ∧ Issues y f
      { ra := true, imm := true } t s ∧ f.imm.toNat % 16 = 0 ∧ getS (yard s y) f.ra = 0) ∧
    (∃ (y : YardRef) (f : YF) (t : Task) (s : State) (a : W64), a = getS (yard s y) f.ra + f.imm ∧ Issues y f
      { ra := true, imm := true } t s ∧ f.imm.toNat % 16 = 0 ∧ getS (yard s y) f.ra ≠ 0) ∧
    (∃ (y : YardRef) (f : YF) (t : Task) (s : State) (a : W64), a = getS (yard s y) f.ra + f.imm ∧ Issues y f
      { ra := true, imm := true } t s ∧ f.imm.toNat % 16 = 0 ∧ getS (yard s y) f.ra = 1) ∧
    (∃ (y : YardRef) (f : YF) (t : Task) (s : State) (a : W64), a = getS (yard s y) f.ra + f.imm ∧ Issues y f
      { ra := true, imm := true } t s ∧ f.imm.toNat % 16 = 0 ∧ getS (yard s y) f.ra ≠ 1) ∧
    (∃ (y : YardRef) (f : YF) (t : Task) (s : State) (a : W64), a = getS (yard s y) f.ra + f.imm ∧ Issues y f
      { ra := true, imm := true } t s ∧ f.imm.toNat % 16 ≠ 0) ∧
    (∃ (y : YardRef) (f : YF) (t : Task) (s : State) (a : W64), a = getS (yard s y) f.ra + f.imm ∧ Issues y f { imm := true } t
      s ∧ f.imm.toNat % 16 = 0) ∧
    (∃ (y : YardRef) (f : YF) (t : Task) (s : State) (a : W64), a = getS (yard s y) f.ra + f.imm ∧ Issues y f
      { ra := true, imm := true } t s ∧ a.toNat % 16 = 0) :=
  ⟨⟨y0, { rd := 31, immb := true, imm := 7 }, aTask, yardUp, _, _, rfl, rfl, ⟨by decide +kernel, by decide +kernel,
     by decide +kernel, by decide +kernel, by decide +kernel⟩⟩,
   ⟨y0, { rd := 1, aux := 5 }, aTask, yardUp, _, _, rfl, rfl, ⟨by decide +kernel, by decide +kernel, by decide +kernel,
     by decide +kernel, by decide +kernel⟩, by decide +kernel⟩,
   ⟨y0, { rd := 1, aux := 6 }, aTask, yardUp, _, _, rfl, rfl, ⟨by decide +kernel, by decide +kernel, by decide +kernel,
     by decide +kernel, by decide +kernel⟩, by decide +kernel⟩,
   ⟨y0, { rd := 1, imm := 7 }, aTask, yardUp, _, _, rfl, rfl, ⟨by decide +kernel, by decide +kernel, by decide +kernel,
     by decide +kernel, by decide +kernel⟩⟩,
   ⟨y0, { rd := 1, imm := 8 }, aTask, yardUp, _, 8, rfl, ⟨by decide +kernel, by decide +kernel, by decide +kernel,
     by decide +kernel, by decide +kernel⟩, by decide +kernel⟩,
   ⟨y0, { rd := 1, imm := 0xFFFFFFFFFFFFFFFF }, aTask, yardUp, _, rfl, ⟨by decide +kernel, by decide +kernel, by decide +kernel,
     by decide +kernel, by decide +kernel⟩, by decide +kernel⟩,
   ⟨y0, { rd := 1, imm := 0x10000000000 }, aTask, yardLine .s, _, 524288, 0, aLine .s, yardLine .s, rfl, ⟨by decide +kernel,
     by decide +kernel, by decide +kernel, by decide +kernel, by decide +kernel⟩, by decide +kernel⟩,
   ⟨y0, { rb := 1, imm := 8 }, aTask, yardUp, _, 8, rfl, ⟨by decide +kernel, by decide +kernel, by decide +kernel,
     by decide +kernel, by decide +kernel⟩, by decide +kernel⟩,
   ⟨y0, { rb := 1, imm := 0x80000000000 }, aTask, yardUp, _, rfl, ⟨by decide +kernel, by decide +kernel, by decide +kernel,
     by decide +kernel, by decide +kernel⟩, by decide +kernel⟩,
   ⟨y0, { rb := 1, imm := 0x10000000000 }, aTask, yardLine .m, _, 524288, 0, (cohStore (yardCache y0) 1 524288 0 (toLe 1 0)
     (yardLine .m)).2, rfl, ⟨by decide +kernel, by decide +kernel, by decide +kernel, by decide +kernel, by decide +kernel⟩,
     by decide +kernel, pair_of_fst (by decide +kernel)⟩,
   ⟨y0, { ra := 0, imm := 16 }, aTask, yardUp, _, rfl, ⟨by decide +kernel, by decide +kernel, by decide +kernel,
     by decide +kernel, by decide +kernel⟩, by decide +kernel⟩,
   ⟨y0, { ra := 1, imm := 16 }, aTask, yardOf { aYard with s := [(1, 1)] }, _, rfl, ⟨by decide +kernel, by decide +kernel,
     by decide +kernel, by decide +kernel, by decide +kernel⟩, by decide +kernel⟩,
   ⟨y0, { ra := 1, imm := 16 }, aTask, yardOf { aYard with s := [(1, 1)] }, _, rfl, ⟨by decide +kernel, by decide +kernel,
     by decide +kernel, by decide +kernel, by decide +kernel⟩, by decide +kernel⟩,
   ⟨y0, { ra := 0, imm := 16 }, aTask, yardUp, _, rfl, ⟨by decide +kernel, by decide +kernel, by decide +kernel,
     by decide +kernel, by decide +kernel⟩, by decide +kernel⟩,
   ⟨y0, { ra := 0, imm := 8 }, aTask, yardUp, _, rfl, ⟨by decide +kernel, by decide +kernel, by decide +kernel,
     by decide +kernel, by decide +kernel⟩, by decide +kernel⟩,
   ⟨y0, { imm := 16 }, aTask, yardUp, _, rfl, ⟨by decide +kernel, by decide +kernel, by decide +kernel, by decide +kernel,
     by decide +kernel⟩, by decide +kernel⟩,
   ⟨y0, { imm := 16 }, aTask, yardUp, _, rfl, ⟨by decide +kernel, by decide +kernel, by decide +kernel, by decide +kernel,
     by decide +kernel⟩, by decide +kernel⟩⟩

/-- The hypotheses of VectorLanes are met, clause by clause. -/
theorem wit_vectorLanes :
    (∃ (y : YardRef) (f : YF) (t : Task) (s : State) (d : Yard) (w : Nat) (va vb : Nat → Int) (ra rb : Nat → Nat), d = yard s y
      ∧ d.vl.toNat ≤ 2048 ∧ (getV d f.rd.toNat).length = 256 ∧ w = laneBytes f.fmt.toNat ∧ va = laneVal (laneFmt f) (getV d
      f.ra.toNat) ∧ vb = laneVal (laneFmt f) (getV d f.rb.toNat) ∧ ra = laneRaw (getV d f.ra.toNat) w ∧ rb = laneRaw (getV d
      f.rb.toNat) w ∧ Issues y f { pred := true, rd := true, ra := true, rb := true, fmts := laneFmts } t s) ∧
    (∃ (y : YardRef) (f : YF) (t : Task) (s : State) (d : Yard) (w : Nat) (va vb : Nat → Int) (ra rb : Nat → Nat), d = yard s y
      ∧ d.vl.toNat ≤ 2048 ∧ (getV d f.rd.toNat).length = 256 ∧ w = laneBytes f.fmt.toNat ∧ va = laneVal (laneFmt f) (getV d
      f.ra.toNat) ∧ vb = laneVal (laneFmt f) (getV d f.rb.toNat) ∧ ra = laneRaw (getV d f.ra.toNat) w ∧ rb = laneRaw (getV d
      f.rb.toNat) w ∧ Issues y f { pred := true, rd := true, ra := true, rb := true, fmts := laneFmts } t s) ∧
    (∃ (y : YardRef) (f : YF) (t : Task) (s : State) (d : Yard) (w : Nat) (va vb : Nat → Int) (ra rb : Nat → Nat), d = yard s y
      ∧ d.vl.toNat ≤ 2048 ∧ (getV d f.rd.toNat).length = 256 ∧ w = laneBytes f.fmt.toNat ∧ va = laneVal (laneFmt f) (getV d
      f.ra.toNat) ∧ vb = laneVal (laneFmt f) (getV d f.rb.toNat) ∧ ra = laneRaw (getV d f.ra.toNat) w ∧ rb = laneRaw (getV d
      f.rb.toNat) w ∧ Issues y f { pred := true, rd := true, ra := true, rb := true, fmts := laneFmts } t s) ∧
    (∃ (y : YardRef) (f : YF) (t : Task) (s : State) (d : Yard) (w : Nat) (va vb : Nat → Int) (ra rb : Nat → Nat), d = yard s y
      ∧ d.vl.toNat ≤ 2048 ∧ (getV d f.rd.toNat).length = 256 ∧ w = laneBytes f.fmt.toNat ∧ va = laneVal (laneFmt f) (getV d
      f.ra.toNat) ∧ vb = laneVal (laneFmt f) (getV d f.rb.toNat) ∧ ra = laneRaw (getV d f.ra.toNat) w ∧ rb = laneRaw (getV d
      f.rb.toNat) w ∧ Issues y f { pred := true, rd := true, ra := true, rb := true, fmts := laneFmts } t s) ∧
    (∃ (y : YardRef) (f : YF) (t : Task) (s : State) (d : Yard) (w : Nat) (va vb : Nat → Int) (ra rb : Nat → Nat), d = yard s y
      ∧ d.vl.toNat ≤ 2048 ∧ (getV d f.rd.toNat).length = 256 ∧ w = laneBytes f.fmt.toNat ∧ va = laneVal (laneFmt f) (getV d
      f.ra.toNat) ∧ vb = laneVal (laneFmt f) (getV d f.rb.toNat) ∧ ra = laneRaw (getV d f.ra.toNat) w ∧ rb = laneRaw (getV d
      f.rb.toNat) w ∧ Issues y f { pred := true, rd := true, ra := true, rb := true, fmts := laneFmts } t s) ∧
    (∃ (y : YardRef) (f : YF) (t : Task) (s : State) (d : Yard) (w : Nat) (va vb : Nat → Int) (ra rb : Nat → Nat), d = yard s y
      ∧ d.vl.toNat ≤ 2048 ∧ (getV d f.rd.toNat).length = 256 ∧ w = laneBytes f.fmt.toNat ∧ va = laneVal (laneFmt f) (getV d
      f.ra.toNat) ∧ vb = laneVal (laneFmt f) (getV d f.rb.toNat) ∧ ra = laneRaw (getV d f.ra.toNat) w ∧ rb = laneRaw (getV d
      f.rb.toNat) w ∧ Issues y f { pred := true, rd := true, ra := true, rb := true, fmts := [0, 1, 2, 3, 4] } t s) ∧
    (∃ (y : YardRef) (f : YF) (t : Task) (s : State) (d : Yard) (w : Nat) (va vb : Nat → Int) (ra rb : Nat → Nat), d = yard s y
      ∧ d.vl.toNat ≤ 2048 ∧ (getV d f.rd.toNat).length = 256 ∧ w = laneBytes f.fmt.toNat ∧ va = laneVal (laneFmt f) (getV d
      f.ra.toNat) ∧ vb = laneVal (laneFmt f) (getV d f.rb.toNat) ∧ ra = laneRaw (getV d f.ra.toNat) w ∧ rb = laneRaw (getV d
      f.rb.toNat) w ∧ Issues y f { pred := true, rd := true, ra := true, rb := true, fmts := [0, 1, 2, 3, 4] } t s) ∧
    (∃ (y : YardRef) (f : YF) (t : Task) (s : State) (d : Yard) (w : Nat) (va vb : Nat → Int) (ra rb : Nat → Nat), d = yard s y
      ∧ d.vl.toNat ≤ 2048 ∧ (getV d f.rd.toNat).length = 256 ∧ w = laneBytes f.fmt.toNat ∧ va = laneVal (laneFmt f) (getV d
      f.ra.toNat) ∧ vb = laneVal (laneFmt f) (getV d f.rb.toNat) ∧ ra = laneRaw (getV d f.ra.toNat) w ∧ rb = laneRaw (getV d
      f.rb.toNat) w ∧ Issues y f { pred := true, rd := true, ra := true, rb := true, fmts := [0, 1, 2, 3, 4] } t s) ∧
    (∃ (y : YardRef) (f : YF) (t : Task) (s : State) (d : Yard) (w : Nat) (va vb : Nat → Int) (ra rb : Nat → Nat), d = yard s y
      ∧ d.vl.toNat ≤ 2048 ∧ (getV d f.rd.toNat).length = 256 ∧ w = laneBytes f.fmt.toNat ∧ va = laneVal (laneFmt f) (getV d
      f.ra.toNat) ∧ vb = laneVal (laneFmt f) (getV d f.rb.toNat) ∧ ra = laneRaw (getV d f.ra.toNat) w ∧ rb = laneRaw (getV d
      f.rb.toNat) w ∧ Issues y f { pred := true, rd := true, ra := true, b := true, fmts := laneFmts } t s) ∧
    (∃ (y : YardRef) (f : YF) (t : Task) (s : State) (d : Yard) (w : Nat) (va vb : Nat → Int) (ra rb : Nat → Nat), d = yard s y
      ∧ d.vl.toNat ≤ 2048 ∧ (getV d f.rd.toNat).length = 256 ∧ w = laneBytes f.fmt.toNat ∧ va = laneVal (laneFmt f) (getV d
      f.ra.toNat) ∧ vb = laneVal (laneFmt f) (getV d f.rb.toNat) ∧ ra = laneRaw (getV d f.ra.toNat) w ∧ rb = laneRaw (getV d
      f.rb.toNat) w ∧ Issues y f { pred := true, rd := true, ra := true, rb := true, rc := true, fmts := laneFmts } t s) :=
  ⟨⟨y0, { pred := 15, rd := 31, ra := 1, rb := 2, fmt := 4 }, aTask, yardUp, _, _, _, _, _, _, rfl, by decide +kernel,
     by decide +kernel, rfl, rfl, rfl, rfl, rfl, ⟨by decide +kernel, by decide +kernel, by decide +kernel, by decide +kernel,
     by decide +kernel⟩⟩,
   ⟨y0, { pred := 15, rd := 31, ra := 1, rb := 2, fmt := 4 }, aTask, yardUp, _, _, _, _, _, _, rfl, by decide +kernel,
     by decide +kernel, rfl, rfl, rfl, rfl, rfl, ⟨by decide +kernel, by decide +kernel, by decide +kernel, by decide +kernel,
     by decide +kernel⟩⟩,
   ⟨y0, { pred := 15, rd := 31, ra := 1, rb := 2, fmt := 4 }, aTask, yardUp, _, _, _, _, _, _, rfl, by decide +kernel,
     by decide +kernel, rfl, rfl, rfl, rfl, rfl, ⟨by decide +kernel, by decide +kernel, by decide +kernel, by decide +kernel,
     by decide +kernel⟩⟩,
   ⟨y0, { pred := 15, rd := 31, ra := 1, rb := 2, fmt := 4 }, aTask, yardUp, _, _, _, _, _, _, rfl, by decide +kernel,
     by decide +kernel, rfl, rfl, rfl, rfl, rfl, ⟨by decide +kernel, by decide +kernel, by decide +kernel, by decide +kernel,
     by decide +kernel⟩⟩,
   ⟨y0, { pred := 15, rd := 31, ra := 1, rb := 2, fmt := 4 }, aTask, yardUp, _, _, _, _, _, _, rfl, by decide +kernel,
     by decide +kernel, rfl, rfl, rfl, rfl, rfl, ⟨by decide +kernel, by decide +kernel, by decide +kernel, by decide +kernel,
     by decide +kernel⟩⟩,
   ⟨y0, { rd := 1, ra := 2, rb := 3, fmt := 1 }, aTask, yardUp, _, _, _, _, _, _, rfl, by decide +kernel, by decide +kernel,
     rfl, rfl, rfl, rfl, rfl, ⟨by decide +kernel, by decide +kernel, by decide +kernel, by decide +kernel, by decide +kernel⟩⟩,
   ⟨y0, { pred := 15, rd := 31, ra := 1, rb := 2, fmt := 4 }, aTask, yardUp, _, _, _, _, _, _, rfl, by decide +kernel,
     by decide +kernel, rfl, rfl, rfl, rfl, rfl, ⟨by decide +kernel, by decide +kernel, by decide +kernel, by decide +kernel,
     by decide +kernel⟩⟩,
   ⟨y0, { pred := 15, rd := 31, ra := 1, rb := 2, fmt := 4 }, aTask, yardUp, _, _, _, _, _, _, rfl, by decide +kernel,
     by decide +kernel, rfl, rfl, rfl, rfl, rfl, ⟨by decide +kernel, by decide +kernel, by decide +kernel, by decide +kernel,
     by decide +kernel⟩⟩,
   ⟨y0, { rd := 31, fmt := 4, immb := true, imm := 7 }, aTask, yardUp, _, _, _, _, _, _, rfl, by decide +kernel,
     by decide +kernel, rfl, rfl, rfl, rfl, rfl, ⟨by decide +kernel, by decide +kernel, by decide +kernel, by decide +kernel,
     by decide +kernel⟩⟩,
   ⟨y0, { rd := 1, ra := 2, rb := 3, rc := 4, fmt := 3 }, aTask, yardUp, _, _, _, _, _, _, rfl, by decide +kernel,
     by decide +kernel, rfl, rfl, rfl, rfl, rfl, ⟨by decide +kernel, by decide +kernel, by decide +kernel, by decide +kernel,
     by decide +kernel⟩⟩⟩

/-- The hypotheses of VectorOthers are met, clause by clause. -/
theorem wit_vectorOthers :
    (∃ (y : YardRef) (f : YF) (t : Task) (s : State) (d : Yard) (a n w : Nat), d = yard s y ∧ a = (getS d f.ra + f.imm).toNat ∧
      n = d.vl.toNat / 8 ∧ w = laneBytes f.fmt.toNat ∧ Issues y f
      { pred := true, rd := true, ra := true, imm := true, aux := 31 } t s ∧ countOk f f.rd.toNat = true ∧ vectorAddr a (n *
      regCount f) = true) ∧
    (∃ (y : YardRef) (f : YF) (t : Task) (s : State) (d : Yard) (a n w : Nat), d = yard s y ∧ a = (getS d f.ra + f.imm).toNat ∧
      n = d.vl.toNat / 8 ∧ w = laneBytes f.fmt.toNat ∧ Issues y f
      { pred := true, rd := true, ra := true, imm := true, aux := 31 } t s ∧ countOk f f.rd.toNat = true ∧ vectorAddr a (n *
      regCount f) = false) ∧
    (∃ (y : YardRef) (f : YF) (t : Task) (s : State) (d : Yard) (a n w : Nat), d = yard s y ∧ a = (getS d f.ra + f.imm).toNat ∧
      n = d.vl.toNat / 8 ∧ w = laneBytes f.fmt.toNat ∧ Issues y f
      { pred := true, rd := true, ra := true, imm := true, aux := 31 } t s ∧ countOk f f.rd.toNat = false) ∧
    (∃ (y : YardRef) (f : YF) (t : Task) (s : State) (d : Yard) (a n w : Nat), d = yard s y ∧ a = (getS d f.ra + f.imm).toNat ∧
      n = d.vl.toNat / 8 ∧ w = laneBytes f.fmt.toNat ∧ Issues y f { rd := true, ra := true, imm := true, aux := 31 } t s ∧
      countOk f f.rd.toNat = true ∧ vectorAddr a (n * regCount f) = true) ∧
    (∃ (y : YardRef) (f : YF) (t : Task) (s : State) (d : Yard) (a n w : Nat), d = yard s y ∧ a = (getS d f.ra + f.imm).toNat ∧
      n = d.vl.toNat / 8 ∧ w = laneBytes f.fmt.toNat ∧ Issues y f
      { pred := true, rd := true, ra := true, imm := true, aux := 31, fmts := [0, 2] } t s ∧ regCount f = 1 ∧ vectorAddr a (2 *
      scaleRun d f) = true) ∧
    (∃ (y : YardRef) (f : YF) (t : Task) (s : State) (d : Yard) (a n w : Nat), d = yard s y ∧ a = (getS d f.ra + f.imm).toNat ∧
      n = d.vl.toNat / 8 ∧ w = laneBytes f.fmt.toNat ∧ Issues y f
      { rd := true, ra := true, imm := true, aux := 31, fmts := [0, 2] } t s ∧ countOk f f.rd.toNat = true ∧ vectorAddr a (2 *
      scaleRun d f * regCount f) = true) ∧
    (∃ (y : YardRef) (f : YF) (t : Task) (s : State) (d : Yard) (a n w : Nat), d = yard s y ∧ a = (getS d f.ra + f.imm).toNat ∧
      n = d.vl.toNat / 8 ∧ w = laneBytes f.fmt.toNat ∧ Issues y f
      { pred := true, rd := true, ra := true, imm := true, fmts := laneFmts } t s) ∧
    (∃ (y : YardRef) (f : YF) (t : Task) (s : State) (d : Yard) (a n w : Nat), d = yard s y ∧ a = (getS d f.ra + f.imm).toNat ∧
      n = d.vl.toNat / 8 ∧ w = laneBytes f.fmt.toNat ∧ Issues y f
      { pred := true, rd := true, ra := true, rb := true, imm := true } t s ∧ f.imm.toNat ≤ n) ∧
    (∃ (y : YardRef) (f : YF) (t : Task) (s : State) (d : Yard) (a n w : Nat), d = yard s y ∧ a = (getS d f.ra + f.imm).toNat ∧
      n = d.vl.toNat / 8 ∧ w = laneBytes f.fmt.toNat ∧ Issues y f { pred := true, rd := true, ra := true, fmts := [3, 4] } t s) ∧
    (∃ (y : YardRef) (f : YF) (t : Task) (s : State) (d : Yard) (a n w : Nat), d = yard s y ∧ a = (getS d f.ra + f.imm).toNat ∧
      n = d.vl.toNat / 8 ∧ w = laneBytes f.fmt.toNat ∧ Issues y f
      { rd := true, ra := true, rb := true, aux := 7, fmts := laneFmts } t s ∧ auxBits f 2 0 ≤ 5) ∧
    (∃ (y : YardRef) (f : YF) (t : Task) (s : State) (d : Yard) (a n w : Nat), d = yard s y ∧ a = (getS d f.ra + f.imm).toNat ∧
      n = d.vl.toNat / 8 ∧ w = laneBytes f.fmt.toNat ∧ Issues y f
      { rd := true, ra := true, rb := true, aux := 7, fmts := laneFmts } t s ∧ 5 < auxBits f 2 0) ∧
    (∃ (y : YardRef) (f : YF) (t : Task) (s : State) (d : Yard) (a n w : Nat), d = yard s y ∧ a = (getS d f.ra + f.imm).toNat ∧
      n = d.vl.toNat / 8 ∧ w = laneBytes f.fmt.toNat ∧ Issues y f { rd := true, ra := true, rb := true, aux := 7 } t s ∧ auxBits
      f 2 0 ≤ 4) ∧
    (∃ (y : YardRef) (f : YF) (t : Task) (s : State) (d : Yard) (a n w : Nat), d = yard s y ∧ a = (getS d f.ra + f.imm).toNat ∧
      n = d.vl.toNat / 8 ∧ w = laneBytes f.fmt.toNat ∧ Issues y f
      { pred := true, rd := true, ra := true, rb := true, fmts := [0, 2] } t s ∧ f.rd.toNat + wideRegs f ≤ 32) ∧
    (∃ (y : YardRef) (f : YF) (t : Task) (s : State) (d : Yard) (a n w : Nat), d = yard s y ∧ a = (getS d f.ra + f.imm).toNat ∧
      n = d.vl.toNat / 8 ∧ w = laneBytes f.fmt.toNat ∧ Issues y f
      { pred := true, rd := true, ra := true, rb := true, rc := true, rnd := true, aux := 0x3FFF, fmts := [0, 2] } t s ∧
      f.ra.toNat + wideRegs f ≤ 32) ∧
    (∃ (y : YardRef) (f : YF) (t : Task) (s : State) (d : Yard) (a n w : Nat), d = yard s y ∧ a = (getS d f.ra + f.imm).toNat ∧
      n = d.vl.toNat / 8 ∧ w = laneBytes f.fmt.toNat ∧ Issues y f
      { pred := true, rd := true, ra := true, rb := true, aux := 1, fmts := [3] } t s) ∧
    (∃ (y : YardRef) (f : YF) (t : Task) (s : State) (d : Yard) (a n w : Nat), d = yard s y ∧ a = (getS d f.ra + f.imm).toNat ∧
      n = d.vl.toNat / 8 ∧ w = laneBytes f.fmt.toNat ∧ Issues y f { rd := true, ra := true, aux := 3, fmts := [3, 4] } t s ∧
      auxBits f 1 0 = 0) ∧
    (∃ (y : YardRef) (f : YF) (t : Task) (s : State) (d : Yard) (a n w : Nat), ∃ x xs, d = yard s y ∧ a = (getS d f.ra +
      f.imm).toNat ∧ n = d.vl.toNat / 8 ∧ w = laneBytes f.fmt.toNat ∧ Issues y f
      { rd := true, ra := true, aux := 3, fmts := [3, 4] } t s ∧ ((auxBits f 1 0 = 1 ∨ auxBits f 1 0 = 2)) ∧ (List.range (lanes
      d w)).map (fun i => elemAt (laneFmt f) (getV d f.ra.toNat) i) = x :: xs) :=
  ⟨⟨y0, { rd := 16, aux := 16 }, aTask, yardUp, _, _, _, _, rfl, rfl, rfl, rfl, ⟨by decide +kernel, by decide +kernel,
     by decide +kernel, by decide +kernel, by decide +kernel⟩, by decide +kernel⟩,
   ⟨y0, { rd := 1, aux := 1, imm := 16 }, aTask, yardUp, _, _, _, _, rfl, rfl, rfl, rfl, ⟨by decide +kernel, by decide +kernel,
     by decide +kernel, by decide +kernel, by decide +kernel⟩, by decide +kernel⟩,
   ⟨y0, { rd := 31, aux := 2 }, aTask, yardUp, _, _, _, _, rfl, rfl, rfl, rfl, ⟨by decide +kernel, by decide +kernel,
     by decide +kernel, by decide +kernel, by decide +kernel⟩, by decide +kernel⟩,
   ⟨y0, { rd := 16, aux := 16 }, aTask, yardUp, _, _, _, _, rfl, rfl, rfl, rfl, ⟨by decide +kernel, by decide +kernel,
     by decide +kernel, by decide +kernel, by decide +kernel⟩, by decide +kernel⟩,
   ⟨y0, { rd := 1, aux := 1, fmt := 2 }, aTask, yardUp, _, _, _, _, rfl, rfl, rfl, rfl, ⟨by decide +kernel, by decide +kernel,
     by decide +kernel, by decide +kernel, by decide +kernel⟩, by decide +kernel⟩,
   ⟨y0, { rd := 31, aux := 1 }, aTask, yardUp, _, _, _, _, rfl, rfl, rfl, rfl, ⟨by decide +kernel, by decide +kernel,
     by decide +kernel, by decide +kernel, by decide +kernel⟩, by decide +kernel⟩,
   ⟨y0, { rd := 1, imm := 5, fmt := 3 }, aTask, yardUp, _, _, _, _, rfl, rfl, rfl, rfl, ⟨by decide +kernel, by decide +kernel,
     by decide +kernel, by decide +kernel, by decide +kernel⟩⟩,
   ⟨y0, { rd := 1, ra := 2, rb := 3, imm := 256 }, aTask, yardUp, _, _, _, _, rfl, rfl, rfl, rfl, ⟨by decide +kernel,
     by decide +kernel, by decide +kernel, by decide +kernel, by decide +kernel⟩, by decide +kernel⟩,
   ⟨y0, { rd := 1, ra := 2, fmt := 4 }, aTask, yardUp, _, _, _, _, rfl, rfl, rfl, rfl, ⟨by decide +kernel, by decide +kernel,
     by decide +kernel, by decide +kernel, by decide +kernel⟩⟩,
   ⟨y0, { rd := 1, ra := 2, rb := 3, aux := 5 }, aTask, yardUp, _, _, _, _, rfl, rfl, rfl, rfl, ⟨by decide +kernel,
     by decide +kernel, by decide +kernel, by decide +kernel, by decide +kernel⟩, by decide +kernel⟩,
   ⟨y0, { rd := 1, aux := 7 }, aTask, yardUp, _, _, _, _, rfl, rfl, rfl, rfl, ⟨by decide +kernel, by decide +kernel,
     by decide +kernel, by decide +kernel, by decide +kernel⟩, by decide +kernel⟩,
   ⟨y0, { rd := 1, ra := 2, rb := 3, aux := 4 }, aTask, yardUp, _, _, _, _, rfl, rfl, rfl, rfl, ⟨by decide +kernel,
     by decide +kernel, by decide +kernel, by decide +kernel, by decide +kernel⟩, by decide +kernel⟩,
   ⟨y0, { rd := 28, ra := 1, rb := 2 }, aTask, yardUp, _, _, _, _, rfl, rfl, rfl, rfl, ⟨by decide +kernel, by decide +kernel,
     by decide +kernel, by decide +kernel, by decide +kernel⟩, by decide +kernel⟩,
   ⟨y0, { rd := 1, ra := 28, rb := 2, rc := 3, rnd := 2 }, aTask, yardUp, _, _, _, _, rfl, rfl, rfl, rfl, ⟨by decide +kernel,
     by decide +kernel, by decide +kernel, by decide +kernel, by decide +kernel⟩, by decide +kernel⟩,
   ⟨y0, { rd := 1, fmt := 3, aux := 1 }, aTask, yardUp, _, _, _, _, rfl, rfl, rfl, rfl, ⟨by decide +kernel, by decide +kernel,
     by decide +kernel, by decide +kernel, by decide +kernel⟩⟩,
   ⟨y0, { rd := 1, fmt := 4, aux := 0 }, aTask, yardUp, _, _, _, _, rfl, rfl, rfl, rfl, ⟨by decide +kernel, by decide +kernel,
     by decide +kernel, by decide +kernel, by decide +kernel⟩, by decide +kernel⟩,
   ⟨y0, { rd := 1, fmt := 3, aux := 2 }, aTask, yardUp, _, _, _, _, 0, List.replicate 63 0, rfl, rfl, rfl, rfl,
     ⟨by decide +kernel, by decide +kernel, by decide +kernel, by decide +kernel, by decide +kernel⟩, by decide +kernel⟩⟩

/-- The hypotheses of MatrixInstructions are met, clause by clause. -/
theorem wit_matrixInstructions :
    (∃ (y : YardRef) (f : YF) (t : Task) (s : State) (d : Yard) (a : Nat), d = yard s y ∧ a = (getS d f.ra + f.imm).toNat ∧
      Issues y f { rd := true, ra := true, imm := true, fmts := [0, 1, 2] } t s ∧ a % 4096 = 0 ∧ inScratch a 4096 = true ∧
      descRaw (slotDesc d (a / 4096)) = true) ∧
    (∃ (y : YardRef) (f : YF) (t : Task) (s : State) (d : Yard) (a : Nat), d = yard s y ∧ a = (getS d f.ra + f.imm).toNat ∧
      Issues y f { rd := true, ra := true, imm := true, fmts := [0, 1, 2] } t s ∧ ((a % 4096 ≠ 0 ∨ inScratch a 4096 = false))) ∧
    (∃ (y : YardRef) (f : YF) (t : Task) (s : State) (d : Yard) (a : Nat), d = yard s y ∧ a = (getS d f.ra + f.imm).toNat ∧
      Issues y f { rd := true, ra := true, imm := true, fmts := [0, 1, 2] } t s ∧ a % 4096 = 0 ∧ inScratch a 4096 = true ∧
      descRaw (slotDesc d (a / 4096)) = false ∧ (expander s (.yard y)).queue = [] ∧ boundTable s (aGetD d.sgrant (a / 4096)
      t.pen) (descTable (slotDesc d (a / 4096))) = none) ∧
    (∃ (y : YardRef) (f : YF) (t : Task) (s : State) (d : Yard) (a : Nat), d = yard s y ∧ a = (getS d f.ra + f.imm).toNat ∧
      Issues y f { rd := true, ra := true, imm := true, fmts := [0, 1, 2] } t s ∧ a % 2 = 0 ∧ inScratch a (2 * tileScales f.fmt)
      = true ∧ descRaw (slotDesc d (a / 4096)) = true) ∧
    (∃ (y : YardRef) (f : YF) (t : Task) (s : State) (d : Yard) (a : Nat), d = yard s y ∧ a = (getS d f.ra + f.imm).toNat ∧
      Issues y f { rd := true, ra := true } t s ∧ -512 ≤ (getS d f.ra).toInt ∧ (getS d f.ra).toInt ≤ 511) ∧
    (∃ (y : YardRef) (f : YF) (t : Task) (s : State) (d : Yard) (a : Nat), d = yard s y ∧ a = (getS d f.ra + f.imm).toNat ∧
      Issues y f { rd := true, ra := true } t s ∧ ((getS d f.ra).toInt < -512 ∨ 511 < (getS d f.ra).toInt)) ∧
    (∃ (y : YardRef) (f : YF) (t : Task) (s : State) (d : Yard) (a : Nat), ∃ fm, d = yard s y ∧ a = (getS d f.ra + f.imm).toNat
      ∧ Issues y f { rd := true, ra := true, rb := true, fmts := [0, 1, 2] } t s ∧ fmtOf f.fmt.toNat = some fm) ∧
    (∃ (y : YardRef) (f : YF) (t : Task) (s : State) (d : Yard) (a : Nat), d = yard s y ∧ a = (getS d f.ra + f.imm).toNat ∧
      Issues y f { rd := true, ra := true, rb := true } t s ∧ 512 ≤ d.vl.toNat ∧ f.ra.toNat + panelRegs d ≤ f.rb.toNat ∧
      f.rb.toNat + panelRegs d ≤ 32) ∧
    (∃ (y : YardRef) (f : YF) (t : Task) (s : State) (d : Yard) (a : Nat), ∃ qs es, d = yard s y ∧ a = (getS d f.ra +
      f.imm).toNat ∧ Issues y f
      { rd := true, ra := true, rb := true, rc := true, imm := true, rnd := true, aux := 0x3FFF, fmts := [0, 1, 2] } t s ∧
      f.imm.toNat < 1024 ∧ f.imm.getLsbD 8 = true ∧ qs = mstBlocks d f ((mstValues d f).map (·.1)) ∧ es = (qs.map fun q =>
      packElems ((fmtOf f.fmt.toNat).getD .ebi8) q.q).flatten ∧ inScratch (getS d f.rb).toNat (es.length + 256) = true) ∧
    (∃ (y : YardRef) (f : YF) (t : Task) (s : State) (d : Yard) (a : Nat), d = yard s y ∧ a = (getS d f.ra + f.imm).toNat ∧
      Issues y f { pred := true, rd := true, ra := true, imm := true } t s ∧ d.vl.toNat = 2048 ∧ f.pred = 0 ∧ f.imm.toNat ≤ 63 ∧
      f.rd.toNat ≤ 30 ∧ (getV d f.rd.toNat).length = 256 ∧ (getV d (f.rd.toNat + 1)).length = 256) :=
  ⟨⟨y0, { rd := 3, imm := 4096 }, aTask, yardUp, _, _, rfl, rfl, ⟨by decide +kernel, by decide +kernel, by decide +kernel,
     by decide +kernel, by decide +kernel⟩, by decide +kernel⟩,
   ⟨y0, { rd := 3, imm := 8 }, aTask, yardUp, _, _, rfl, rfl, ⟨by decide +kernel, by decide +kernel, by decide +kernel,
     by decide +kernel, by decide +kernel⟩, by decide +kernel⟩,
   ⟨y0, { rd := 3 }, aTask, yardOf { aYard with sdesc := [(0, 8)] }, _, _, rfl, rfl, ⟨by decide +kernel, by decide +kernel,
     by decide +kernel, by decide +kernel, by decide +kernel⟩, by decide +kernel⟩,
   ⟨y0, { rd := 3, imm := 2 }, aTask, yardUp, _, _, rfl, rfl, ⟨by decide +kernel, by decide +kernel, by decide +kernel,
     by decide +kernel, by decide +kernel⟩, by decide +kernel⟩,
   ⟨y0, { rd := 1, ra := 1 }, aTask, yardOf { aYard with s := [(1, 511)] }, _, _, rfl, rfl, ⟨by decide +kernel,
     by decide +kernel, by decide +kernel, by decide +kernel, by decide +kernel⟩, by decide +kernel⟩,
   ⟨y0, { rd := 1, ra := 1 }, aTask, yardOf { aYard with s := [(1, 512)] }, _, _, rfl, rfl, ⟨by decide +kernel,
     by decide +kernel, by decide +kernel, by decide +kernel, by decide +kernel⟩, by decide +kernel⟩,
   ⟨y0, { rd := 1, ra := 2, rb := 3, fmt := 1 }, aTask, yardUp, _, _, .ebi4, rfl, rfl, ⟨by decide +kernel, by decide +kernel,
     by decide +kernel, by decide +kernel, by decide +kernel⟩, by decide +kernel⟩,
   ⟨y0, { ra := 0, rb := 28 }, aTask, yardUp, _, _, rfl, rfl, ⟨by decide +kernel, by decide +kernel, by decide +kernel,
     by decide +kernel, by decide +kernel⟩, by decide +kernel⟩,
   ⟨y0, { rd := 1, imm := 256 }, aTask, yardUp, _, _, _, _, rfl, rfl, ⟨by decide +kernel, by decide +kernel, by decide +kernel,
     by decide +kernel, by decide +kernel⟩, by decide +kernel, by decide +kernel, rfl, rfl, by decide +kernel⟩,
   ⟨y0, { rd := 30, imm := 63 }, aTask, yardUp, _, _, rfl, rfl, ⟨by decide +kernel, by decide +kernel, by decide +kernel,
     by decide +kernel, by decide +kernel⟩, by decide +kernel⟩⟩

/-- The hypotheses of StreamAndSystem are met, clause by clause. -/
theorem wit_streamAndSystem :
    (∃ (y : YardRef) (f : YF) (t : Task) (s : State) (d : Yard), ∃ a b, d = yard s y ∧ Issues y f
      { ra := true, imm := true, aux := 31 } t s ∧ portAt d (auxPort f) = none ∧ auxBits f 4 4 = 0 ∧ a = (getS d f.ra +
      f.imm).toNat ∧ inScratch a 64 = true ∧ b = scratchRead d t.pen a 64 ∧ portDescOk s b = true ∧ pMode b = 3) ∧
    (∃ (y : YardRef) (f : YF) (t : Task) (s : State) (d : Yard), ∃ x, d = yard s y ∧ Issues y f
      { ra := true, imm := true, aux := 31 } t s ∧ portAt d (auxPort f) = some x ∧ x.closed = false) ∧
    (∃ (y : YardRef) (f : YF) (t : Task) (s : State) (d : Yard), ∃ x k bs c rest, d = yard s y ∧ Issues y f
      { rd := true, imm := true, aux := 15 } t s ∧ portAt d (auxPort f) = some x ∧ x.out = false ∧ x.landed = (k, bs, c) :: rest
      ∧ x.held = [] ∧ f.imm = 0 ∧ (expander s (.yard y)).queue = []) ∧
    (∃ (y : YardRef) (f : YF) (t : Task) (s : State) (d : Yard), ∃ x, d = yard s y ∧ Issues y f
      { rd := true, imm := true, aux := 15 } t s ∧ portAt d (auxPort f) = some x ∧ x.out = true) ∧
    (∃ (y : YardRef) (f : YF) (t : Task) (s : State) (d : Yard), ∃ x a, d = yard s y ∧ Issues y f
      { ra := true, imm := true, aux := 15 } t s ∧ portAt d (auxPort f) = some x ∧ x.out = true ∧ x.closed = false ∧ x.err =
      none ∧ s.pool.jobs = [] ∧ x.buf = [] ∧ x.hold = none ∧ pMode x.desc = 4 ∧ (pFlags x.desc).testBit 0 = false ∧ a = (getS d
      f.ra + f.imm).toNat ∧ a % 4096 = 0 ∧ inScratch a 4096 = true ∧ descRaw (slotDesc d (a / 4096)) = true ∧ (scratchRead d
      t.pen a 4096).length = 4096) ∧
    (∃ (y : YardRef) (f : YF) (t : Task) (s : State) (d : Yard), ∃ x, d = yard s y ∧ Issues y f { aux := 15 } t s ∧ portAt d
      (auxPort f) = some x ∧ x.out = false ∧ x.closed = false) ∧
    (∃ (y : YardRef) (f : YF) (t : Task) (s : State) (d : Yard), ∃ x, d = yard s y ∧ Issues y f { aux := 15 } t s ∧ portAt d
      (auxPort f) = some x ∧ x.closed = true) ∧
    (∃ (y : YardRef) (f : YF) (t : Task) (s : State) (d : Yard), ∃ x, d = yard s y ∧ Issues y f { rd := true, aux := 15 } t s ∧
      portAt d (auxPort f) = some x ∧ x.closed = false) ∧
    (∃ (y : YardRef) (f : YF) (t : Task) (s : State) (d : Yard), d = yard s y ∧ Issues y f { imm := true } t s ∧ f.imm.toNat ≤
      15 ∧ (f.imm.getLsbD 3 = true → yardPending s y = false)) ∧
    (∃ (y : YardRef) (f : YF) (t : Task) (s : State) (d : Yard), d = yard s y ∧ Issues y f { imm := true } t s ∧ f.imm.toNat ≤
      15 ∧ f.imm.getLsbD 3 = true ∧ yardPending s y = true) ∧
    (∃ (y : YardRef) (f : YF) (t : Task) (s : State) (d : Yard), d = yard s y ∧ Issues y f { rd := true } t s) ∧
    (∃ (y : YardRef) (f : YF) (t : Task) (s : State) (d : Yard), d = yard s y ∧ Issues y f { ra := true, aux := 3 } t s ∧
      auxBits f 1 0 = 1) ∧
    (∃ (y : YardRef) (f : YF) (t : Task) (s : State) (d : Yard), d = yard s y ∧ Issues y f { imm := true, aux := 3 } t s ∧
      auxBits f 1 0 = 2) ∧
    (∃ (y : YardRef) (f : YF) (t : Task) (s : State) (d : Yard), d = yard s y ∧ Issues y f { ra := true, aux := 1 } t s ∧
      auxBits f 0 0 = 1) ∧
    (∃ (y : YardRef) (f : YF) (t : Task) (s : State) (d : Yard), ∃ v, d = yard s y ∧ Issues y f { rd := true, imm := true } t s
      ∧ parameter y t f.imm.toNat = some v) ∧
    (∃ (y : YardRef) (f : YF) (t : Task) (s : State) (d : Yard), d = yard s y ∧ Issues y f { rd := true, imm := true } t s ∧
      parameter y t f.imm.toNat = none) ∧
    (∃ (y : YardRef) (f : YF) (t : Task) (s : State) (d : Yard), ∃ g, d = yard s y ∧ Issues y f { rd := true, ra := true } t s ∧
      g = granules (getS d f.ra).toNat d.vlmax) ∧
    (∃ (y : YardRef) (f : YF) (t : Task) (s : State) (d : Yard), d = yard s y ∧ Issues y f { rd := true, imm := true } t s) ∧
    (∃ (y : YardRef) (f : YF) (t : Task) (s : State) (d : Yard), d = yard s y ∧ Issues y f { ra := true } t s ∧ d.ports = [] ∧
      s.pool.jobs = [] ∧ yardPending s y = false ∧ s.work.reqs = []) ∧
    (∃ (y : YardRef) (f : YF) (t : Task) (s : State) (d : Yard), ∃ (p : Fin 16) (x : _) (q : _) (b : _) (rest : _) (k : _), d =
      yard s y ∧ d.task = some k ∧ portAt d p = some x ∧ x.req.bind (reqAt s) = some q ∧ q.port = b :: rest ∧ x.landed.length +
      x.held.length < pSlots x.desc) ∧
    (∃ (y : YardRef) (f : YF) (t : Task) (s : State) (d : Yard), ∃ (p : Fin 16), d = yard s y ∧ d.task = none) :=
  ⟨⟨y0, { aux := 15 }, aTask, yardOf { aYard with scratch := [(0, 3)], tags := [(0, 1)] }, _, _, _, rfl, ⟨by decide +kernel,
     by decide +kernel, by decide +kernel, by decide +kernel, by decide +kernel⟩, by decide +kernel, by decide +kernel, rfl,
     by decide +kernel, rfl, by decide +kernel⟩,
   ⟨y0, { aux := 15 }, aTask, yardOf { aYard with ports := [(15, { aPort true false with buf := [] })] }, _,
     { aPort true false with buf := [] }, rfl, ⟨by decide +kernel, by decide +kernel, by decide +kernel, by decide +kernel,
     by decide +kernel⟩, by decide +kernel⟩,
   ⟨y0, { rd := 1, aux := 15 }, aTask, yardOf
     { aYard with ports := [(15, { aPort false false with buf := [], landed := [(0, [7], 8), (1, [], 0)] })] }, _,
     { aPort false false with buf := [], landed := [(0, [7], 8), (1, [], 0)] }, 0, [7], 8, [(1, [], 0)], rfl,
     ⟨by decide +kernel, by decide +kernel, by decide +kernel, by decide +kernel, by decide +kernel⟩, by decide +kernel⟩,
   ⟨y0, { rd := 1, aux := 15 }, aTask, yardOf { aYard with ports := [(15, { aPort true false with buf := [] })] }, _,
     { aPort true false with buf := [] }, rfl, ⟨by decide +kernel, by decide +kernel, by decide +kernel, by decide +kernel,
     by decide +kernel⟩, by decide +kernel⟩,
   ⟨y0, { ra := 0, imm := 4096, aux := 15 }, aTask, yardOf { aYard with ports := [(15, { aPort true false with buf := [] })] },
     _, { aPort true false with buf := [] }, _, rfl, ⟨by decide +kernel, by decide +kernel, by decide +kernel,
     by decide +kernel, by decide +kernel⟩, by decide +kernel, by decide +kernel, by decide +kernel, by decide +kernel,
     by decide +kernel, by decide +kernel, show _ from by decide +kernel, by decide +kernel, by decide +kernel, rfl,
     by decide +kernel⟩,
   ⟨y0, { aux := 15 }, aTask, yardOf { aYard with ports := [(15, { aPort false false with buf := [] })] }, _,
     { aPort false false with buf := [] }, rfl, ⟨by decide +kernel, by decide +kernel, by decide +kernel, by decide +kernel,
     by decide +kernel⟩, by decide +kernel⟩,
   ⟨y0, { aux := 15 }, aTask, yardOf { aYard with ports := [(15, { aPort true true with buf := [] })] }, _,
     { aPort true true with buf := [] }, rfl, ⟨by decide +kernel, by decide +kernel, by decide +kernel, by decide +kernel,
     by decide +kernel⟩, by decide +kernel⟩,
   ⟨y0, { rd := 1, aux := 15 }, aTask, yardOf { aYard with ports := [(15, { aPort true false with buf := [] })] }, _,
     { aPort true false with buf := [] }, rfl, ⟨by decide +kernel, by decide +kernel, by decide +kernel, by decide +kernel,
     by decide +kernel⟩, by decide +kernel⟩,
   ⟨y0, { imm := 15 }, aTask, yardUp, _, rfl, ⟨by decide +kernel, by decide +kernel, by decide +kernel, by decide +kernel,
     by decide +kernel⟩, by decide +kernel⟩,
   ⟨y0, { imm := 8 }, aTask,
     { yardUp with pool := { yardUp.pool with jobs := [{ id := 4, orig := .yardOut y0 0, pen := 1, key := (1, 0), off := 0, len := 1 }] } },
     _, rfl, ⟨by decide +kernel, by decide +kernel, by decide +kernel, by decide +kernel, by decide +kernel⟩, by decide +kernel⟩,
   ⟨y0, { rd := 1 }, aTask, yardUp, _, rfl, ⟨by decide +kernel, by decide +kernel, by decide +kernel, by decide +kernel,
     by decide +kernel⟩⟩,
   ⟨y0, { ra := 1, aux := 1 }, aTask, yardUp, _, rfl, ⟨by decide +kernel, by decide +kernel, by decide +kernel,
     by decide +kernel, by decide +kernel⟩, by decide +kernel⟩,
   ⟨y0, { imm := 1, aux := 2 }, aTask, yardUp, _, rfl, ⟨by decide +kernel, by decide +kernel, by decide +kernel,
     by decide +kernel, by decide +kernel⟩, by decide +kernel⟩,
   ⟨y0, { ra := 1, aux := 1 }, aTask, yardUp, _, rfl, ⟨by decide +kernel, by decide +kernel, by decide +kernel,
     by decide +kernel, by decide +kernel⟩, by decide +kernel⟩,
   ⟨y0, { rd := 1, imm := 6 }, aTask, yardUp, _, 0, rfl, ⟨by decide +kernel, by decide +kernel, by decide +kernel,
     by decide +kernel, by decide +kernel⟩, by decide +kernel⟩,
   ⟨y0, { rd := 1, imm := 7 }, aTask, yardUp, _, rfl, ⟨by decide +kernel, by decide +kernel, by decide +kernel,
     by decide +kernel, by decide +kernel⟩, by decide +kernel⟩,
   ⟨y0, { rd := 1, ra := 1 }, aTask, yardUp, _, _, rfl, ⟨by decide +kernel, by decide +kernel, by decide +kernel,
     by decide +kernel, by decide +kernel⟩, rfl⟩,
   ⟨y0, { rd := 1, imm := 2 }, aTask, yardUp, _, rfl, ⟨by decide +kernel, by decide +kernel, by decide +kernel,
     by decide +kernel, by decide +kernel⟩⟩,
   ⟨y0, { ra := 1 }, aTask, yardUp, _, rfl, ⟨by decide +kernel, by decide +kernel, by decide +kernel, by decide +kernel,
     by decide +kernel⟩, by decide +kernel⟩,
   ⟨y0, {}, aTask,
     { yardOf { aYard with ports := [(15, { aPort false false with buf := [], req := some 2 })] } with work := { (yardOf { aYard with ports := [(15, { aPort false false with buf := [], req := some 2 })] }).work with reqs := [{ aUnitReq false (some 0) with src := .port y0 15, port := [([1], 0)] }] } },
     _, 15, { aPort false false with buf := [], req := some 2 },
     { aUnitReq false (some 0) with src := .port y0 15, port := [([1], 0)] }, ([1], 0), [], aTask, rfl, by decide +kernel⟩,
   ⟨y0, {}, aTask, yardOf {}, _, 0, rfl, by decide +kernel⟩⟩

end Sys2Proof.Tests
end

