-- ==== Sys2Proof/Tests/Witness7.lean ====
section
/-! SUPPORT. Witnesses: for each clause of the statements named, a state and operands that meet its hypotheses. -/

set_option linter.unusedVariables false
set_option Elab.async false

namespace Sys2Proof.Tests

open Sys2Proof Sys2Proof.Machine

/-- The hypotheses of FramesReceived are met, clause by clause. -/
theorem wit_framesReceived :
    (∃ (fr : Frame) (now : Nat) (s : State), (portUsable s fr.port = false ∨ (isLocalFrame s fr = true ∧ (frameBad s fr = true ∨
      fr.cmx.any (fun x => !listedOp x) = false)))) ∧
    (∃ (fr : Frame) (now : Nat) (s : State), portUsable s fr.port = true ∧ islRunning s (shcOf (portShed fr.port)) = true ∧
      isLocalFrame s fr = true ∧ frameBad s fr = false ∧ fr.cmx.any (fun x => !listedOp x) = true) ∧
    (∃ (fr : Frame) (now : Nat) (s : State), portUsable s fr.port = true ∧ islRunning s (shcOf (portShed fr.port)) = true ∧
      isLocalFrame s fr = false ∧ (portQ s fr.port).rx.n = 0 ∧ frameBad s fr = true ∧ (onePort fr s).all (fun p => !cutThrough s
      fr p (frameClass s fr)) = true) ∧
    (∃ (fr : Frame) (now : Nat) (s : State), portUsable s fr.port = true ∧ islRunning s (shcOf (portShed fr.port)) = true ∧
      isLocalFrame s fr = false ∧ frameWaits s fr = true) ∧
    (∃ (fr : Frame) (now : Nat) (s : State), portUsable s fr.port = true ∧ islRunning s (shcOf (portShed fr.port)) = true ∧
      isLocalFrame s fr = false ∧ (portQ s fr.port).rx.n = 0 ∧ frameBad s fr = false ∧ ((portQ s fr.port).maxFrame.toNat <
      fr.len ∨ 1 < fr.tags ∨ fr.cmx.any (fun x => !x.headerOk || !listedOp x) = true)) ∧
    (∃ (fr : Frame) (now : Nat) (s : State), portUsable s fr.port = true ∧ islRunning s (shcOf (portShed fr.port)) = true ∧
      isLocalFrame s fr = false ∧ (portQ s fr.port).rx.n = 0 ∧ frameBad s fr = false ∧ fr.len ≤ (portQ s fr.port).maxFrame.toNat
      ∧ fr.tags ≤ 1 ∧ fr.cmx.all (fun x => x.headerOk && listedOp x) = true ∧ fr.pause = true) ∧
    (∃ (fr : Frame) (now : Nat) (s : State), portUsable s fr.port = true ∧ islRunning s (shcOf (portShed fr.port)) = true ∧
      isLocalFrame s fr = false ∧ (portQ s fr.port).rx.n = 0 ∧ frameBad s fr = false ∧ fr.len ≤ (portQ s fr.port).maxFrame.toNat
      ∧ fr.tags ≤ 1 ∧ fr.cmx.all (fun x => x.headerOk && listedOp x) = true ∧ fr.pause = false ∧ fr.cmx = none ∧ (portQ s
      fr.port).bridge = false) ∧
    (∃ (fr : Frame) (now : Nat) (s : State), ∃ x ip, portUsable s fr.port = true ∧ islRunning s (shcOf (portShed fr.port)) =
      true ∧ isLocalFrame s fr = false ∧ (portQ s fr.port).rx.n = 0 ∧ frameBad s fr = false ∧ fr.len ≤ (portQ s
      fr.port).maxFrame.toNat ∧ fr.tags ≤ 1 ∧ fr.cmx.all (fun x => x.headerOk && listedOp x) = true ∧ fr.pause = false ∧ fr.cmx
      = some x ∧ fr.ipDst = some ip ∧ x.epoch = s.routes.current.epoch ∧ ipEntry s.routes.current ip = none) ∧
    (∃ (fr : Frame) (now : Nat) (s : State), ∃ x ip, ∃ e, portUsable s fr.port = true ∧ islRunning s (shcOf (portShed fr.port))
      = true ∧ isLocalFrame s fr = false ∧ (portQ s fr.port).rx.n = 0 ∧ frameBad s fr = false ∧ fr.len ≤ (portQ s
      fr.port).maxFrame.toNat ∧ fr.tags ≤ 1 ∧ fr.cmx.all (fun x => x.headerOk && listedOp x) = true ∧ fr.pause = false ∧ fr.cmx
      = some x ∧ fr.ipDst = some ip ∧ x.epoch = s.routes.current.epoch ∧ ipEntry s.routes.current ip = some e ∧ fr.ttl.toNat ≤
      1) ∧
    (∃ (fr : Frame) (now : Nat) (s : State), ∃ x ip, ∃ e, portUsable s fr.port = true ∧ islRunning s (shcOf (portShed fr.port))
      = true ∧ isLocalFrame s fr = false ∧ (portQ s fr.port).rx.n = 0 ∧ frameBad s fr = false ∧ fr.len ≤ (portQ s
      fr.port).maxFrame.toNat ∧ fr.tags ≤ 1 ∧ fr.cmx.all (fun x => x.headerOk && listedOp x) = true ∧ fr.pause = false ∧ fr.cmx
      = some x ∧ fr.ipDst = some ip ∧ x.epoch = s.routes.current.epoch ∧ ipEntry s.routes.current ip = some e ∧ 1 < fr.ttl.toNat
      ∧ pickPort s e fr.sport.toNat = none) ∧
    (∃ (fr : Frame) (now : Nat) (s : State), ∃ x ip, ∃ e p, portUsable s fr.port = true ∧ islRunning s (shcOf (portShed
      fr.port)) = true ∧ isLocalFrame s fr = false ∧ (portQ s fr.port).rx.n = 0 ∧ frameBad s fr = false ∧ fr.len ≤ (portQ s
      fr.port).maxFrame.toNat ∧ fr.tags ≤ 1 ∧ fr.cmx.all (fun x => x.headerOk && listedOp x) = true ∧ fr.pause = false ∧ fr.cmx
      = some x ∧ fr.ipDst = some ip ∧ x.epoch = s.routes.current.epoch ∧ ipEntry s.routes.current ip = some e ∧ 1 < fr.ttl.toNat
      ∧ pickPort s e fr.sport.toNat = some p ∧ findMeter s fr.port (frameClass s fr) (some x.pen) = none ∧ admits s (portShed
      fr.port) (voqNo p (frameClass s fr)) (cellsOf (portQ s fr.port).maxFrame.toNat) false = true) ∧
    (∃ (fr : Frame) (now : Nat) (s : State), ∃ u p, portUsable s fr.port = true ∧ islRunning s (shcOf (portShed fr.port)) = true
      ∧ isLocalFrame s fr = false ∧ (portQ s fr.port).rx.n = 0 ∧ frameBad s fr = false ∧ fr.len ≤ (portQ s
      fr.port).maxFrame.toNat ∧ fr.tags ≤ 1 ∧ fr.cmx.all (fun x => x.headerOk && listedOp x) = true ∧ fr.pause = false ∧ fr.cmx
      = none ∧ (portQ s fr.port).bridge = true ∧ frameWaits s fr = false ∧ learnFrom fr (if fr.tags = 1 then fr.vid else 0) now
      s = u ∧ isGroupMac fr.dst = true ∧ floodPorts u fr (if fr.tags = 1 then fr.vid else 0) = [p] ∧ portUsable u p = true ∧
      findMeter u fr.port (frameClass s fr) none = none ∧ (portQ u fr.port).rx.n = 0 ∧ admits u (portShed fr.port) (voqNo p
      (frameClass s fr)) (cellsOf (portQ u fr.port).maxFrame.toNat) false = true) :=
  ⟨⟨aFrame, 0, State.reset, by decide +kernel⟩,
   ⟨{ aCmxFrame 1 with cmx := some { aFwd with op := 6 } }, 0, localState, by decide +kernel⟩,
   ⟨{ aFrame with fcsOk := false }, 0, netState [1], by decide +kernel⟩,
   ⟨aFrame, 0, lostMacState, by decide +kernel⟩,
   ⟨{ aFrame with len := 9217 }, 0, netState [1], by decide +kernel⟩,
   ⟨{ aFrame with pause := true, len := 9216 }, 0, netState [1], by decide +kernel⟩,
   ⟨aFrame, 0, { netState [1] with sw := { cmx.sw with ports := [(0, { bridge := false })] } }, by decide +kernel⟩,
   ⟨aCmxFrame 7, 0, netState [1], aFwd, 7, by decide +kernel⟩,
   ⟨{ aCmxFrame 1 with ttl := 1 }, 0, netState [1], aFwd, 1, ⟨1, true, false, false, false, [1], 0, 1, 1⟩, by decide +kernel⟩,
   ⟨aCmxFrame 1, 0, netState [2], aFwd, 1, ⟨1, true, false, false, false, [2], 0, 1, 1⟩, by decide +kernel⟩,
   ⟨{ aCmxFrame 1 with ttl := 2 }, 0, netState [1], aFwd, 1, ⟨1, true, false, false, false, [1], 0, 1, 1⟩, 1, by decide +kernel⟩,
   ⟨{ aFrame with dst := 0xFFFFFFFFFFFF }, 0, netState [1], learnFrom { aFrame with dst := 0xFFFFFFFFFFFF } 0 0 (netState [1]),
     1, by decide +kernel, by decide +kernel, by decide +kernel, by decide +kernel, by decide +kernel, by decide +kernel, show _
     from by decide +kernel, by decide +kernel, by decide +kernel, by decide +kernel, by decide +kernel, by decide +kernel, rfl,
     by decide +kernel⟩⟩

/-- The hypotheses of GrantOpportunities are met, clause by clause. -/
theorem wit_grantOpportunities :
    (∃ (p : PortIx) (now : Nat) (s : State), portUsable s p = false) ∧
    (∃ (p : PortIx) (now : Nat) (c : Fin 8) (sh : ShedIx) (f : QFrame) (fr : Frame) (rest : List QFrame) (s : State), portUsable
      s p = true ∧ islRunning s (shcOf (portShed p)) = true ∧ (portQ s p).wdTrip = 0 ∧ (∀ k, (shaper s p k).en = false) ∧ (portQ
      s p).tx.n = 0 ∧ eligible s p now c = true ∧ nextShed s p c = some sh ∧ (voq s sh (voqNo p c)).frames = f :: rest ∧ f.body
      = .forward fr ∧ f.bad = false ∧ f.fin = none ∧ (portQ s p).strict.getLsbD c.val = true ∧ (∀ k, c < k → (portQ s
      p).strict.getLsbD k.val = true → eligible s p now k = false)) ∧
    (∃ (p : PortIx) (now : Nat) (c : Fin 8) (sh : ShedIx) (f : QFrame) (fr : Frame) (rest : List QFrame) (s : State), portUsable
      s p = true ∧ islRunning s (shcOf (portShed p)) = true ∧ (portQ s p).wdTrip = 0 ∧ (∀ k, (shaper s p k).en = false) ∧ (portQ
      s p).tx.n = 0 ∧ eligible s p now c = true ∧ nextShed s p c = some sh ∧ (voq s sh (voqNo p c)).frames = f :: rest ∧ f.body
      = .forward fr ∧ f.bad = false ∧ f.fin = none ∧ (∀ k, (portQ s p).strict.getLsbD k.val = true → eligible s p now k = false)
      ∧ (portQ s p).round = c ∧ (portQ s p).served = false ∧ headLen s p c ≤ aGetD (portQ s p).deficit c 0 + (aGetD (portQ s
      p).quant c 9216).toNat) :=
  ⟨⟨0, 0, State.reset, by decide +kernel⟩,
   ⟨0, 0, 0, 0, aQueued, aFrame, [], grantState { strict := 1 }, by decide +kernel⟩,
   ⟨0, 0, 0, 0, aQueued, aFrame, [], grantState {}, by decide +kernel⟩⟩

/-- The hypotheses of GatesPfcAndSamples are met, clause by clause. -/
theorem wit_gatesPfcAndSamples :
    (∃ (p : PortIx) (now : Nat) (c : Fin 8) (s : State), (∀ k, k ≠ c → (shaper s p k).en = false) ∧ (shaper s p c).en = true ∧
      (shaper s p c).waiting = true ∧ requesters s p c ≠ [] ∧ (portQ s p).sending = [] ∧ (shaper s p c).written = false ∧ (gate
      s p).running = false ∧ (gate s p).pending = false) ∧
    (∃ (p : PortIx) (now : Nat) (s : State), (∀ k, (shaper s p k).en = false) ∧ (gate s p).running = true) ∧
    (∃ (p : PortIx) (c : Fin 8) (quanta : BitVec 16) (s : State), portUsable s p = true ∧ (portQ s p).wdTrip.getLsbD c.val =
      false) ∧
    (∃ (p : PortIx) (c : Fin 8) (quanta : BitVec 16) (s : State), (portQ s p).wdTrip.getLsbD c.val = true) ∧
    (∃ (p : PortIx) (c : Fin 8) (u s : State), pfcSettle s = u) ∧
    (∃ (p : PortIx) (c : Fin 8) (s : State), (portQ s p).paused.getLsbD c.val = true ∧ (sched s (portShed p)).watchdog ≠ 0) ∧
    (∃ (p : PortIx) (c : Fin 8) (s : State), (portQ s p).paused.getLsbD c.val = false) ∧
    (∃ (p : PortIx) (c : Fin 8) (s : State), (portQ s p).wdTrip.getLsbD c.val = true) ∧
    (∃ (sh : ShedIx) (now : Nat) (s : State), islRunning s (shcOf sh) = true) :=
  ⟨⟨0, 5, 0, { grantState {} with sw := { (grantState {}).sw with shapers := [((0, 0), { en := true, waiting := true })] } },
     by decide +kernel⟩,
   ⟨0, 5, gateOf { en := true, running := true }, by decide +kernel⟩,
   ⟨0, 7, 0xFFFF, netState [1], by decide +kernel⟩,
   ⟨0, 7, 1, portQOf { wdTrip := 128 }, by decide +kernel⟩,
   ⟨0, 0, pfcSettle cmx, cmx, rfl⟩,
   ⟨0, 7, portQOf { paused := 128 }, by decide +kernel⟩,
   ⟨0, 0, cmx, by decide +kernel⟩,
   ⟨0, 7, portQOf { wdTrip := 128 }, by decide +kernel⟩,
   ⟨0, 0, cmx, by decide +kernel⟩⟩

/-- The hypotheses of SwitchConfiguration are met, clause by clause. -/
theorem wit_switchConfiguration :
    (∃ (r : Req) (p : PortIx) (c : Fin 8) (s : State), Accepts cmdShaperConfig false r s ∧ leAt r.payload 0 2 = p.val ∧ leAt
      r.payload 2 1 = c.val ∧ bitsOf (leAt r.payload 4 4) 30 21 = 0) ∧
    (∃ (r : Req) (ix : ShedIx × Fin 16384) (m : Meter) (s : State), Accepts cmdMeterConfig false r s ∧ bitsOf (leAt r.payload 4
      4) 31 26 = 0 ∧ leAt r.payload 8 4 < 2 ^ 21 ∧ leAt r.payload 12 4 < 2 ^ 24 ∧ leAt r.payload 16 4 < 2 ^ 21 ∧ leAt r.payload
      20 4 < 2 ^ 24 ∧ leAt r.payload 8 4 ≤ leAt r.payload 16 4 ∧ ix = (shedOf (leAt r.payload 0 2 / 16384), Fin.ofNat 16384
      (leAt r.payload 0 2)) ∧ newMeter r.payload (aGetD s.sw.meters ix {}) r.now = m ∧ (∀ x ∈ s.sw.meters, x.1.1 = ix.1 → x.1.2
      ≠ ix.2 → sameBinding x.2 m = false)) ∧
    (∃ (r : Req) (p : PortIx) (s : State), Accepts (cmdGateLoad r) true r s ∧ leAt r.payload 0 2 = p.val ∧ 1 ≤ leAt r.payload 2
      1 ∧ leAt r.payload 2 1 ≤ 64 ∧ gateListOk (inBuf s r) (leAt r.payload 2 1) = true ∧ (gate s p).pending = false) ∧
    (∃ (r : Req) (s : State), Accepts cmdVlanSet false r s ∧ leAt r.payload 0 2 ≤ 511 ∧ leAt r.payload 2 1 = 1 ∧ leAt r.payload
      8 2 ≤ 4095) ∧
    (∃ (r : Req) (p : PortIx) (s : State), Accepts (cmdPortRegs r) false r s ∧ leAt r.payload 0 2 = p.val ∧ leAt r.payload 2 1 =
      0 ∧ leAt r.payload 4 4 = 1 ∧ leAt r.payload 8 4 = 0x420004 + p.val % 128 * 0x20 ∧ 1522 ≤ leAt r.payload 12 4 ∧ leAt
      r.payload 12 4 ≤ 9216) ∧
    (∃ (r : Req) (b : ShedIx) (a : RowAt) (row : MRow) (w u s : State), Accepts (cmdStaticMac r) true r s ∧ u = takeRequest 0xB0
      true r s ∧ leAt r.payload 0 2 ≤ 511 ∧ leAt r.payload 2 1 = 2 ∧ leAt r.payload 4 4 = 1 ∧ leAt (inBuf s r) 6 2 ≤ 4095 ∧ leAt
      (inBuf s r) 8 2 ≤ 511 ∧ leAt (inBuf s r) 10 1 ≤ 1 ∧ leAt (inBuf s r) 12 4 = 0 ∧ 16 ≤ (inBuf s r).length ∧ leAt (inBuf s r)
      11 1 = 1 ∧ macKnown u (BitVec.ofNat 48 (beAt (inBuf s r) 0 6)) (fieldLe 12 (inBuf s r) 6 2) = none ∧ insertRow (macRow
      (BitVec.ofNat 48 (beAt (inBuf s r) 0 6)) (fieldLe 12 (inBuf s r) 6 2) (BitVec.ofNat 64 (leAt (inBuf s r) 8 2 + 2 ^ 16 +
      leAt (inBuf s r) 10 1 * 2 ^ 17))) u = some w) ∧
    (∃ (r : Req) (b : ShedIx) (a : RowAt) (row : MRow) (w u s : State), Accepts (cmdStaticMac r) true r s ∧ u = takeRequest 0xB0
      true r s ∧ leAt r.payload 0 2 ≤ 511 ∧ leAt r.payload 2 1 = 2 ∧ leAt r.payload 4 4 = 1 ∧ leAt (inBuf s r) 6 2 ≤ 4095 ∧ leAt
      (inBuf s r) 8 2 ≤ 511 ∧ leAt (inBuf s r) 10 1 ≤ 1 ∧ leAt (inBuf s r) 12 4 = 0 ∧ 16 ≤ (inBuf s r).length ∧ leAt (inBuf s r)
      11 1 = 2 ∧ macEntry u (BitVec.ofNat 48 (beAt (inBuf s r) 0 6)) (fieldLe 12 (inBuf s r) 6 2) = some (b, a, row)) ∧
    (∃ (r : Req) (b : ShedIx) (a : RowAt) (row : MRow) (w u s : State), Accepts (cmdStaticMac r) true r s ∧ u = takeRequest 0xB0
      true r s ∧ leAt r.payload 0 2 ≤ 511 ∧ leAt r.payload 2 1 = 2 ∧ leAt r.payload 4 4 = 1 ∧ leAt (inBuf s r) 6 2 ≤ 4095 ∧ leAt
      (inBuf s r) 8 2 ≤ 511 ∧ leAt (inBuf s r) 10 1 ≤ 1 ∧ leAt (inBuf s r) 12 4 = 0 ∧ 16 ≤ (inBuf s r).length ∧ leAt (inBuf s r)
      11 1 = 2 ∧ macKnown u (BitVec.ofNat 48 (beAt (inBuf s r) 0 6)) (fieldLe 12 (inBuf s r) 6 2) = none) ∧
    (∃ (sh b : ShedIx) (a : RowAt) (row : MRow) (l : Learn) (rest : List Learn) (w u s : State), aGetD s.sw.learns sh [] = l ::
      rest ∧ s.kpr.state = .running ∧ u = { s with sw := { s.sw with learns := aSet s.sw.learns sh rest } } ∧ macKnown u l.mac
      l.vid = none ∧ insertRow (macRow l.mac l.vid (BitVec.ofNat 64 l.port.val)) u = some w) ∧
    (∃ (sh b : ShedIx) (a : RowAt) (row : MRow) (l : Learn) (rest : List Learn) (w u s : State), aGetD s.sw.learns sh [] = l ::
      rest ∧ s.kpr.state = .running ∧ u = { s with sw := { s.sw with learns := aSet s.sw.learns sh rest } } ∧ macEntry u l.mac
      l.vid = some (b, a, row) ∧ macStatic row = true) ∧
    (∃ (sh b : ShedIx) (a : RowAt) (row : MRow) (l : Learn) (rest : List Learn) (w u s : State), aGetD s.sw.learns sh [] = l ::
      rest ∧ s.kpr.state = .running ∧ u = { s with sw := { s.sw with learns := aSet s.sw.learns sh rest } } ∧ macEntry u l.mac
      l.vid = some (b, a, row) ∧ macStatic row = false ∧ row.mask = BitVec.allOnes 160 ∧ (mpart u 0).kind = 1 ∧ freeRows u b 0 ≠
      []) ∧
    (∃ (sh b : ShedIx) (a : RowAt) (row : MRow) (l : Learn) (rest : List Learn) (w u s : State), aGetD s.sw.learns sh [] = l ::
      rest ∧ s.kpr.state = .running ∧ u = { s with sw := { s.sw with learns := aSet s.sw.learns sh rest } } ∧ macKnown u l.mac
      l.vid = none ∧ insertRow (macRow l.mac l.vid (BitVec.ofNat 64 l.port.val)) u = none) ∧
    (∃ (mac : BitVec 48) (vid : BitVec 12) (b : ShedIx) (a : RowAt) (row : MRow) (s : State), macEntry s mac vid = some (b, a,
      row) ∧ s.kpr.state = .running) :=
  ⟨⟨rq 0 ([255, 1, 7, 0] ++ toLe 4 1), 511, 7, up, ⟨by decide +kernel, by decide +kernel⟩, by decide +kernel⟩,
   ⟨rq 0 ([255, 255, 0, 0] ++ toLe 4 0 ++ toLe 4 (2 ^ 21 - 1) ++ toLe 4 (2 ^ 24 - 1) ++ toLe 4 (2 ^ 21 - 1) ++ toLe 4 0), (3,
     16383), newMeter (rq 0 ([255, 255, 0, 0] ++ toLe 4 0 ++ toLe 4 (2 ^ 21 - 1) ++ toLe 4 (2 ^ 24 - 1) ++ toLe 4 (2 ^ 21 - 1)
     ++ toLe 4 0)).payload {} 0, up, ⟨by decide +kernel, by decide +kernel⟩, by decide +kernel⟩,
   ⟨{ rq 0 [255, 1, 1, 0, 0, 0, 0, 0, 0, 0, 0, 0, 0, 0, 0, 0] with blen := 8 }, 511, { up with host := [(.fn 0, [(4, 64)])] },
     ⟨by decide +kernel, by decide +kernel⟩, by decide +kernel⟩,
   ⟨rq 0 ([255, 1, 1, 0] ++ toLe 4 0 ++ [255, 15] ++ zs 6 ++ zs 64), up, ⟨by decide +kernel, by decide +kernel⟩,
     by decide +kernel⟩,
   ⟨rq 0 ([127, 0, 0, 0] ++ toLe 4 1 ++ toLe 4 0x420FE4 ++ toLe 4 1522), 127, up, ⟨by decide +kernel, by decide +kernel⟩,
     by decide +kernel⟩,
   ⟨(macReq 1).1, 0, (0, 0), macRow9, _, _, (macReq 1).2, ⟨by decide +kernel, by decide +kernel⟩, rfl, by decide +kernel,
     by decide +kernel, by decide +kernel, by decide +kernel, by decide +kernel, by decide +kernel, show _ from
     by decide +kernel, by decide +kernel, by decide +kernel, by decide +kernel,
     some_getD (insertRow_exact_isSome (by decide +kernel) (by decide +kernel)) State.reset⟩,
   ⟨(macReq 2).1, 0, (0, 0), macRow9, State.reset, _, macState, ⟨by decide +kernel, by decide +kernel⟩, rfl, by decide +kernel⟩,
   ⟨(macReq 2).1, 0, (0, 0), macRow9, State.reset, _, (macReq 2).2, ⟨by decide +kernel, by decide +kernel⟩, rfl,
     by decide +kernel⟩,
   ⟨0, 0, (0, 0), macRow9, aLearn, [], _, _, learned (macReq 2).2, by decide +kernel, by decide +kernel, rfl, by decide +kernel,
     some_getD (insertRow_exact_isSome (by decide +kernel) (by decide +kernel)) State.reset⟩,
   ⟨0, 0, (0, 0), macRow 9 0 0x10007, aLearn, [], State.reset, _, learned (macStateOf (macRow 9 0 0x10007)), by decide +kernel,
     by decide +kernel, rfl, by decide +kernel⟩,
   ⟨0, 0, (0, 0), macRow9, aLearn, [], State.reset, _, learned macState, by decide +kernel, by decide +kernel, rfl,
     by decide +kernel⟩,
   ⟨0, 0, (0, 0), macRow9, aLearn, [], State.reset, _, learned cmx, by decide +kernel, by decide +kernel, rfl,
     by decide +kernel⟩,
   ⟨9, 0, 0, (0, 0), macRow9, macState, by decide +kernel⟩⟩

/-- The hypotheses of LineRequests are met, clause by clause. -/
theorem wit_lineRequests :
    (∃ (c : CacheIx) (line : BitVec 32) (s : State), QuietLine line s ∧ cline s c line = none ∧ (setLines s c line).length < 16
      ∧ owners s line = []) ∧
    (∃ (c : CacheIx) (line : BitVec 32) (s : State), QuietLine line s ∧ cline s c line = none ∧ (setLines s c line).length < 16
      ∧ holders s line = []) ∧
    (∃ (c : CacheIx) (line : BitVec 32) (s : State), QuietLine line s ∧ cline s c line = none ∧ (setLines s c line).length < 16
      ∧ holders s line ≠ [] ∧ (∀ k ∈ holders s line, islRunning s (cacheIsland k) = true)) ∧
    (∃ (c : CacheIx) (line : BitVec 32) (x : CLine) (s : State), QuietLine line s ∧ cline s c line = some x ∧ x.st = .s ∧
      holders s line = [c]) ∧
    (∃ (c : CacheIx) (line : BitVec 32) (x : CLine) (s : State), QuietLine line s ∧ cline s c line = some x ∧ x.st = .m ∧
      x.data.length = 128) ∧
    (∃ (c : CacheIx) (line : BitVec 32) (x : CLine) (s : State), QuietLine line s ∧ cline s c line = some x ∧ x.st ≠ .m) ∧
    (∃ (ch : DmaIx) (line : BitVec 32) (s : State), QuietLine line s ∧ owners s line = [] ∧ keeperDma ch = false ∧ (((dch s
      ch).xfer.bind (·.acc)).map (·.place)) = some (.line line) ∧ homeTag s line = some (dch s ch).pen) ∧
    (∃ (ch : DmaIx) (line : BitVec 32) (s : State), QuietLine line s ∧ owners s line = [] ∧ keeperDma ch = false ∧ (((dch s
      ch).xfer.bind (·.acc)).map (·.place)) = some (.line line) ∧ homeTag s line ≠ some (dch s ch).pen) ∧
    (∃ (ch : DmaIx) (line : BitVec 32) (data : List Byte) (s : State), QuietLine line s ∧ holders s line = [] ∧ data.length =
      128) ∧
    (∃ (ch : DmaIx) (addr : BitVec 39) (line : BitVec 32) (data : List Byte) (s : State), line = BitVec.ofNat 32 (addr.toNat /
      128) ∧ QuietLine line s ∧ holders s line = [] ∧ data ≠ [] ∧ addr.toNat % 128 + data.length ≤ 128 ∧ keeperDma ch = false ∧
      homeTag s line = some (dch s ch).pen) :=
  ⟨⟨0, 524288, cohOf [], ⟨by decide +kernel, by decide +kernel, by decide +kernel, by decide +kernel, by decide +kernel⟩,
     by decide +kernel⟩,
   ⟨0, 524288, cohOf [], ⟨by decide +kernel, by decide +kernel, by decide +kernel, by decide +kernel, by decide +kernel⟩,
     by decide +kernel⟩,
   ⟨0, 524288, cohOf [((1, 524288), aLine .m)], ⟨by decide +kernel, by decide +kernel, by decide +kernel, by decide +kernel,
     by decide +kernel⟩, by decide +kernel⟩,
   ⟨0, 524288, aLine .s, cohOf [((0, 524288), aLine .s)], ⟨by decide +kernel, by decide +kernel, by decide +kernel,
     by decide +kernel, by decide +kernel⟩, by decide +kernel⟩,
   ⟨0, 524288, aLine .m, cohOf [((0, 524288), aLine .m)], ⟨by decide +kernel, by decide +kernel, by decide +kernel,
     by decide +kernel, by decide +kernel⟩, by decide +kernel⟩,
   ⟨0, 524288, aLine .s, cohOf [((0, 524288), aLine .s)], ⟨by decide +kernel, by decide +kernel, by decide +kernel,
     by decide +kernel, by decide +kernel⟩, by decide +kernel⟩,
   ⟨0, 524288, { dmaOf lineXfer {} with coh := { cmx.coh with tags := [(524288, 1)] } }, ⟨by decide +kernel, by decide +kernel,
     by decide +kernel, by decide +kernel, by decide +kernel⟩, by decide +kernel⟩,
   ⟨0, 524288, { dmaOf lineXfer {} with coh := { cmx.coh with tags := [(524288, 2)] } }, ⟨by decide +kernel, by decide +kernel,
     by decide +kernel, by decide +kernel, by decide +kernel⟩, by decide +kernel⟩,
   ⟨0, 524288, zs 128, cohOf [], ⟨by decide +kernel, by decide +kernel, by decide +kernel, by decide +kernel,
     by decide +kernel⟩, by decide +kernel⟩,
   ⟨0, 0x400007F, _, [5], { dmaOf aChan {} with coh := { cmx.coh with tags := [(524288, 1)] } }, rfl, ⟨by decide +kernel,
     by decide +kernel, by decide +kernel, by decide +kernel, by decide +kernel⟩, by decide +kernel⟩⟩

/-- The hypotheses of SnoopsAndLoss are met, clause by clause. -/
theorem wit_snoopsAndLoss :
    (∃ (c d : CacheIx) (line : BitVec 32) (x : CLine) (s : State), aGet s.coh.busy line = some { req := .rdU c, waiting := [d] }
      ∧ c ≠ d ∧ cline s c line = none ∧ cline s d line = some x ∧ s.coh.queue = [] ∧ (setLines s c line).length < 16 ∧ x.st =
      .m) ∧
    (∃ (c d : CacheIx) (line : BitVec 32) (x : CLine) (s : State), aGet s.coh.busy line = some { req := .rdU c, waiting := [d] }
      ∧ c ≠ d ∧ cline s c line = none ∧ cline s d line = some x ∧ s.coh.queue = [] ∧ (setLines s c line).length < 16 ∧ x.st =
      .s) ∧
    (∃ (c d : CacheIx) (line : BitVec 32) (x : CLine) (s : State), aGet s.coh.busy line = some { req := .rdU c, waiting := [d] }
      ∧ c ≠ d ∧ cline s c line = none ∧ cline s d line = some x ∧ s.coh.queue = [] ∧ (setLines s c line).length < 16 ∧ x.st ≠
      .s) ∧
    (∃ (c d : CacheIx) (line : BitVec 32) (x : CLine) (s : State), aGet s.coh.busy line = some { req := .rdS c, waiting := [d] }
      ∧ c ≠ d ∧ cline s c line = none ∧ cline s d line = some x ∧ x.st = .m ∧ x.data.length = 128 ∧ c.val < 68 ∧ s.coh.queue =
      [] ∧ memWf s.coh.mem = true ∧ (setLines s c line).length < 16) ∧
    (∃ (c : CacheIx) (line : BitVec 32) (s : State), aGet s.coh.busy line = none) ∧
    (∃ (c : CacheIx) (line : BitVec 32) (x : CLine) (s : State), aGet s.coh.busy line = none ∧ s.coh.queue = [(line, .wb c)] ∧
      flushing s c = true ∧ cline s c line = some x ∧ x.st = .m) ∧
    (∃ (slot : Fin 4) (ws : (List : _) (Nat × Nat)) (s : State), aGet s.coh.rebuild slot = some ws ∧ s.coh.queue = []) :=
  ⟨⟨0, 1, 524288, aLine .m, cohBusy [((1, 524288), aLine .m)], by decide +kernel⟩,
   ⟨0, 1, 524288, aLine .s, cohBusy [((1, 524288), aLine .s)], by decide +kernel⟩,
   ⟨0, 1, 524288, aLine .m, cohBusy [((1, 524288), aLine .m)], by decide +kernel⟩,
   ⟨0, 1, 524288, aLine .m, cohBusyS [((1, 524288), aLine .m)], by decide +kernel⟩,
   ⟨0, 524288, cmx, by decide +kernel⟩,
   ⟨0, 524288, aLine .m, cohFlush, by decide +kernel⟩,
   ⟨0, [], { cmx with coh := { cmx.coh with rebuild := [(0, [])] } }, by decide +kernel⟩⟩

/-- The hypotheses of DmaCommands are met, clause by clause. -/
theorem wit_dmaCommands :
    (∃ (r : Req) (u s : State), Accepts cmdDmaLoad true r s ∧ takeRequest 0x90 true r s = u ∧ (inBuf u r).length % 32 = 0 ∧
      inBuf u r ≠ [] ∧ (inBuf u r).length ≤ 8192 ∧ penDmaPrograms u (actingPen u r) < 64 ∧ (inBuf u r).length ≤ ctlFree u) ∧
    (∃ (r : Req) (u s : State), Accepts cmdDmaRemove false r s ∧ r.flags = 1 ∧ takeRequest 0x90 false r s = u ∧ (aGet
      s.dma.programs (actingPen u r, fieldLe 32 r.payload 0 4)).isSome = true ∧ (∀ c ∈ s.dma.chs, runsProgram c.2 (actingPen u
      r) (fieldLe 32 r.payload 0 4) = false)) ∧
    (∃ (r : Req) (img : List Byte) (u s : State), Accepts cmdDmaStart false r s ∧ takeRequest 0x91 false r s = u ∧ aGet
      s.dma.programs (actingPen u r, fieldLe 32 r.payload 0 4) = some img ∧ leAt r.payload 4 1 ≤ 3 ∧ ((leAt r.payload 5 1 ≤ 3 ∨
      leAt r.payload 5 1 = 0xFF)) ∧ programOk u r.chan (actingPen u r) img = true ∧ startChans u (leAt r.payload 5 1) ≠ [] ∧
      penDma u (actingPen u r) < (pen u (actingPen u r)).qDma.toNat ∧ (∀ d ∈ s.dma.chs, d.2.st = .idle ∨ d.2.pen = actingPen u r
      ∨ d.2.mask &&& fieldLe 64 r.payload 8 8 = 0)) ∧
    (∃ (r : Req) (c : DmaIx) (u s : State), Accepts cmdDmaResume false r s ∧ r.flags = 1 ∧ takeRequest 0x91 false r s = u ∧ leAt
      r.payload 6 2 = c.val ∧ mayTouch u r c = true ∧ (dch s c).st = .stopped ∧ (eng s (dmaShed c)).st = 0) ∧
    (∃ (r : Req) (c : DmaIx) (u s : State), Accepts cmdDmaAbort false r s ∧ takeRequest 0x92 false r s = u ∧ leAt r.payload 0 2
      = c.val ∧ mayTouch u r c = true ∧ (dch s c).st = .running ∧ (dch s c).xfer = none ∧ (eng s (dmaShed c)).st = 0) :=
  ⟨⟨{ rv [] with blen := 32 }, _, ctlRoom cmx, ⟨by decide +kernel, by decide +kernel⟩, rfl, by decide +kernel,
     by decide +kernel, by decide +kernel, by decide +kernel,
     Nat.le_trans (Nat.le_of_eq (by decide +kernel)) (ctlFree_ctlRoom (n := 32) rfl rfl (by decide +kernel) _ _ _)⟩,
   ⟨{ rv (toLe 4 1) with flags := 1 }, _, dmaOf {} {}, ⟨by decide +kernel, by decide +kernel⟩, by decide +kernel, rfl,
     by decide +kernel⟩,
   ⟨rv (toLe 4 1 ++ [3, 0xFF, 0, 0] ++ toLe 8 0), zs 64, _, dmaOf { aChan with pen := 2, mask := 2 } {}, ⟨by decide +kernel,
     by decide +kernel⟩, rfl, by decide +kernel⟩,
   ⟨{ rv (zs 16) with flags := 1 }, 0, _, dmaOf { aChan with st := .stopped } {}, ⟨by decide +kernel, by decide +kernel⟩,
     by decide +kernel, rfl, by decide +kernel⟩,
   ⟨rv [0, 0], 0, _, dmaOf aChan {}, ⟨by decide +kernel, by decide +kernel⟩, rfl, by decide +kernel⟩⟩

/-- The hypotheses of DmaInstructions are met, clause by clause. -/
theorem wit_dmaInstructions :
    (∃ (c : DmaIx) (f : DF) (s : State), (aGet (dch s c).src (dch s c).pc).isNone ∧ (aGet (dch s c).dst (dch s c).pc).isNone ∧
      DmaIssues c 1 f
      { sspace := true, dspace := true, key := f.sspace == 1 || f.dspace == 1, length := true, src := allOnes64, dst := true, strides := true }
      s ∧ lengthOk f f.pattern = true ∧ dmaRangeOk s (dch s c) f.sspace f.src f.length.toNat = true ∧ dmaRangeOk s (dch s c)
      f.dspace f.dst f.length.toNat = true) ∧
    (∃ (c : DmaIx) (f : DF) (s : State), (aGet (dch s c).src (dch s c).pc).isNone ∧ (aGet (dch s c).dst (dch s c).pc).isNone ∧
      DmaIssues c 2 f { dspace := true, key := f.dspace == 1, length := true, src := allOnes64, dst := true, strides := true } s
      ∧ lengthOk f true = true ∧ dmaRangeOk s (dch s c) f.dspace f.dst f.length.toNat = true) ∧
    (∃ (c : DmaIx) (f : DF) (s : State), (aGet (dch s c).src (dch s c).pc).isNone ∧ (aGet (dch s c).dst (dch s c).pc).isNone ∧
      DmaIssues c 3 f
      { sspace := !f.pattern, dspace := true, key := f.sspace == 1 || f.dspace == 1, length := true, src := allOnes64, dst := true, strides := true, stop := true, pattern := true }
      s ∧ lengthOk f f.pattern = true ∧ ((f.pattern = true ∨ dmaRangeOk s (dch s c) f.sspace f.src f.length.toNat = true)) ∧
      dmaRangeOk s (dch s c) f.dspace f.dst f.length.toNat = true) ∧
    (∃ (c : DmaIx) (f : DF) (s : State), DmaIssues c 4 f { length := true, src := 0xFFFF } s ∧ 1 ≤ f.length.toNat ∧
      f.length.toNat ≤ 65535 ∧ f.src.toNat < (dch s c).pc ∧ ((dch s c).loops.find? fun l => l.1 = (dch s c).pc) = none ∧ (dch s
      c).loops.length < 4) ∧
    (∃ (c : DmaIx) (f : DF) (s : State), DmaIssues c 4 f { length := true, src := 0xFFFF } s ∧ 1 ≤ f.length.toNat ∧
      f.length.toNat ≤ 65535 ∧ f.src.toNat < (dch s c).pc ∧ ((dch s c).loops.find? fun l => l.1 = (dch s c).pc) = some ((dch s
      c).pc, 0)) ∧
    (∃ (c : DmaIx) (f : DF) (s : State), DmaIssues c 5 f { src := 0xFFFFFFFF000000FF, clear := true } s ∧ flagOf f ≤ 63 ∧ (dch s
      c).mask.getLsbD (flagOf f) = true ∧ (eng s (dmaShed c)).flags.getLsbD (flagOf f) = true) ∧
    (∃ (c : DmaIx) (f : DF) (s : State), DmaIssues c 5 f { src := 0xFFFFFFFF000000FF, clear := true } s ∧ flagOf f ≤ 63 ∧ (dch s
      c).mask.getLsbD (flagOf f) = true ∧ (eng s (dmaShed c)).flags.getLsbD (flagOf f) = false) ∧
    (∃ (c : DmaIx) (x : DXfer) (s : State), (dch s c).xfer = some x ∧ (dch s c).st = .waiting ∧ x.op = 5 ∧ x.f.src.toNat / 2 ^
      32 ≠ 0) ∧
    (∃ (c : DmaIx) (f : DF) (sh : ShedIx) (s : State), DmaIssues c 6 f { src := 0xFFFF, notify := true } s ∧ flagOf f ≤ 63 ∧
      bitsOf f.src.toNat 15 8 = sh.val ∧ (dch s c).mask.getLsbD (flagOf f) = true ∧ (∀ k ∈ engChans sh, (dch s k).st ≠
      .waiting)) ∧
    (∃ (c : DmaIx) (f : DF) (s : State), DmaIssues c 7 f {} s) ∧
    (∃ (sh : ShedIx) (c : DmaIx) (t s : State), (eng s sh).st = 0 ∧ islRunning s (shcOf sh) = true ∧ (∀ k ∈ engChans sh, (dch s
      k).st ≠ .aborting) ∧ findBeat s (beatOrder s sh) = some (c, t)) ∧
    (∃ (c : DmaIx) (x : DXfer) (s : State), (dch s c).st = .running ∧ (dch s c).xfer = some x ∧ x.op = 2 ∧ x.acc = none ∧ x.wr =
      none ∧ x.f.dspace = 2 ∧ x.written = 0 ∧ x.staging2 = [] ∧ 1 ≤ x.f.length.toNat ∧ x.f.length.toNat ≤ 256) ∧
    (∃ (sh : ShedIx) (cause : BitVec 4) (space : BitVec 2) (addr : W64) (s : State), (eng s sh).st = 0 ∧ islRunning s (shcOf sh)
      = true ∧ (∀ k ∈ engChans sh, (dch s k).st ≠ .aborting ∧ writing (dch s k) = false)) ∧
    (∃ (sh : ShedIx) (cause : BitVec 4) (space : BitVec 2) (addr : W64) (s : State), (eng s sh).st = 2 ∧ (∀ k ∈ engChans sh,
      (dch s k).st ≠ .aborting) ∧ (eng s sh).pend = some (cause, space, addr) ∧ s.kpr.state = .running) :=
  ⟨⟨0, { sspace := 1, dspace := 1, keyId := 1, length := 16777216 }, dmaOn 1
     { sspace := 1, dspace := 1, keyId := 1, length := 16777216 } aChan {}, by decide +kernel, by decide +kernel,
     ⟨by decide +kernel, by decide +kernel, by decide +kernel, by decide +kernel, by decide +kernel, by decide +kernel⟩,
     by decide +kernel⟩,
   ⟨0, { dspace := 1, keyId := 1, length := 8 }, dmaOn 2 { dspace := 1, keyId := 1, length := 8 } aChan {}, by decide +kernel,
     by decide +kernel, ⟨by decide +kernel, by decide +kernel, by decide +kernel, by decide +kernel, by decide +kernel,
     by decide +kernel⟩, by decide +kernel⟩,
   ⟨0, { dspace := 1, keyId := 1, pattern := true, length := 8 }, dmaOn 3
     { dspace := 1, keyId := 1, pattern := true, length := 8 } aChan {}, by decide +kernel, by decide +kernel,
     ⟨by decide +kernel, by decide +kernel, by decide +kernel, by decide +kernel, by decide +kernel, by decide +kernel⟩,
     by decide +kernel⟩,
   ⟨0, { length := 65535 }, dmaOn 4 { length := 65535 } { aChan with pc := 1 } {}, ⟨by decide +kernel, by decide +kernel,
     by decide +kernel, by decide +kernel, by decide +kernel, by decide +kernel⟩, by decide +kernel⟩,
   ⟨0, { length := 1 }, dmaOn 4 { length := 1 } { aChan with pc := 1, loops := [(1, 0)] } {}, ⟨by decide +kernel,
     by decide +kernel, by decide +kernel, by decide +kernel, by decide +kernel, by decide +kernel⟩, by decide +kernel⟩,
   ⟨0, { src := 63 }, dmaOn 5 { src := 63 } { aChan with mask := 2 ^ 63 } { flags := 2 ^ 63 }, ⟨by decide +kernel,
     by decide +kernel, by decide +kernel, by decide +kernel, by decide +kernel, by decide +kernel⟩, by decide +kernel⟩,
   ⟨0, { src := 63 }, dmaOn 5 { src := 63 } { aChan with mask := 2 ^ 63 } {}, ⟨by decide +kernel, by decide +kernel,
     by decide +kernel, by decide +kernel, by decide +kernel, by decide +kernel⟩, by decide +kernel⟩,
   ⟨0, aXfer 5 { src := 0x100000000 }, dmaOf { aChan with st := .waiting, xfer := some (aXfer 5 { src := 0x100000000 }) } {},
     by decide +kernel⟩,
   ⟨0, { src := 0x33F }, 3, dmaOn 6 { src := 0x33F } { aChan with mask := 2 ^ 63 } {}, ⟨by decide +kernel, by decide +kernel,
     by decide +kernel, by decide +kernel, by decide +kernel, by decide +kernel⟩, by decide +kernel⟩,
   ⟨0, {}, dmaOn 7 {} aChan {}, ⟨by decide +kernel, by decide +kernel, by decide +kernel, by decide +kernel, by decide +kernel,
     by decide +kernel⟩⟩,
   ⟨0, 0, ((findBeat (dmaOf { aChan with xfer := some (aXfer 1 {}) } {}) (beatOrder (dmaOf
     { aChan with xfer := some (aXfer 1 {}) } {}) 0)).map Prod.snd).getD State.reset, dmaOf
     { aChan with xfer := some (aXfer 1 {}) } {}, by decide +kernel, by decide +kernel, by decide +kernel,
     some_of_map (by decide +kernel) _⟩,
   ⟨0, aXfer 2 { dspace := 2, length := 256 }, dmaOf { aChan with xfer := some (aXfer 2 { dspace := 2, length := 256 }) } {},
     by decide +kernel⟩,
   ⟨0, 4, 2, 7, dmaOf aChan {}, by decide +kernel⟩,
   ⟨0, 4, 2, 7, dmaOf {} { st := 2, pend := some (4, 2, 7) }, by decide +kernel⟩⟩

end Sys2Proof.Tests
end

