-- ==== Sys2Proof/Tests/Witness8.lean ====
section
/-! SUPPORT. Witnesses: for each clause of the statements named, a state and operands that meet its hypotheses. -/

set_option linter.unusedVariables false
set_option Elab.async false

namespace Sys2Proof.Tests

open Sys2Proof Sys2Proof.Machine

/-- The hypotheses of RegisterAccess are met, clause by clause. -/
theorem wit_registerAccess :
    (∃ (f : FnIx) (s : State), f.val % 64 = 0 ∧ islFenced s 0 = false ∧ aGet (fnSt s f).hi 0x10014 = none) ∧
    (∃ s : State, islFenced s 0 = false) ∧
    (∃ (f : FnIx) (off : BitVec 26) (s : State), off.toNat % 4 = 0 ∧ sees (.fn f) off.toNat = false ∧ aGet (fnSt s f).hi
      off.toNat = none ∧ isLo off.toNat = false) ∧
    (∃ (f : FnIx) (off : BitVec 26) (u s : State), off.toNat % 4 = 0 ∧ isLo off.toNat = true ∧ sees (.fn f) off.toNat = true ∧
      crossing s (.fn f) off.toNat = .reached ∧ u = { s with fresh := s.fresh + 1 }) ∧
    (∃ (f : FnIx) (off : BitVec 26) (h : W32) (s : State), off.toNat % 4 = 0 ∧ isLo off.toNat = false ∧ readFails s (.fn f)
      off.toNat = false ∧ aGet (fnSt s f).hi off.toNat = some h) ∧
    (∃ (f : FnIx) (off : BitVec 26) (size : Nat) (s : State), readFails s (.fn f) off.toNat = true) ∧
    (∃ (f : FnIx) (v : W64) (s : State), f.val % 64 = 0 ∧ islFenced s 0 = false) ∧
    (∃ (f : FnIx) (v : W64) (s : State), f.val % 64 = 0 ∧ islFenced s 0 = false ∧ s.glb.boot ≠ .held ∧ s.kpr.state ≠ .halted) ∧
    (∃ (f : FnIx) (v : W64) (s : State), f.val % 64 = 0 ∧ islFenced s 0 = false ∧ s.glb.boot ≠ .held ∧ s.kpr.state = .halted ∧
      v.getLsbD 1 = true) ∧
    (∃ (c : Caller) (off : BitVec 26) (size : Nat) (v : W64) (s : State), (c = .board ∨ ¬ (size = 4 ∨ size = 8) ∨ off.toNat %
      size ≠ 0 ∨ (size = 4 ∧ sees c off.toNat = false) ∨ (size = 4 ∧ crossing s c off.toNat ≠ .reached))) :=
  ⟨⟨64, up, by decide +kernel⟩,
   ⟨up, by decide +kernel⟩,
   ⟨1, 0x408000, up, by decide +kernel⟩,
   ⟨0, 0x100108, _, up, by decide +kernel, by decide +kernel, by decide +kernel, by decide +kernel, rfl⟩,
   ⟨0, 0x10018, 5, { up with fns := [(0, { hi := [(0x10018, 5)] })] }, by decide +kernel⟩,
   ⟨0, 0x100000, 8, { up with isl := [(1, { state := .fenced })] }, by decide +kernel⟩,
   ⟨64, 5, up, by decide +kernel⟩,
   ⟨0, 5, up, by decide +kernel⟩,
   ⟨0, 2, { up with kpr := { up.kpr with state := .halted } }, by decide +kernel⟩,
   ⟨.fn 0, 2, 4, 7, up, by decide +kernel⟩⟩

/-- The hypotheses of PoolAperture are met, clause by clause. -/
theorem wit_poolAperture :
    (∃ (f : FnIx) (w : Fin 8192) (v : W32) (s : State), f.val % 64 = 0) ∧
    (∃ (f : FnIx) (w : Fin 8192) (v : W32) (s : State), f.val % 64 ≠ 0 ∧ (chan s (Fin.ofNat 160 f.val)).bound = true) ∧
    (∃ (f : FnIx) (off : BitVec 26) (v : W64) (s : State), 0x3800000 ≤ off.toNat ∧ off.toNat < 0x3810000 ∧ off.toNat % 8 = 0) ∧
    (∃ (f : FnIx) (off : BitVec 34) (len : Nat) (s : State), off.toNat % 4096 + len ≤ 4096 ∧ aprEntry s f off.toNat = none) ∧
    (∃ (f : FnIx) (off : BitVec 34) (data : List Byte) (s : State), off.toNat % 4096 + data.length ≤ 4096 ∧ ((aprEntry s f
      off.toNat = none ∨ ∃ e, aprEntry s f off.toNat = some e ∧ e.write = false))) ∧
    (∃ (f : FnIx) (off : BitVec 34) (len : Nat) (e : AprEntry) (s u : State), off.toNat % 4096 + len ≤ 4096 ∧ aprEntry s f
      off.toNat = some e ∧ e.pen ≠ 0 ∧ aprQueued s f = none ∧ u = { s with fresh := s.fresh + 1 } ∧ (∀ sh walk, gates 0x01
      (aprRx u sh e.pen e.keyId (aprAddr e off.toNat) len) walk u = .pass)) ∧
    (∃ (f : FnIx) (off : BitVec 34) (data : List Byte) (e : AprEntry) (s u : State), off.toNat % 4096 + data.length ≤ 4096 ∧
      aprEntry s f off.toNat = some e ∧ e.write = true ∧ e.pen ≠ 0 ∧ aprQueued s f = none ∧ u = { s with fresh := s.fresh + 1 }
      ∧ (∀ sh walk, gates 0x03 (aprRx u sh e.pen e.keyId (aprAddr e off.toNat) data.length) walk u = .pass)) :=
  ⟨⟨64, 8191, 7, up, by decide +kernel⟩,
   ⟨1, 0, 7, penUp, by decide +kernel⟩,
   ⟨0, 0x380FFF8, 7, up, by decide +kernel⟩,
   ⟨0, 4095, 1, up, by decide +kernel⟩,
   ⟨0, 4095, [7], aprState false, by decide +kernel⟩,
   ⟨0, 4095, 1, anEntry false, aprState false, aprTaken false, by decide +kernel, by decide +kernel, by decide +kernel,
     by decide +kernel, rfl, apr_passes (by decide +kernel) (by decide +kernel)⟩,
   ⟨0, 4095, [7], anEntry true, aprState true, aprTaken true, by decide +kernel, by decide +kernel, by decide +kernel,
     by decide +kernel, by decide +kernel, rfl, apr_passes (by decide +kernel) (by decide +kernel)⟩⟩

/-- The hypotheses of PenTeardown are met, clause by clause. -/
theorem wit_penTeardown :
    (∃ (r : Req) (p : BitVec 12) (u s : State), Accepts cmdPenSetQuota false r s ∧ takeRequest 0x12 false r s = u ∧ leAt
      r.payload 0 2 = p.toNat ∧ p ≠ 0 ∧ grantOk s (leAt r.payload 32 4) (leAt r.payload 36 4) = true ∧ (((pen s p).dsFirst.toNat
      = leAt r.payload 32 4 ∧ (pen s p).dsPages.toNat = leAt r.payload 36 4 ∨ penTasks u p = 0 ∧ penDma u p = 0))) ∧
    (∃ (r : Req) (p : BitVec 12) (k : BitVec 8) (u s : State), r.blen = 0 ∧ Accepts
      { cmdPenKeyInstall with blen := fun n => n == 0 } false r s ∧ takeRequest 0x13 false r s = u ∧ leAt r.payload 0 2 =
      p.toNat ∧ leAt r.payload 2 1 = k.toNat ∧ leAt r.payload 3 1 = 1 ∧ keyInstalled s p k = true ∧ keyUsers u p k = 0) ∧
    (∃ (r : Req) (p : BitVec 12) (s : State), Accepts cmdPenDestroy false r s ∧ leAt r.payload 0 2 = p.toNat ∧ p ≠ 0 ∧ (pen s
      p).state = .active) ∧
    (∃ (r : Req) (p : BitVec 12) (s : State), Accepts cmdPenDestroy false r s ∧ leAt r.payload 0 2 = p.toNat ∧ p ≠ 0 ∧ (pen s
      p).state = .free) ∧
    (∃ (r : Req) (p : BitVec 12) (s : State), Accepts cmdPenDestroy false r s ∧ leAt r.payload 0 2 = p.toNat ∧ p ≠ 0 ∧ ((pen s
      p).state = .closing ∨ (pen s p).state = .quarantine)) ∧
    (∃ (p : BitVec 12) (s : State), (pen s p).state = .closing ∧ inFlight s p = 0) ∧
    (∃ (p : BitVec 12) (s : State), (pen s p).state = .closing ∧ inFlight s p ≠ 0) ∧
    (∃ (p : BitVec 12) (s : State), (pen s p).state = .closing) ∧
    (∃ (p : BitVec 12) (s : State), (pen s p).state = .quarantine ∧ (pen s p).swept = false ∧ (∀ i, islFenced s i = false)) ∧
    (∃ (p : BitVec 12) (s : State), tornDown s p = true) ∧
    (∃ (p : BitVec 12) (s : State), tornDown s p = false) :=
  ⟨⟨rq 0 ([1, 0] ++ zs 30 ++ toLe 4 16384 ++ toLe 4 16), 1, _, penUp, ⟨by decide +kernel, by decide +kernel⟩, rfl,
     by decide +kernel⟩,
   ⟨rq 0 [1, 0, 3, 1], 1, 3, _, { penUp with sec := { up.sec with keys := [((1, 3), zs 64)] } }, by decide +kernel,
     ⟨by decide +kernel, by decide +kernel⟩, rfl, by decide +kernel⟩,
   ⟨rq 0 [1, 0], 1, penUp, ⟨by decide +kernel, by decide +kernel⟩, by decide +kernel⟩,
   ⟨rq 0 [2, 0], 2, penUp, ⟨by decide +kernel, by decide +kernel⟩, by decide +kernel⟩,
   ⟨rq 0 [1, 0], 1, penSt { state := .quarantine }, ⟨by decide +kernel, by decide +kernel⟩, by decide +kernel⟩,
   ⟨1, penSt { state := .closing }, by decide +kernel⟩,
   ⟨1, { penSt { state := .closing } with pool := { up.pool with jobs := [aJob (.ok [])] } }, by decide +kernel⟩,
   ⟨1, penSt { state := .closing }, by decide +kernel⟩,
   ⟨1, penSt { state := .quarantine }, by decide +kernel⟩,
   ⟨1, penSt { state := .quarantine, swept := true }, by decide +kernel⟩,
   ⟨1, penUp, by decide +kernel⟩⟩

/-- The hypotheses of DaymarkRecordsAndFeed are met, clause by clause. -/
theorem wit_daymarkRecordsAndFeed :
    (∃ (e : DmkEvent) (rest : List DmkEvent) (s : State), s.dmk.queue = e :: rest ∧ s.dmk.full = false ∧ s.dmk.frozen = false ∧
      islFenced s 1 = false ∧ s.dmk.bare = false ∧ (∀ t ∈ s.dmk.triggers, trigMatches e t.2 = false)) ∧
    (∃ (e : DmkEvent) (rest : List DmkEvent) (s : State), s.dmk.queue = e :: rest ∧ s.dmk.full = false ∧ s.dmk.frozen = false ∧
      islFenced s 1 = false ∧ s.dmk.bare = true ∧ s.dmk.triggers = [] ∧ memWf s.dmk.buf = true ∧ s.dmk.writePtr + 64 ≤ 4194304) ∧
    (∃ (e : DmkEvent) (rest : List DmkEvent) (s : State), s.dmk.queue = e :: rest ∧ s.dmk.full = false ∧ s.dmk.frozen = false ∧
      islFenced s 1 = false ∧ s.dmk.bare = true ∧ s.dmk.triggers = [] ∧ 4194304 < s.dmk.writePtr + 64) ∧
    (∃ (e : DmkEvent) (rest : List DmkEvent) (s : State), ∃ k tr, s.dmk.queue = e :: rest ∧ s.dmk.full = false ∧ s.dmk.frozen =
      false ∧ islFenced s 1 = false ∧ s.dmk.triggers = [(k, tr)] ∧ trigFires e tr = true ∧ memWf s.dmk.buf = true ∧
      s.dmk.writePtr + recordLen tr.offsets.length ≤ 4194304) ∧
    (∃ s : State, (s.dmk.queue = [] ∨ s.dmk.full = true ∨ s.dmk.frozen = true)) ∧
    (∃ (r : Req) (q : IjnRec) (u s : State), Accepts (cmdReplay 4) true r s ∧ takeRequest 0xC2 true r s = u ∧ u.ijn.state =
      .replaying ∧ u.ijn.fed = [] ∧ takeRec (inBuf u r) = some (q, (inBuf u r).length) ∧ q.kind = 6 ∧ (inBuf u r).length <
      u.ijn.total) ∧
    (∃ (r : Req) (s : State), Accepts (cmdReplay 4) true r s ∧ s.ijn.state = .idle) :=
  ⟨⟨anEvent, [], dmkOf { bare := false, triggers := [(0, { aTrigger with code := 4 })] }, by decide +kernel⟩,
   ⟨anEvent, [], dmkOf { writePtr := 4194240 }, by decide +kernel⟩,
   ⟨anEvent, [], dmkOf { writePtr := 4194241 }, by decide +kernel⟩,
   ⟨anEvent, [], dmkOf { triggers := [(31, aTrigger)] }, 31, aTrigger, by decide +kernel⟩,
   ⟨up, by decide +kernel⟩,
   ⟨feedReq, { seq := 0, kind := 6, chan := 0, node := 0, body := [] }, _, feedState, ⟨by decide +kernel, by decide +kernel⟩,
     rfl, by decide +kernel⟩,
   ⟨{ rq 0 [4] with blen := 32 }, up, ⟨by decide +kernel, by decide +kernel⟩, by decide +kernel⟩⟩

/-- The hypotheses of StepRunsFrontCommand are met, clause by clause. -/
theorem wit_stepRunsFrontCommand :
    (∃ (c : Instr) (rest : List Instr) (s : State), s.pending = c :: rest) ∧
    (∃ s : State, s.pending = []) :=
  ⟨⟨.supplyResume, [.supplyResume], { up with pending := [.supplyResume, .supplyResume] }, by decide +kernel⟩,
   ⟨up, by decide +kernel⟩⟩

/-- The hypotheses of MemoriesStayCanonical are met, clause by clause. -/
theorem wit_memoriesStayCanonical :
    ∃ s t : State, MemsWf s ∧ step s = .next t :=
    ⟨{ State.reset with pending := [.previousMapQuietExpiry] },
      { State.reset with routes := { State.reset.routes with previous := none } }, ⟨by decide +kernel, by decide +kernel,
      by decide +kernel, by decide +kernel, by decide +kernel, by decide +kernel⟩, rfl⟩

/-- The hypotheses of HostMemory are met, clause by clause. -/
theorem wit_hostMemory :
    (∃ (c : ChanIx) (a : Nat) (bs : List Byte) (s : State), ∃ k x, ((k ≠ chanMem s c ∨ x < a ∨ a + bs.length ≤ x))) ∧
    (∃ (c : ChanIx) (a : Nat) (bs : List Byte) (s : State), ∃ h ∈ (hostWrite c a bs s).host, (∀ h ∈ s.host, memWf h.2 = true)) :=
  ⟨⟨0, 4095, [7], up, .fn 0, 4094, by decide +kernel⟩,
   ⟨0, 4095, [7], up, (.fn 0, [(4095, 7)]), by decide +kernel, by decide +kernel⟩⟩

/-- The hypotheses of YardWords are met, clause by clause. -/
theorem wit_yardWords :
    (∃ (i : Instr) (y : YardRef) (g : BitVec 4) (o : BitVec 8) (f : YF), yardRow i = some (y, g, o, f)) ∧
    (∃ (y : YardRef) (w : BitVec 128) (i : Instr), yardDecode y w = some i) ∧
    (∃ (y : YardRef) (w : BitVec 128), 5 ≤ (yardGrp w).toNat) :=
  ⟨⟨.sadd y0 { rd := 31 }, y0, 0, 1, { rd := 31 }, by decide +kernel⟩,
   ⟨y0, yardWord 0 1 { rd := 31 }, .sadd y0 { rd := 31 }, by decide +kernel⟩,
   ⟨y0, yardWord 5 0 {}, by decide +kernel⟩⟩

/-- The hypotheses of DmaWords are met, clause by clause. -/
theorem wit_dmaWords :
    (∃ (i : Instr) (c : DmaIx) (o : BitVec 8) (f : DF), dmaRow i = some (c, o, f)) ∧
    (∃ (c : DmaIx) (w : BitVec 256) (i : Instr), dmaDecode c w = some i) ∧
    (∃ (c : DmaIx) (w : BitVec 256), ((w.extractLsb' 0 8).toNat = 0 ∨ 8 ≤ (w.extractLsb' 0 8).toNat)) :=
  ⟨⟨.dmaEnd 0 {}, 0, 7, {}, by decide +kernel⟩,
   ⟨0, 7, .dmaEnd 0 {}, by decide +kernel⟩,
   ⟨0, 8, by decide +kernel⟩⟩

end Sys2Proof.Tests
end

section
/-! The home slots of extents and of lines (R13, R14): each bit of the fold is the exclusive or of that bit of every digit. -/

namespace Sys2Proof.Machine

/-- A two-bit digit keeps the two low bits of its number. -/
theorem testBit_mod_four {j : Nat} (hj : j < 2) (x : Nat) : (x % 4).testBit j = x.testBit j := by
  simpa [hj] using Nat.testBit_mod_two_pow x 2 j

/-- The fold of R13 takes bit `j` of every two-bit digit, and bits of different weight do not meet. -/
theorem testBit_foldHome {j : Nat} (hj : j < 2) (n e h : Nat) :
    (foldHome n e h).testBit j = (List.range n).foldl (fun b i => xor b (e.testBit (2 * i + j))) (h.testBit j) := by
  induction n generalizing e h with
  | zero => rfl
  | succ n ih =>
    have digit : (Nat.xor h (e % 4)).testBit j = xor (h.testBit j) (e.testBit j) :=
      (Nat.testBit_xor h (e % 4) j).trans (congrArg (xor (h.testBit j)) (testBit_mod_four hj e))
    have later (i : Nat) : (e / 4).testBit (2 * i + j) = e.testBit (2 * (i + 1) + j) := by
      rw [show e / 4 = e / 2 ^ 2 from rfl, Nat.testBit_div_two_pow, show 2 * i + j + 2 = 2 * (i + 1) + j by omega]
    rw [foldHome, ih, digit, List.range_succ_eq_map, List.foldl_cons, List.foldl_map]
    simp [later]

/-- The slot's bit `j` when the folded number is a word's bits from `k` on. -/
theorem testBit_foldHome_word {w j : Nat} (hj : j < 2) (n k h : Nat) (v : BitVec w) :
    (Fin.ofNat 4 (foldHome n (v.toNat / 2 ^ k) h)).val.testBit j =
      (List.range n).foldl (fun b i => xor b (v.getLsbD (2 * i + (k + j)))) (h.testBit j) := by
  have bit (i : Nat) : (v.toNat / 2 ^ k).testBit (2 * i + j) = v.getLsbD (2 * i + (k + j)) := by
    rw [Nat.testBit_div_two_pow, BitVec.testBit_toNat, show 2 * i + j + k = 2 * i + (k + j) by omega]
  simp only [Fin.ofNat, testBit_mod_four hj, testBit_foldHome hj, bit]

/-- A Pool Address has no bits above its extent number, so the 35-bit field loses none. -/
theorem addrExt_toNat (pa : BitVec 56) : (addrExt pa).toNat = pa.toNat / 2 ^ 21 := by
  simp only [addrExt, BitVec.toNat_ofNat]
  omega

/-- The line number of a device-space address keeps every bit from 7 on. -/
theorem deviceLine_toNat (a : BitVec 39) : (a.extractLsb' 7 32).toNat = a.toNat / 2 ^ 7 := by
  simp only [BitVec.extractLsb'_toNat, Nat.shiftRight_eq_div_pow]
  omega

theorem testBit_keySlot {j : Nat} (hj : j < 2) (p : BitVec 12) (pa : BitVec 56) :
    (keySlot (p, addrExt pa)).val.testBit j =
      (List.range 18).foldl (fun b i => xor b (pa.getLsbD (2 * i + (21 + j)))) (p.getLsbD j) := by
  simp only [keySlot, extentSlot, addrExt_toNat, testBit_foldHome_word hj, testBit_mod_four hj, BitVec.testBit_toNat]

theorem testBit_lineSlot {j : Nat} (hj : j < 2) (a : BitVec 39) :
    (lineSlot (a.extractLsb' 7 32)).val.testBit j =
      (List.range 18).foldl (fun b i => xor b (a.getLsbD (2 * i + (7 + j)))) false := by
  rw [lineSlot, deviceLine_toNat, testBit_foldHome_word hj, Nat.zero_testBit]

/-- home_map's entry for a slot is the slot's two-bit digit of the register (R15). -/
theorem homeMap_val (s : State) (n : Fin 4) : (homeMap s n).val = s.glb.homeMap.toNat / 4 ^ n.val % 4 := by
  have width : 2 * n.val + 1 + 1 - 2 * n.val = 2 := by omega
  simp only [homeMap, shedOf, bitsOf, Fin.ofNat, width, Nat.pow_mul]
  exact Nat.mod_mod _ 4

end Sys2Proof.Machine

open Sys2Proof Sys2Proof.Machine

/-- Settles O57: bit by bit, from the fold's digits for extents and for lines, and home_map's two-bit entries. -/
theorem homeSlots : Obligations.HomeSlots :=
  ⟨fun s p pa => ⟨testBit_keySlot (by decide) p pa, testBit_keySlot (by decide) p pa, homeMap_val s _⟩,
   fun s a => ⟨testBit_lineSlot (by decide) a, testBit_lineSlot (by decide) a, homeMap_val s _⟩⟩

end

section
/-! The aperture table (R427): the word that APR_LO holds for an entry, and the entry that a write of APR_HI makes of it. -/

namespace Sys2Proof.Machine

/-- The entry that a table word's two halves describe: APR_LO's fields, and the extent's upper bits above APR_HI. -/
def entryOf (lo hi : W32) : AprEntry :=
  { v := lo.getLsbD 0, write := lo.getLsbD 1, keyId := lo.extractLsb' 8 8, pen := lo.extractLsb' 16 12,
    ext := lo.extractLsb' 28 3 ++ hi }

theorem bitsOf_eq {k m n : Nat} (h : m + 1 - k = n) (v : Nat) : bitsOf v m k = v / 2 ^ k % 2 ^ n := by
  rw [bitsOf, h]

theorem extractLsb'_toNat_div {w : Nat} (v : BitVec w) (k n : Nat) : (v.extractLsb' k n).toNat = v.toNat / 2 ^ k % 2 ^ n := by
  rw [BitVec.extractLsb'_toNat, Nat.shiftRight_eq_div_pow]

/-- A field of `n` bits is the slice of the register from its lowest bit on. -/
theorem ofNat_bitsOf {w k m n : Nat} (h : m + 1 - k = n) (v : BitVec w) :
    BitVec.ofNat n (bitsOf v.toNat m k) = v.extractLsb' k n := by
  apply BitVec.eq_of_toNat_eq
  rw [bitsOf_eq h, extractLsb'_toNat_div, BitVec.toNat_ofNat, Nat.mod_mod]

/-- The extent number: its upper bits in one register, the lower 32 in the other. -/
theorem ofNat_ext (lo hi : W32) :
    BitVec.ofNat 35 (bitsOf lo.toNat 30 28 * 2 ^ 32 + hi.toNat) = lo.extractLsb' 28 3 ++ hi := by
  apply BitVec.eq_of_toNat_eq
  rw [BitVec.toNat_append, ← Nat.shiftLeft_add_eq_or_of_lt hi.isLt, Nat.shiftLeft_eq, extractLsb'_toNat_div,
    BitVec.toNat_ofNat, bitsOf_eq rfl]
  omega

theorem aprHiWrite_eq (f : FnIx) (w : Fin 8192) (v : W32) (s : State) :
    aprHiWrite f w v s = modFn f (fun g => { g with apr := aSet g.apr w (entryOf (aprLoWord s f w) v) }) s := by
  simp only [aprHiWrite, ofNat_ext, ofNat_bitsOf (k := 8) (m := 15) rfl, ofNat_bitsOf (k := 16) (m := 27) rfl,
    BitVec.testBit_toNat, entryOf]

/-- What APR_HI_WRITE of a function does: the one entry takes both halves, and nothing else of the machine changes. -/
theorem exec_aprHiWrite (f : FnIx) (w : Fin 8192) (v : W32) (s : State) :
    ∃ t, exec (.aprHiWrite (.fn f) w v) s = .next t ∧ aGet (fnSt t f).apr w = some (entryOf (aprLoWord s f w) v) ∧
      (∀ x, x ≠ w → aGet (fnSt t f).apr x = aGet (fnSt s f).apr x) ∧ (∀ g, g ≠ f → fnSt t g = fnSt s g) ∧
      { t with fns := s.fns } = s := by
  refine ⟨aprHiWrite f w v s, rfl, ?_, fun x hx => ?_, fun g hg => ?_, rfl⟩ <;> rw [aprHiWrite_eq, fnSt_modFn]
  · simp [aGet_aSet]
  · simp [aGet_aSet, hx.symm]
  · rw [if_neg hg.symm]

/-- A PF0 sees APR_LO as it is stored. -/
theorem aprLoWord_pf {f : FnIx} (hf : f.val % 64 = 0) (s : State) (w : Fin 8192) :
    aprLoWord s f w = aGetD (fnSt s f).aprLo w 0 := if_pos hf

/-- APR_LO with another Pen in its field, as a VF sees it. -/
def withPen (lo : W32) (p : BitVec 12) : W32 :=
  pack [(0, bitsOf lo.toNat 15 0), (16, p.toNat), (28, bitsOf lo.toNat 30 28)]

/-- A VF sees the Pen of its bound channel. -/
theorem aprLoWord_vf {f : FnIx} {s : State} (hf : f.val % 64 ≠ 0) (hb : (chan s (Fin.ofNat 160 f.val)).bound = true)
    (w : Fin 8192) : aprLoWord s f w = withPen (aGetD (fnSt s f).aprLo w 0) (chan s (Fin.ofNat 160 f.val)).pen := by
  simp only [aprLoWord, if_neg hf, hb, if_true, withPen]

theorem pack_three_toNat (i j a b c : Nat) :
    (pack [(0, a), (i, b), (j, c)]).toNat = (a + b * 2 ^ i + c * 2 ^ j) % 2 ^ 32 := by
  simp [pack]

theorem withPen_toNat (lo : W32) (p : BitVec 12) :
    (withPen lo p).toNat = lo.toNat % 2 ^ 16 + p.toNat * 2 ^ 16 + lo.toNat / 2 ^ 28 % 2 ^ 3 * 2 ^ 28 := by
  rw [withPen, pack_three_toNat, bitsOf_eq rfl, bitsOf_eq rfl, Nat.pow_zero, Nat.div_one]
  omega

/-- A word that shows another Pen describes the same entry, with that Pen. -/
theorem entryOf_withPen (lo hi : W32) (p : BitVec 12) :
    entryOf (withPen lo p) hi = { entryOf lo hi with pen := p } := by
  have word := withPen_toNat lo p
  have bit (k : Nat) (h : (withPen lo p).toNat / 2 ^ k % 2 = lo.toNat / 2 ^ k % 2) :
      (withPen lo p).getLsbD k = lo.getLsbD k := by
    simp only [← BitVec.testBit_toNat, Nat.testBit_eq_decide_div_mod_eq, h]
  have field {k n : Nat} {x : BitVec n} (h : (withPen lo p).toNat / 2 ^ k % 2 ^ n = x.toNat) :
      (withPen lo p).extractLsb' k n = x :=
    BitVec.eq_of_toNat_eq ((extractLsb'_toNat_div ..).trans h)
  have key := field (k := 8) (x := lo.extractLsb' 8 8) (by rw [extractLsb'_toNat_div]; omega)
  have upper := field (k := 28) (x := lo.extractLsb' 28 3) (by rw [extractLsb'_toNat_div]; omega)
  have penField := field (k := 16) (x := p) (by omega)
  simp only [entryOf, bit 0 (by omega), bit 1 (by omega), key, penField, upper]

/-! ## A register write of an APR_LO half -/

theorem regRange_aprTable {off : Nat} (h : 0x3800000 ≤ off) (h' : off < 0x3810000) : regRange off = .fn := by
  simp only [regRange]
  iterate 11 rw [if_neg (by omega)]
  rw [if_pos (by omega)]

/-- Seen or discarded, a write of an APR_LO half leaves every table, and all but the functions' own state. -/
theorem writeWord_aprLo (f : FnIx) {off : Nat} (h : 0x3800000 ≤ off) (h' : off < 0x3810000) (ha : off % 8 = 0) (v : W32)
    (s : State) :
    (∀ g, (fnSt (writeWord (.fn f) off v s) g).apr = (fnSt s g).apr) ∧
      { writeWord (.fn f) off v s with fns := s.fns } = s := by
  unfold writeWord
  split
  · exact ⟨fun _ => rfl, rfl⟩
  · have low : writeSeen (.fn f) off v s = aprLoWrite f (Fin.ofNat 8192 ((off - 0x3800000) / 8)) v s := by
      simp only [writeSeen, regRange_aprTable h h', callerFn, writeFn, if_pos h', if_pos ha]
    rw [low]
    refine ⟨fun g => ?_, rfl⟩
    rw [aprLoWrite, fnSt_modFn]
    split
    · next e => rw [e]
    · rfl

theorem exec_registerWrite_word (c : Caller) {off : BitVec 26} (h : off.toNat % 4 = 0) (v : W64) (s : State) :
    exec (.registerWrite c off 4 v) s = .next (writeWord c off.toNat (v.setWidth 32) s) := if_pos ⟨rfl, h⟩

/-! ## A function-level reset (R427) -/

/-- A function's aperture table is empty. -/
def AprCleared (f : FnIx) (s : State) : Prop := (fnSt s f).apr = [] ∧ (fnSt s f).aprLo = []

theorem fnSt_resetFn (f g : FnIx) (s : State) :
    fnSt (resetFn f s) g = if f = g then { errCnt := (fnSt s f).errCnt, aprEvt := (fnSt s f).aprEvt } else fnSt s g :=
  fnSt_modFn ..

theorem resetFn_clears (f : FnIx) (s : State) : AprCleared f (resetFn f s) := by
  simp [AprCleared, fnSt_resetFn]

theorem resetFn_keeps_cleared {f : FnIx} (g : FnIx) {s : State} (h : AprCleared f s) : AprCleared f (resetFn g s) := by
  rw [AprCleared, fnSt_resetFn]
  split
  · exact ⟨rfl, rfl⟩
  · exact h

theorem resetFns_clear {f : FnIx} (l : List FnIx) (s : State) (h : f ∈ l ∨ AprCleared f s) :
    AprCleared f (l.foldl (fun s g => resetFn g s) s) := by
  induction l generalizing s with
  | nil => exact h.resolve_left (List.not_mem_nil)
  | cons g l ih =>
    apply ih
    rcases h with h | h
    · rcases List.mem_cons.mp h with rfl | h
      · exact .inr (resetFn_clears f s)
      · exact .inl h
    · exact .inr (resetFn_keeps_cleared g h)

theorem mem_resetFnsOf (f : FnIx) : f ∈ resetFnsOf f := by
  unfold resetFnsOf
  split
  · exact List.mem_map.mpr ⟨0, by decide, Fin.ofNat_val_eq_self f⟩
  · exact List.mem_singleton.mpr rfl

theorem exec_functionLevelReset_clears (f : FnIx) (s : State) :
    ∃ t, exec (.functionLevelReset f) s = .next t ∧ (fnSt t f).apr = [] ∧ (fnSt t f).aprLo = [] :=
  ⟨_, rfl, resetFns_clear (resetFnsOf f) _ (.inl (mem_resetFnsOf f))⟩

end Sys2Proof.Machine
end

section
/-! Accesses through the aperture (R425, R426): within a 4 KiB block an access is one piece, which is answered, discarded, or
becomes an access of the pool. -/

namespace Sys2Proof.Machine

theorem aprPieces_single {off len : Nat} (n : Nat) (h : off % 4096 + len ≤ 4096) : aprPieces (n + 1) off len = [(off, len)] :=
  if_pos (by omega)

theorem exec_apertureRead_single (f : FnIx) {off : BitVec 34} {len : Nat} (h : off.toNat % 4096 + len ≤ 4096) (s : State) :
    exec (.apertureRead f off len) s = .next (aprRead f s (off.toNat, len)) := by
  change execApertureRead f off len s = _
  rw [execApertureRead, aprPieces_single _ h, List.foldl_cons, List.foldl_nil]

theorem exec_apertureWrite_single (f : FnIx) {off : BitVec 34} {data : List Byte}
    (h : off.toNat % 4096 + data.length ≤ 4096) (s : State) :
    exec (.apertureWrite f off data) s = .next (aprWrite f off.toNat data s (off.toNat, data.length)) := by
  change execApertureWrite f off data s = _
  rw [execApertureWrite, aprPieces_single _ h, List.foldl_cons, List.foldl_nil]

/-! ## Without an entry -/

theorem aprRead_none {f : FnIx} {s : State} {off : Nat} (h : aprEntry s f off = none) (len : Nat) :
    aprRead f s (off, len) = emit (.completion f 1 []) s := by
  simp only [aprRead, h]

theorem aprWrite_refused {f : FnIx} {s : State} {off : Nat}
    (h : aprEntry s f off = none ∨ ∃ e, aprEntry s f off = some e ∧ e.write = false) (base : Nat) (data : List Byte) (len : Nat) :
    aprWrite f base data s (off, len) = aprError f s := by
  rcases h with h | ⟨e, h, hw⟩
  · simp only [aprWrite, h]
  · simp [aprWrite, h, hw]

/-- A refused access is counted and flagged at its function; beyond that only the Daymark hears of it. -/
theorem fnSt_aprError (f : FnIx) (s : State) :
    fnSt (aprError f s) f = { fnSt s f with errCnt := satInc (fnSt s f).errCnt, aprEvt := true } :=
  (fnSt_modFn f f (fun g => { g with errCnt := satInc g.errCnt, aprEvt := true }) s).trans (if_pos rfl)

theorem aprError_frame (f : FnIx) (s : State) : { aprError f s with fns := s.fns, dmk := s.dmk } = s := rfl

/-! ## Through an entry -/

theorem aprRead_entry {f : FnIx} {s : State} {off : Nat} {e : AprEntry} (h : aprEntry s f off = some e) (len : Nat) :
    aprRead f s (off, len) = aprGo f e.pen e.keyId (aprAddr e off) len none s := by
  simp only [aprRead, h]

/-- The one piece of a write carries all of its data. -/
theorem aprWrite_entry {f : FnIx} {s : State} {off : Nat} {e : AprEntry} (h : aprEntry s f off = some e) (hw : e.write = true)
    (data : List Byte) :
    aprWrite f off data s (off, data.length) = aprGo f e.pen e.keyId (aprAddr e off) data.length (some data) s := by
  simp [aprWrite, h, hw]

/-- A translated access that waits behind no other and that stations 5 to 8 pass starts its access of the pool at the Shed
that the free choice gives. -/
theorem aprGo_pass {f : FnIx} {p : BitVec 12} {key : BitVec 8} {addr : BitVec 56} {len : Nat} {data : Option (List Byte)}
    {s u : State} (hp : p ≠ 0) (hq : aprQueued s f = none) (hu : u = { s with fresh := s.fresh + 1 })
    (hg : ∀ sh walk, gates (if data.isSome then 0x03 else 0x01) (aprRx u sh p key addr len) walk u = .pass) :
    ∃ sh, aprGo f p key addr len data s =
      startJob { id := 0, orig := .apr f, pen := p, key := rxKey u (aprRx u sh p key addr len), off := addrOff addr, len,
                 store := data.isSome, data := data.getD [] }
        (touchEtc sh (rxKey u (aprRx u sh p key addr len)) u) := by
  subst hu
  refine ⟨shedOf (Config.pick s.fresh), ?_⟩
  have unqueued : aprQueued { s with fresh := s.fresh + 1 } f = none := hq
  simp only [aprGo, takePick, unqueued, if_neg hp, hg]

end Sys2Proof.Machine

open Sys2Proof Sys2Proof.Machine

/-- Settles O50: the table changes at its APR_HI half by the entry that both halves describe, and an access that stays within
a 4 KiB block is one piece, judged by its entry and by the stations. -/
theorem poolAperture : Obligations.PoolAperture := by
  refine ⟨fun f w v s hf => ?_, fun f w v s hf hb => ?_, fun f off v s lo hi ha => ?_, exec_functionLevelReset_clears,
    fun _ _ _ => ⟨rfl, rfl⟩, fun f off len s h hn => ?_, fun f off data s h hn => ?_,
    fun f off len e s u h he hp hq hu hg => ?_, fun f off data e s u h he hw hp hq hu hg => ?_⟩
  · have put := exec_aprHiWrite f w v s
    rwa [aprLoWord_pf hf] at put
  · have put := exec_aprHiWrite f w v s
    rwa [aprLoWord_vf hf hb, entryOf_withPen] at put
  · exact ⟨_, exec_registerWrite_word _ (by omega) v s, writeWord_aprLo f lo hi ha _ s⟩
  · rw [exec_apertureRead_single f h, aprRead_none hn, emit]
  · rw [exec_apertureWrite_single f h, aprWrite_refused hn]
    exact ⟨_, rfl, congrArg Fn.errCnt (fnSt_aprError f s), congrArg Fn.aprEvt (fnSt_aprError f s), aprError_frame f s⟩
  · obtain ⟨sh, go⟩ := aprGo_pass (data := none) hp hq hu hg
    exact ⟨sh, by rw [exec_apertureRead_single f h, aprRead_entry he, go]; rfl⟩
  · obtain ⟨sh, go⟩ := aprGo_pass (data := some data) hp hq hu hg
    exact ⟨sh, by rw [exec_apertureWrite_single f h, aprWrite_entry he hw, go]; rfl⟩

end

section
/-! The journal's halves (R443 to R447): what a record, a half, an append, a compaction and a mount's scan hold. -/

namespace Sys2Proof.Machine

theorem getLsbD_orBit {w : Nat} (v : BitVec w) {bit : Nat} (h : bit < w) : (orBit v bit).getLsbD bit = true := by
  simp [orBit, h]

theorem recOk_mkRec (k : W32) (v : List Byte) (q : W32) : recOk (mkRec k v q) = true := by
  simp [recOk, mkRec]

theorem halfValid_mkHalf (g : W32) (l : List JRec) : halfValid (mkHalf g l) = true := by
  simp [halfValid, mkHalf]

theorem activeHalf_setActiveHalf (h : JHalf) (s : State) : activeHalf (setActiveHalf h s) = h := by
  cases e : s.jnl.active <;> simp [activeHalf, setActiveHalf, e]

/-- A write of the active half leaves the other half alone. -/
theorem setActiveHalf_other (h : JHalf) (s : State) :
    if s.jnl.active then (setActiveHalf h s).nor.half0 = s.nor.half0 else (setActiveHalf h s).nor.half1 = s.nor.half1 := by
  cases e : s.jnl.active <;> simp [setActiveHalf, e]

theorem setActiveHalf_image (h : JHalf) (s : State) : (setActiveHalf h s).nor.image = s.nor.image := by
  cases e : s.jnl.active <;> simp [setActiveHalf, e]

/-! ## Appends (R444 to R446) -/

/-- The append's own step, once the half has room: the record of the next sequence number, last in the active half. -/
def appendLast (k : W32) (v : List Byte) (s : State) : State :=
  setActiveHalf { activeHalf s with recs := (activeHalf s).recs ++ [mkRec k v (s.jnl.gen + 1)] }
    { s with jnl := { s.jnl with gen := s.jnl.gen + 1, appendCnt := satInc s.jnl.appendCnt } }

/-- An append is that step, after a compaction where a repair or the 75 % limit asks for one. A compaction keeps the
generation, so the record is the same either way. -/
theorem journalAppend_eq (k : W32) (v : List Byte) (s : State) :
    journalAppend k v s = appendLast k v
      (if s.jnl.repair ∨ halfSize * 3 / 4 < halfUsed (activeHalf s) + recSize (mkRec k v (s.jnl.gen + 1)) then compact s
       else s) := by
  unfold journalAppend
  dsimp only
  split <;> rfl

theorem journalAppend_roomy {k : W32} {v : List Byte} {s : State} (hr : s.jnl.repair = false)
    (hu : halfUsed (activeHalf s) + (32 + (v.length + 15) / 16 * 16) ≤ 6291456) :
    journalAppend k v s = appendLast k v s := by
  have room : ¬ halfSize * 3 / 4 < halfUsed (activeHalf s) + recSize (mkRec k v (s.jnl.gen + 1)) := Nat.not_lt.mpr hu
  rw [journalAppend_eq, if_neg (by simp only [hr, room, Bool.false_eq_true, or_self, not_false_eq_true])]

theorem activeHalf_appendLast (k : W32) (v : List Byte) (s : State) :
    (activeHalf (appendLast k v s)).recs = (activeHalf s).recs ++ [mkRec k v (s.jnl.gen + 1)] := by
  rw [appendLast, activeHalf_setActiveHalf]

/-- The generation after an append is the SEQ of the record that it has put last, a committed one (R447). -/
theorem appendLast_gen (k : W32) (v : List Byte) (s : State) :
    ∃ r, (activeHalf (appendLast k v s)).recs.getLast? = some r ∧ recOk r = true ∧ r.seq = (appendLast k v s).jnl.gen :=
  ⟨mkRec k v (s.jnl.gen + 1), by simp [activeHalf_appendLast], recOk_mkRec .., rfl⟩

theorem journalAppend_gen (k : W32) (v : List Byte) (s : State) :
    ∃ r, (activeHalf (journalAppend k v s)).recs.getLast? = some r ∧ recOk r = true ∧
      r.seq = (journalAppend k v s).jnl.gen := by
  rw [journalAppend_eq]
  exact appendLast_gen k v _

/-! ## Compactions (R446) -/

theorem activeHalf_compact (s : State) :
    activeHalf (compact s) = mkHalf ((activeHalf s).gen + 1) (liveRecs (scanned (activeHalf s))) := by
  cases e : s.jnl.active <;> simp [activeHalf, compact, setJnlEvt, e]

/-- The half that was active is erased. -/
theorem compact_erases (s : State) :
    if s.jnl.active then (compact s).nor.half1.erased = true else (compact s).nor.half0.erased = true := by
  cases e : s.jnl.active <;> simp [compact, setJnlEvt, e]

/-! ## The mount's scan (R444, R447) -/

/-- The last step of a mount: the active half is scanned, which gives the generation and says whether records are ignored. -/
def scanActive (s : State) : State :=
  let ok := scanned (activeHalf s)
  let bad := decide (ok.length < (activeHalf s).recs.length)
  let t := { s with jnl := { s.jnl with repair := bad, gen := ((ok.getLast?).map (·.seq)).getD 0 } }
  if bad then setJnlEvt 4 t else t

theorem mountJournal_scans (s : State) : ∃ u, mountJournal s = scanActive u := ⟨_, rfl⟩

theorem activeHalf_scanActive (s : State) : activeHalf (scanActive s) = activeHalf s := by
  unfold scanActive
  dsimp only
  split <;> rfl

theorem scanActive_gen (s : State) :
    (scanActive s).jnl.gen = (((scanned (activeHalf s)).getLast?).map (·.seq)).getD 0 := by
  unfold scanActive
  dsimp only
  split <;> rfl

theorem mountJournal_gen (s : State) :
    (mountJournal s).jnl.gen = (((scanned (activeHalf (mountJournal s))).getLast?).map (·.seq)).getD 0 := by
  obtain ⟨u, mount⟩ := mountJournal_scans s
  rw [mount, activeHalf_scanActive, scanActive_gen]

/-! ## Taking a request leaves the journal alone -/

theorem activeHalf_take (op : Nat) (d : Bool) (r : Req) (s : State) : activeHalf (takeRequest op d r s) = activeHalf s := by
  simp only [activeHalf, takeRequest_jnl, takeRequest_nor]

theorem jValue_take (op : Nat) (d : Bool) (r : Req) (s : State) (key : Nat) :
    jValue (takeRequest op d r s) key = jValue s key := by
  simp only [jValue, takeRequest_jnl, activeHalf_take]

theorem liveAfter_take (op : Nat) (d : Bool) (r : Req) (s : State) (key : W32) (v : List Byte) :
    liveAfter (takeRequest op d r s) key v = liveAfter s key v := by
  simp only [liveAfter, takeRequest_jnl, activeHalf_take]

end Sys2Proof.Machine
end

section
/-! CONFIG_GET and CONFIG_SET (R337, R345, R448): the two commands of an accepted request, by the kind of their key. -/

namespace Sys2Proof.Machine

theorem toLe_length (n v : Nat) : (toLe n v).length = n := by
  induction n generalizing v with
  | zero => rfl
  | succ n ih => rw [toLe, List.length_cons, ih]

/-- The payload of a request that passes the checks reaches the end of each of its command's fields (R329). -/
theorem Accepts.fields_le {c : Cmd} {isIn : Bool} {r : Req} {s : State} (h : Accepts c isIn r s) {f : Nat × Nat}
    (hf : f ∈ c.fields) : f.1 + f.2 ≤ r.payload.length := by
  have ok : payloadOk c.fields r.payload = true := by
    by_contra bad
    have passes := h.passes
    simp only [requestStatus, Bool.eq_false_iff.mpr bad, true_or, or_true, if_true] at passes
    split_ifs at passes with recovery caller named level
    all_goals contradiction
  simp only [payloadOk, Bool.and_eq_true, List.all_eq_true, decide_eq_true_eq] at ok
  exact ok.1.2 f hf

/-! ## CONFIG_GET -/

theorem exec_configGet {r : Req} {s : State} (h : Accepts (cmdConfigGet r) false r s) :
    exec (.configGet r) s = .next (configGet r (replyOf s 0x100 r) (takeRequest 0x100 false r s)) :=
  congrArg _ (mbx_accepts h (configGet r))

theorem configValue_default {s : State} {key : Nat} {row : SettingRow} (hr : settingRow key = some row)
    (hj : jValue s key = none) : configValue s key = toLe 8 row.dflt := by
  simp only [configValue, hj, hr]

theorem configGet_default {r : Req} {s : State} {row : SettingRow} (hr : settingRow (reqKey r) = some row)
    (hl : localLen (reqKey r) = none) (hj : jValue s (reqKey r) = none) (rep : Reply) :
    configGet r rep s = post rep stOk (toLe 4 8 ++ toLe 8 row.dflt) s := by
  simp [configGet, hl, hr, configValue_default hr hj, toLe_length]

/-! ## CONFIG_SET -/

theorem exec_configSet {r : Req} {s : State} (h : Accepts (cmdConfigSet r) true r s) :
    exec (.configSet r) s = .next (configSet r (replyOf s 0x101 r) (takeRequest 0x101 true r s)) :=
  congrArg _ (mbx_accepts h (configSet r))

/-- A value of at most 224 B stands in the payload. -/
theorem setValue_inline {r : Req} {n : Nat} (h : leAt r.payload 4 4 = n) (hn : n ≤ 224) (s : State) :
    setValue s r = (r.payload.drop 8).take n := by
  simp only [setValue, h, if_pos hn]

theorem Accepts.payload_holds_value {r : Req} {s : State} (h : Accepts (cmdConfigSet r) true r s) {n : Nat}
    (he : leAt r.payload 4 4 = n) (hn : n ≤ 224) : 8 + n ≤ r.payload.length := by
  have reach := h.fields_le (f := (0, 8 + n)) (by simp [cmdConfigSet, he, hn])
  omega

theorem configSet_local {r : Req} {s : State} {n : Nat} (hl : localLen (reqKey r) = some n)
    (hv : (setValue s r).length = n) (ho : localOk (reqKey r) (leNat (setValue s r)) = true) (rep : Reply) :
    configSet r rep s =
      post rep stOk [] (flushHeld r.chan (modChan r.chan (localSet (reqKey r) (setValue s r)) s)) := by
  simp [configSet, hl, hv, ho]

theorem configSet_locked {r : Req} {s : State} (hl : localLen (reqKey r) = none) (hv : (setValue s r).length ≤ 4096)
    (ho : configVerdict s (reqKey r) (setValue s r) = stOk) (hn : s.jnl.nvLock = true) (rep : Reply) :
    configSet r rep s = post rep stNvLocked [] (setJnlEvt 3 s) := by
  simp only [configSet, hl, ho, hn, nvLocked, if_neg (Nat.not_lt.mpr hv), ne_eq, not_true_eq_false, if_false, if_true]

theorem configSet_appends {r : Req} {s : State} (hl : localLen (reqKey r) = none) (hv : (setValue s r).length ≤ 4096)
    (ho : configVerdict s (reqKey r) (setValue s r) = stOk) (hn : s.jnl.nvLock = false)
    (hs : liveAfter s (BitVec.ofNat 32 (reqKey r)) (setValue s r) ≤ 4194304) (rep : Reply) :
    configSet r rep s = post rep stOk [] (applySetting (reqKey r)
      (logConfig (journalAppend (BitVec.ofNat 32 (reqKey r)) (setValue s r) s))) := by
  have room : ¬ 4 * 2 ^ 20 < liveAfter s (BitVec.ofNat 32 (reqKey r)) (setValue s r) := Nat.not_lt.mpr hs
  simp only [configSet, hl, ho, hn, if_neg (Nat.not_lt.mpr hv), if_neg room, ne_eq, not_true_eq_false, Bool.false_eq_true,
    if_false]

theorem configVerdict_setting {s : State} {key : Nat} {v : List Byte} {row : SettingRow} (hr : settingRow key = some row)
    (hv : v.length = 8) (lo : row.lo ≤ leNat v) (hi : leNat v ≤ row.hi) (hf : settingFits s key (leNat v) = true) :
    configVerdict s key v = stOk := by
  have nonempty : v.isEmpty = false := List.isEmpty_eq_false_iff.mpr (by rintro rfl; simp at hv)
  simp [configVerdict, hr, hv, nonempty, lo, hi, hf]

/-! ## The ring's length, a channel-local key -/

theorem flushNotices_none {c : ChanIx} {s : State} (h : (chan s c).held = []) (n : Nat) : flushNotices c n s = s := by
  cases n with
  | zero => rfl
  | succ n => simp only [flushNotices, h]

/-- Where no notice is held, a change of the ring has none to write. -/
theorem flushHeld_none {c : ChanIx} {s : State} (h : (chan s c).held = []) : flushHeld c s = s := by
  unfold flushHeld
  split
  · exact flushNotices_none h 64
  · rfl

theorem startNext_held (op : Nat) (t : W32) (q : Channel) : (startNext op t q).held = q.held := by
  unfold startNext
  split <;> rfl

theorem localOk_ringEntries {n : Nat} (h : n = 0 ∨ (isPow2 n = true ∧ 16 ≤ n ∧ n ≤ 65536)) :
    localOk 0xFFFF0001 n = true := by
  rcases h with rfl | ⟨pow, lo, hi⟩
  · rfl
  · simp [localOk, pow, lo, hi]

theorem localSet_ringEntries (v : List Byte) (q : Channel) :
    localSet 0xFFFF0001 v q = { q with ringEntries := fieldLe 32 v 0 4, ntcProd := 0, ntcCons := 0 } := rfl

/-- Four bytes cut out of a payload spell the number that stands there. -/
theorem fieldLe_take (bs : List Byte) (off : Nat) : fieldLe 32 ((bs.drop off).take 4) 0 4 = BitVec.ofNat 32 (leAt bs off 4) := by
  simp [fieldLe, leAt, List.take_take]

/-- The state in which a taken CONFIG_SET has written its channel's ring length (R337). -/
def ringSet (r : Req) (s : State) : State :=
  modChan r.chan (localSet 0xFFFF0001 ((r.payload.drop 8).take 4)) (takeRequest 0x101 true r s)

theorem chan_ringSet (r : Req) (s : State) :
    chan (ringSet r s) r.chan = { startNext 0x101 r.tag (chan s r.chan) with
      ringEntries := BitVec.ofNat 32 (leAt r.payload 8 4), ntcProd := 0, ntcCons := 0 } := by
  rw [ringSet, chan_modChan, if_pos rfl, chan_take, if_pos rfl, localSet_ringEntries, fieldLe_take]

theorem chan_ringSet_other (r : Req) (s : State) {c : ChanIx} (h : c ≠ r.chan) : chan (ringSet r s) c = chan s c := by
  rw [ringSet, chan_modChan, if_neg h.symm, chan_take, if_neg h.symm]

theorem exec_configSet_ringEntries {r : Req} {s : State} (ha : Accepts (cmdConfigSet r) true r s)
    (hk : reqKey r = 0xFFFF0001) (hn : leAt r.payload 4 4 = 4) (hh : (chan s r.chan).held = [])
    (hv : leAt r.payload 8 4 = 0 ∨ (isPow2 (leAt r.payload 8 4) = true ∧ 16 ≤ leAt r.payload 8 4 ∧ leAt r.payload 8 4 ≤ 65536)) :
    exec (.configSet r) s = .next (post (replyOf s 0x101 r) stOk [] (ringSet r s)) := by
  have value := setValue_inline hn (by decide) (takeRequest 0x101 true r s)
  have reach := ha.payload_holds_value hn (by decide)
  have none_held : (chan (ringSet r s) r.chan).held = [] := by rw [chan_ringSet, startNext_held, hh]
  rw [exec_configSet ha, configSet_local (n := 4) (by rw [hk]; rfl) (by rw [value, List.length_take, List.length_drop]; omega)
    (by rw [hk, value]; exact localOk_ringEntries hv), hk, value, ← ringSet, flushHeld_none none_held]

/-! ## Key 0x20F00, the limit of chatter edges (R448, R456), a setting that no register holds -/

theorem settingRow_edgeLimit : settingRow 0x20F00 = some ⟨0x20F00, 64, 8, 1024⟩ := by rfl

theorem applySetting_edgeLimit (s : State) : applySetting 0x20F00 s = s := by rfl

theorem setValue_edgeLimit {r : Req} (hn : leAt r.payload 4 4 = 8) (hp : r.payload.length = 16) (s : State) :
    setValue s r = r.payload.drop 8 := by
  rw [setValue_inline hn (by decide), List.take_of_length_le (by simp [hp])]

theorem configVerdict_edgeLimit {r : Req} (hp : r.payload.length = 16) (lo : 8 ≤ leAt r.payload 8 8)
    (hi : leAt r.payload 8 8 ≤ 1024) (s : State) : configVerdict s 0x20F00 (r.payload.drop 8) = stOk := by
  have num : leAt r.payload 8 8 = leNat (r.payload.drop 8) := by rw [leAt, List.take_of_length_le (by simp [hp])]
  exact configVerdict_setting settingRow_edgeLimit (by simp [hp]) (num ▸ lo) (num ▸ hi) rfl

end Sys2Proof.Machine

open Sys2Proof Sys2Proof.Machine

/-- Settles O12: the two commands by the kind of their key, and an append, a compaction and a mount's scan by what the
active half holds after each. -/
theorem configurationJournal : Obligations.ConfigurationJournal := by
  refine ⟨fun r s row ha hr hl hj => ?_, fun r s ha hk hn hh hv => ?_, fun r s ha hk hn lo hi hp hl hs => ?_,
    fun r s ha hk hn lo hi hp hl => ?_, fun k v s hr hu => ?_, fun s => ?_, fun s => ?_, journalAppend_gen⟩
  · rw [exec_configGet ha, configGet_default hr hl (by rw [jValue_take, hj])]
  · have bound : leAt r.payload 8 4 < 2 ^ 32 := by omega
    refine ⟨ringSet r s, exec_configSet_ringEntries ha hk hn hh hv, ?_, ?_, ?_, fun c => chan_ringSet_other r s, ?_, ?_⟩
    · rw [chan_ringSet, BitVec.toNat_ofNat, Nat.mod_eq_of_lt bound]
    · rw [chan_ringSet]
    · rw [chan_ringSet]
    · rw [ringSet, modChan_jnl, takeRequest_jnl]
    · rw [ringSet, modChan_nor, takeRequest_nor]
  · have value := setValue_edgeLimit hn hp (takeRequest 0x101 true r s)
    rw [exec_configSet ha, configSet_appends (by rw [hk]; rfl) (by simp [value, hp])
      (by rw [hk, value]; exact configVerdict_edgeLimit hp lo hi _) (by rw [takeRequest_jnl, hl])
      (by rw [hk, value, liveAfter_take]; exact hs), hk, value, applySetting_edgeLimit]
    rfl
  · have value := setValue_edgeLimit hn hp (takeRequest 0x101 true r s)
    rw [exec_configSet ha, configSet_locked (by rw [hk]; rfl) (by simp [value, hp])
      (by rw [hk, value]; exact configVerdict_edgeLimit hp lo hi _) (by rw [takeRequest_jnl, hl])]
  · rw [journalAppend_roomy hr hu]
    exact ⟨activeHalf_appendLast k v s, recOk_mkRec .., rfl, rfl, rfl, setActiveHalf_other .., setActiveHalf_image .., rfl⟩
  · dsimp only
    rw [activeHalf_compact]
    exact ⟨rfl, rfl, halfValid_mkHalf .., rfl, compact_erases s, getLsbD_orBit _ (by decide), rfl⟩
  · dsimp only
    rw [mountJournal_gen]
    cases (scanned (activeHalf (mountJournal s))).getLast? <;> rfl

end
